-- ==== Sys2Proof/Word.lean ====
section
/-! DEFINITION. The widths of the machine: words, extended-precision registers, addresses (R6, R20, R80). -/
namespace Sys2Proof

/-- A 32-bit machine word: a register, a memory word, an instruction word (R6). -/
abbrev Word := BitVec 32

/-- A 40-bit extended-precision register: exponent in bits 39-32, mantissa in bits 31-0 (R22). -/
abbrev Ext := BitVec 40

/-- A 24-bit word address (R80). -/
abbrev Addr := BitVec 24

/-- A byte, the unit the memory list is written in (log 3). -/
abbrev Byte := BitVec 8

/-- A register number of a floating-point operand, R0 to R7. -/
abbrev FReg := BitVec 3

end Sys2Proof
end

