-- ==== Sys2Proof/Config.lean ====
section
/-! DEFINITION. What an implementation fixes, and the free values: constants without a body. -/
namespace Sys2Proof.Config

/-- What a byte of memory that nothing has written reads as. DESIGN CHOICE, unsafe (log 3): the spec gives on-chip RAM
and external memory no contents (R89, R805). -/
def unlistedByte : Byte := 0

/-- A free bit, applied to the counter of State (log 6): a choice the spec leaves to timing it does not give (U19, U21,
U22, D5, D6, N62-3, N45-1). -/
opaque freeBit : Nat → Bool

/-- A free 32-bit word (log 6): a register after a RESET pulse (D29), the receive shifter after receiver reset (U24). -/
opaque freeWord : Nat → Word

/-- A free 40-bit value (log 6): an extended-precision register after a RESET pulse (D29). -/
opaque freeExt : Nat → Ext

end Sys2Proof.Config
end

