-- ==== Sys2Proof/Syntax.lean ====
section
/-! DEFINITION. The instructions as terms: registers, conditions, operands, and one constructor for each row of the
opcode table (30_encoding.md, 41_addressing.md). -/
namespace Sys2Proof

/-- The 28 registers of the CPU register file, by name (R20). -/
inductive Reg where
  | r (n : BitVec 3)
  | ar (n : BitVec 3)
  | dp | ir0 | ir1 | bk | sp | st | ie | ifr | iof | rs | re | rc
  deriving DecidableEq, Repr

/-- The twenty conditions, by their first mnemonic in the table of R441. -/
inductive Cond where
  | u | lo | ls | hi | hs | eq | ne | lt | le | gt | ge
  | nv | v | nuf | uf | nlv | lv | nluf | luf | zuf
  deriving DecidableEq, Repr

/-- The eight ways an indirect operand uses its step (R251 to R258). -/
inductive IndOp where
  | preAdd | preSub | preAddMod | preSubMod | postAdd | postSub | postAddCirc | postSubCirc
  deriving DecidableEq, Repr

/-- The step of an indirect operand: a displacement, IR0 or IR1 (R250). -/
inductive Step (δ : Type) where
  | disp (d : δ)
  | ir0
  | ir1
  deriving DecidableEq, Repr

/-- An indirect operand through ARn (R250 to R262). `δ` is the displacement an instruction word carries: 8 bits in the
general form, nothing in the three-operand and parallel forms, where it is 1 (R265). -/
inductive Ind (δ : Type) where
  | idx (op : IndOp) (step : Step δ) (n : BitVec 3)
  | plain (n : BitVec 3)
  | bitrev (n : BitVec 3)
  deriving DecidableEq, Repr

/-- The source of the general form: register, direct, indirect or immediate (R142). `ρ` is `Reg`, or `FReg` where only
R0-R7 are allowed. -/
inductive Src (ρ : Type) where
  | reg (r : ρ)
  | dir (a : BitVec 16)
  | ind (i : Ind (BitVec 8))
  | imm (v : BitVec 16)
  deriving DecidableEq, Repr

/-- A memory operand of the general form: direct or indirect (R313, R501). -/
inductive MemOp where
  | dir (a : BitVec 16)
  | ind (i : Ind (BitVec 8))
  deriving DecidableEq, Repr

/-- The operand of NOP: none, or an indirect operand whose address update and dummy read take place (R454). -/
inductive NopOp where
  | none
  | ind (i : Ind (BitVec 8))
  deriving DecidableEq, Repr

/-- A source of the three-operand form: register or indirect (R150). -/
inductive Src3 (ρ : Type) where
  | reg (r : ρ)
  | ind (i : Ind Unit)
  deriving DecidableEq, Repr

/-- The target of a conditional branch or call: a register or a signed displacement (R160). -/
inductive Target where
  | reg (r : Reg)
  | rel (d : BitVec 16)
  deriving DecidableEq, Repr

/-- The instructions, one constructor for each row of the opcode table. Parallel forms name their fields from the left
of the word: register fields, then the operand in bits 15-8, then the one in bits 7-0 (R522, R523). -/
inductive Instr where
  /-- ABSF: R334. -/
  | absf (src : Src FReg) (dst : FReg)
  /-- ABSI: R335. -/
  | absi (src : Src Reg) (dst : Reg)
  /-- ADDC: R336. -/
  | addc (src : Src Reg) (dst : Reg)
  /-- ADDF: R337. -/
  | addf (src : Src FReg) (dst : FReg)
  /-- ADDI: R338. -/
  | addi (src : Src Reg) (dst : Reg)
  /-- AND: R339. -/
  | and (src : Src Reg) (dst : Reg)
  /-- ANDN: R340. -/
  | andn (src : Src Reg) (dst : Reg)
  /-- ASH: R341. -/
  | ash (src : Src Reg) (dst : Reg)
  /-- CMPF: R342. -/
  | cmpf (src : Src FReg) (dst : FReg)
  /-- CMPI: R343. -/
  | cmpi (src : Src Reg) (dst : Reg)
  /-- FIX: R344. -/
  | fix (src : Src FReg) (dst : Reg)
  /-- FLOAT: R345. -/
  | float (src : Src Reg) (dst : FReg)
  /-- LDE: R301. -/
  | lde (src : Src FReg) (dst : FReg)
  /-- LDF: R302. -/
  | ldf (src : Src FReg) (dst : FReg)
  /-- LDI: R305. -/
  | ldi (src : Src Reg) (dst : Reg)
  /-- LDM: R307. -/
  | ldm (src : Src FReg) (dst : FReg)
  /-- LSH: R346. -/
  | lsh (src : Src Reg) (dst : Reg)
  /-- MPYF: R347. -/
  | mpyf (src : Src FReg) (dst : FReg)
  /-- MPYI: R348. -/
  | mpyi (src : Src Reg) (dst : Reg)
  /-- NEGB: R349. -/
  | negb (src : Src Reg) (dst : Reg)
  /-- NEGF: R350. -/
  | negf (src : Src FReg) (dst : FReg)
  /-- NEGI: R351. -/
  | negi (src : Src Reg) (dst : Reg)
  /-- NORM: R352. -/
  | norm (src : Src FReg) (dst : FReg)
  /-- NOT: R353. -/
  | not (src : Src Reg) (dst : Reg)
  /-- OR: R354. -/
  | or (src : Src Reg) (dst : Reg)
  /-- RND: R355. -/
  | rnd (src : Src FReg) (dst : FReg)
  /-- SUBB: R360. -/
  | subb (src : Src Reg) (dst : Reg)
  /-- SUBC: R361. -/
  | subc (src : Src Reg) (dst : Reg)
  /-- SUBF: R362. -/
  | subf (src : Src FReg) (dst : FReg)
  /-- SUBI: R363. -/
  | subi (src : Src Reg) (dst : Reg)
  /-- SUBRB: R364. -/
  | subrb (src : Src Reg) (dst : Reg)
  /-- SUBRF: R365. -/
  | subrf (src : Src FReg) (dst : FReg)
  /-- SUBRI: R366. -/
  | subri (src : Src Reg) (dst : Reg)
  /-- TSTB: R367. -/
  | tstb (src : Src Reg) (dst : Reg)
  /-- XOR: R368. -/
  | xor (src : Src Reg) (dst : Reg)
  /-- LDFI: R501. -/
  | ldfi (src : MemOp) (dst : FReg)
  /-- LDII: R502. -/
  | ldii (src : MemOp) (dst : Reg)
  /-- STF: R313. -/
  | stf (src : FReg) (dst : MemOp)
  /-- STFI: R504. -/
  | stfi (src : FReg) (dst : MemOp)
  /-- STI: R314. -/
  | sti (src : Reg) (dst : MemOp)
  /-- STII: R505. -/
  | stii (src : Reg) (dst : MemOp)
  /-- POP: R309. -/
  | pop (dst : Reg)
  /-- POPF: R310. -/
  | popf (dst : FReg)
  /-- PUSH: R311. -/
  | push (src : Reg)
  /-- PUSHF: R312. -/
  | pushf (src : FReg)
  /-- ROL: R356. -/
  | rol (dst : Reg)
  /-- ROLC: R357. -/
  | rolc (dst : Reg)
  /-- ROR: R358. -/
  | ror (dst : Reg)
  /-- RORC: R359. -/
  | rorc (dst : Reg)
  /-- RPTS: R461. -/
  | rpts (src : Src Reg)
  /-- IACK: R453. -/
  | iack (src : MemOp)
  /-- NOP: R454. -/
  | nop (src : NopOp)
  /-- LDP: R308. -/
  | ldp (dst : Reg) (imm : BitVec 16)
  /-- IDLE: R456. -/
  | idle
  /-- IDLE2: R470. -/
  | idle2
  /-- MAXSPEED: R473. -/
  | maxspeed
  /-- LOPOWER: R472. -/
  | lopower
  /-- SIGI: R503. -/
  | sigi
  /-- SWI: R466. -/
  | swi
  /-- ADDC3: R401. -/
  | addc3 (src1 src2 : Src3 Reg) (dst : Reg)
  /-- ADDF3: R402. -/
  | addf3 (src1 src2 : Src3 FReg) (dst : FReg)
  /-- ADDI3: R403. -/
  | addi3 (src1 src2 : Src3 Reg) (dst : Reg)
  /-- AND3: R404. -/
  | and3 (src1 src2 : Src3 Reg) (dst : Reg)
  /-- ANDN3: R405. -/
  | andn3 (src1 src2 : Src3 Reg) (dst : Reg)
  /-- ASH3: R406. -/
  | ash3 (src1 src2 : Src3 Reg) (dst : Reg)
  /-- CMPF3: R407. -/
  | cmpf3 (src1 src2 : Src3 FReg)
  /-- CMPI3: R408. -/
  | cmpi3 (src1 src2 : Src3 Reg)
  /-- LSH3: R409. -/
  | lsh3 (src1 src2 : Src3 Reg) (dst : Reg)
  /-- MPYF3: R410. -/
  | mpyf3 (src1 src2 : Src3 FReg) (dst : FReg)
  /-- MPYI3: R411. -/
  | mpyi3 (src1 src2 : Src3 Reg) (dst : Reg)
  /-- OR3: R412. -/
  | or3 (src1 src2 : Src3 Reg) (dst : Reg)
  /-- SUBB3: R413. -/
  | subb3 (src1 src2 : Src3 Reg) (dst : Reg)
  /-- SUBF3: R414. -/
  | subf3 (src1 src2 : Src3 FReg) (dst : FReg)
  /-- SUBI3: R415. -/
  | subi3 (src1 src2 : Src3 Reg) (dst : Reg)
  /-- TSTB3: R416. -/
  | tstb3 (src1 src2 : Src3 Reg)
  /-- XOR3: R417. -/
  | xor3 (src1 src2 : Src3 Reg) (dst : Reg)
  /-- LDFcond: R304. -/
  | ldfCond (c : Cond) (src : Src FReg) (dst : FReg)
  /-- LDIcond: R306. -/
  | ldiCond (c : Cond) (src : Src Reg) (dst : Reg)
  /-- BR: R445. -/
  | br (target : Addr)
  /-- BRD: R446. -/
  | brd (target : Addr)
  /-- CALL: R448. -/
  | call (target : Addr)
  /-- RPTB: R460. -/
  | rptb (target : Addr)
  /-- Bcond: R443. -/
  | bCond (c : Cond) (target : Target)
  /-- BcondD: R444. -/
  | bCondD (c : Cond) (target : Target)
  /-- DBcond: R451. -/
  | dbCond (n : BitVec 3) (c : Cond) (target : Target)
  /-- DBcondD: R452. -/
  | dbCondD (n : BitVec 3) (c : Cond) (target : Target)
  /-- CALLcond: R449. -/
  | callCond (c : Cond) (target : Target)
  /-- TRAPcond: R462. -/
  | trapCond (c : Cond) (n : BitVec 5)
  /-- RETIcond: R468. -/
  | retiCond (c : Cond)
  /-- RETScond: R469. -/
  | retsCond (c : Cond)
  /-- MPYF3||ADDF3: R543. -/
  | mpyf3_addf3 (p : BitVec 2) (d1 d2 : BitVec 1) (src1 src2 : FReg) (src3 src4 : Ind Unit)
  /-- MPYF3||SUBF3: R545. -/
  | mpyf3_subf3 (p : BitVec 2) (d1 d2 : BitVec 1) (src1 src2 : FReg) (src3 src4 : Ind Unit)
  /-- MPYI3||ADDI3: R546. -/
  | mpyi3_addi3 (p : BitVec 2) (d1 d2 : BitVec 1) (src1 src2 : FReg) (src3 src4 : Ind Unit)
  /-- MPYI3||SUBI3: R548. -/
  | mpyi3_subi3 (p : BitVec 2) (d1 d2 : BitVec 1) (src1 src2 : FReg) (src3 src4 : Ind Unit)
  /-- STF||STF: R553. -/
  | stf_stf (src2 src1 : FReg) (dst1 dst2 : Ind Unit)
  /-- STI||STI: R554. -/
  | sti_sti (src2 src1 : FReg) (dst1 dst2 : Ind Unit)
  /-- LDF||LDF: R538. -/
  | ldf_ldf (dst2 dst1 : FReg) (src1 src2 : Ind Unit)
  /-- LDI||LDI: R540. -/
  | ldi_ldi (dst2 dst1 : FReg) (src1 src2 : Ind Unit)
  /-- ABSF||STF: R530. -/
  | absf_stf (dst1 src3 : FReg) (dst2 src2 : Ind Unit)
  /-- ABSI||STI: R531. -/
  | absi_sti (dst1 src3 : FReg) (dst2 src2 : Ind Unit)
  /-- ADDF3||STF: R532. -/
  | addf3_stf (dst1 src1 src3 : FReg) (dst2 src2 : Ind Unit)
  /-- ADDI3||STI: R533. -/
  | addi3_sti (dst1 src1 src3 : FReg) (dst2 src2 : Ind Unit)
  /-- AND3||STI: R534. -/
  | and3_sti (dst1 src1 src3 : FReg) (dst2 src2 : Ind Unit)
  /-- ASH3||STI: R535. -/
  | ash3_sti (dst1 src1 src3 : FReg) (dst2 src2 : Ind Unit)
  /-- FIX||STI: R536. -/
  | fix_sti (dst1 src3 : FReg) (dst2 src2 : Ind Unit)
  /-- FLOAT||STF: R537. -/
  | float_stf (dst1 src3 : FReg) (dst2 src2 : Ind Unit)
  /-- LDF||STF: R539. -/
  | ldf_stf (dst1 src3 : FReg) (dst2 src2 : Ind Unit)
  /-- LDI||STI: R541. -/
  | ldi_sti (dst1 src3 : FReg) (dst2 src2 : Ind Unit)
  /-- LSH3||STI: R542. -/
  | lsh3_sti (dst1 src1 src3 : FReg) (dst2 src2 : Ind Unit)
  /-- MPYF3||STF: R544. -/
  | mpyf3_stf (dst1 src1 src3 : FReg) (dst2 src2 : Ind Unit)
  /-- MPYI3||STI: R547. -/
  | mpyi3_sti (dst1 src1 src3 : FReg) (dst2 src2 : Ind Unit)
  /-- NEGF||STF: R549. -/
  | negf_stf (dst1 src3 : FReg) (dst2 src2 : Ind Unit)
  /-- NEGI||STI: R550. -/
  | negi_sti (dst1 src3 : FReg) (dst2 src2 : Ind Unit)
  /-- NOT||STI: R551. -/
  | not_sti (dst1 src3 : FReg) (dst2 src2 : Ind Unit)
  /-- OR3||STI: R552. -/
  | or3_sti (dst1 src1 src3 : FReg) (dst2 src2 : Ind Unit)
  /-- SUBF3||STF: R555. -/
  | subf3_stf (dst1 src1 src3 : FReg) (dst2 src2 : Ind Unit)
  /-- SUBI3||STI: R556. -/
  | subi3_sti (dst1 src1 src3 : FReg) (dst2 src2 : Ind Unit)
  /-- XOR3||STI: R557. -/
  | xor3_sti (dst1 src1 src3 : FReg) (dst2 src2 : Ind Unit)
  deriving DecidableEq, Repr

end Sys2Proof
end

