-- ==== Sys2Proof/WellFormed.lean ====
section
/-! DEFINITION. Which terms stand for an instruction word. Types already bound every other field. -/
namespace Sys2Proof

/-- An LDM immediate has bits 15-12 clear (R307, U12). -/
def Src.ldmOk : Src FReg → Bool
  | .imm v => v.extractLsb' 12 4 == 0#4
  | .reg _ => true
  | .dir _ => true
  | .ind _ => true

/-- The immediate form of LDI is LDP's row of the table, so its words decode to `ldp` (R308, log 7). -/
def Src.ldiOk : Src Reg → Bool
  | .imm _ => false
  | .reg _ => true
  | .dir _ => true
  | .ind _ => true

/-- The instructions an instruction word can hold. -/
def Instr.wellFormed : Instr → Bool
  | .ldm src _ => src.ldmOk
  | .ldi src _ => src.ldiOk
  | _ => true

end Sys2Proof
end

