-- ==== Sys2Proof/Decode.lean ====
section
/-! DEFINITION. The decoder, total on every word, and the encoder, both written from the tables of 30_encoding.md. -/
namespace Sys2Proof

/-- Why a word is no instruction. The device has no illegal-instruction trap (R601); the model refuses such a word. -/
inductive DecodeError where
  /-- The word matches no row of the tables (R168, U18). Safe: the model stops. -/
  | illegalOpcode
  /-- A register field holds 1Ch to 1Fh (U4). Safe: the model stops. -/
  | reservedRegister
  /-- A floating-point operand names a register other than R0-R7 (U5). Safe: the model stops. -/
  | floatRegister
  /-- A condition field holds 01011 or 10101 to 11111 (U6). Safe: the model stops. -/
  | badCondition
  /-- The G field selects a mode the instruction does not admit (U14). Safe: the model stops. -/
  | modeNotAdmitted
  /-- A mod field holds 11010 to 11111 (U16). Safe: the model stops. -/
  | reservedMod
  /-- An LDM immediate with bits 15-12 not 0 (U12). Safe: the model stops. -/
  | ldmImmediate
  deriving DecidableEq, Repr

/-! ## Field codes -/

/-- The machine address of a register (R20). -/
def Reg.code : Reg → BitVec 5
  | .r n => 0#2 ++ n
  | .ar n => 1#2 ++ n
  | .dp => 0x10#5
  | .ir0 => 0x11#5
  | .ir1 => 0x12#5
  | .bk => 0x13#5
  | .sp => 0x14#5
  | .st => 0x15#5
  | .ie => 0x16#5
  | .ifr => 0x17#5
  | .iof => 0x18#5
  | .rs => 0x19#5
  | .re => 0x1A#5
  | .rc => 0x1B#5

/-- The register with a machine address; 1Ch to 1Fh name none (R20, U4). -/
def Reg.ofCode (c : BitVec 5) : Except DecodeError Reg :=
  if c.extractLsb' 3 2 = 0#2 then .ok (.r (c.extractLsb' 0 3))
  else if c.extractLsb' 3 2 = 1#2 then .ok (.ar (c.extractLsb' 0 3))
  else if c = 0x10#5 then .ok .dp
  else if c = 0x11#5 then .ok .ir0
  else if c = 0x12#5 then .ok .ir1
  else if c = 0x13#5 then .ok .bk
  else if c = 0x14#5 then .ok .sp
  else if c = 0x15#5 then .ok .st
  else if c = 0x16#5 then .ok .ie
  else if c = 0x17#5 then .ok .ifr
  else if c = 0x18#5 then .ok .iof
  else if c = 0x19#5 then .ok .rs
  else if c = 0x1A#5 then .ok .re
  else if c = 0x1B#5 then .ok .rc
  else .error .reservedRegister

/-- The machine address of R0-R7. -/
def FReg.code (n : FReg) : BitVec 5 := 0#2 ++ n

/-- A 5-bit field that must name R0-R7 (U4, U5). -/
def FReg.ofCode (c : BitVec 5) : Except DecodeError FReg :=
  if c.extractLsb' 3 2 = 0#2 then .ok (c.extractLsb' 0 3)
  else if c.extractLsb' 2 3 = 7#3 then .error .reservedRegister
  else .error .floatRegister

/-- The code of a condition (R441). -/
def Cond.code : Cond → BitVec 5
  | .u => 0#5 | .lo => 1#5 | .ls => 2#5 | .hi => 3#5 | .hs => 4#5 | .eq => 5#5 | .ne => 6#5 | .lt => 7#5
  | .le => 8#5 | .gt => 9#5 | .ge => 10#5 | .nv => 12#5 | .v => 13#5 | .nuf => 14#5 | .uf => 15#5
  | .nlv => 16#5 | .lv => 17#5 | .nluf => 18#5 | .luf => 19#5 | .zuf => 20#5

/-- The condition of a code; 01011 and 10101 to 11111 are in no table (R441, U6). -/
def Cond.ofCode (c : BitVec 5) : Except DecodeError Cond :=
  if c = 0#5 then .ok .u else if c = 1#5 then .ok .lo else if c = 2#5 then .ok .ls
  else if c = 3#5 then .ok .hi else if c = 4#5 then .ok .hs else if c = 5#5 then .ok .eq
  else if c = 6#5 then .ok .ne else if c = 7#5 then .ok .lt else if c = 8#5 then .ok .le
  else if c = 9#5 then .ok .gt else if c = 10#5 then .ok .ge else if c = 12#5 then .ok .nv
  else if c = 13#5 then .ok .v else if c = 14#5 then .ok .nuf else if c = 15#5 then .ok .uf
  else if c = 16#5 then .ok .nlv else if c = 17#5 then .ok .lv else if c = 18#5 then .ok .nluf
  else if c = 19#5 then .ok .luf else if c = 20#5 then .ok .zuf
  else .error .badCondition

/-- The low three bits of a mod field (R251 to R258). -/
def IndOp.code : IndOp → BitVec 3
  | .preAdd => 0#3 | .preSub => 1#3 | .preAddMod => 2#3 | .preSubMod => 3#3
  | .postAdd => 4#3 | .postSub => 5#3 | .postAddCirc => 6#3 | .postSubCirc => 7#3

/-- The operation the low three bits of a mod field select (R251 to R258). -/
def IndOp.ofCode (c : BitVec 3) : IndOp :=
  if c = 0#3 then .preAdd else if c = 1#3 then .preSub else if c = 2#3 then .preAddMod
  else if c = 3#3 then .preSubMod else if c = 4#3 then .postAdd else if c = 5#3 then .postSub
  else if c = 6#3 then .postAddCirc else .postSubCirc

/-- The mod field of an indirect operand (R251 to R262). -/
def Ind.modCode {δ : Type} : Ind δ → BitVec 5
  | .idx op (.disp _) _ => 0#2 ++ op.code
  | .idx op .ir0 _ => 1#2 ++ op.code
  | .idx op .ir1 _ => 2#2 ++ op.code
  | .plain _ => 24#5
  | .bitrev _ => 25#5

/-- The auxiliary register of an indirect operand (R250). -/
def Ind.arCode {δ : Type} : Ind δ → BitVec 3
  | .idx _ _ n => n
  | .plain n => n
  | .bitrev n => n

/-- The displacement field of a general-form operand, 0 where the mode uses none (R250). -/
def Ind.dispCode : Ind (BitVec 8) → BitVec 8
  | .idx _ (.disp d) _ => d
  | .idx _ .ir0 _ => 0#8
  | .idx _ .ir1 _ => 0#8
  | .plain _ => 0#8
  | .bitrev _ => 0#8

/-- The operand of a mod field, an auxiliary register and a displacement; 11010 to 11111 are reserved (R264, U16). -/
def Ind.ofCode {δ : Type} (m : BitVec 5) (n : BitVec 3) (d : δ) : Except DecodeError (Ind δ) :=
  if m.extractLsb' 3 2 = 0#2 then .ok (.idx (IndOp.ofCode (m.extractLsb' 0 3)) (.disp d) n)
  else if m.extractLsb' 3 2 = 1#2 then .ok (.idx (IndOp.ofCode (m.extractLsb' 0 3)) .ir0 n)
  else if m.extractLsb' 3 2 = 2#2 then .ok (.idx (IndOp.ofCode (m.extractLsb' 0 3)) .ir1 n)
  else if m = 24#5 then .ok (.plain n)
  else if m = 25#5 then .ok (.bitrev n)
  else .error .reservedMod

/-! ## Operand fields -/

/-- The 16-bit field of a general-form indirect operand (R250). -/
def Ind.field16 (i : Ind (BitVec 8)) : BitVec 16 := i.modCode ++ i.arCode ++ i.dispCode

/-- The operand a 16-bit indirect field holds. -/
def Ind.ofField16 (f : BitVec 16) : Except DecodeError (Ind (BitVec 8)) :=
  Ind.ofCode (f.extractLsb' 11 5) (f.extractLsb' 8 3) (f.extractLsb' 0 8)

/-- The 8-bit field of a three-operand or parallel indirect operand (R150, R158). -/
def Ind.field8 (i : Ind Unit) : BitVec 8 := i.modCode ++ i.arCode

/-- The operand an 8-bit indirect field holds; its displacement is 1 (R265). -/
def Ind.ofField8 (f : BitVec 8) : Except DecodeError (Ind Unit) :=
  Ind.ofCode (f.extractLsb' 3 5) (f.extractLsb' 0 3) ()

/-- The G field of a source (R142). -/
def Src.gCode {ρ : Type} : Src ρ → BitVec 2
  | .reg _ => 0#2
  | .dir _ => 1#2
  | .ind _ => 2#2
  | .imm _ => 3#2

/-- Bits 15-0 of a source, with the register number given (R142). -/
def Src.field {ρ : Type} (code : ρ → BitVec 5) : Src ρ → BitVec 16
  | .reg r => 0#11 ++ code r
  | .dir a => a
  | .ind i => i.field16
  | .imm v => v

/-- The source that a G field and bits 15-0 hold. Of a register field only bits 4-0 are read (R146). -/
def Src.ofField {ρ : Type} (ofCode : BitVec 5 → Except DecodeError ρ) (g : BitVec 2) (f : BitVec 16) :
    Except DecodeError (Src ρ) :=
  if g = 0#2 then (ofCode (f.extractLsb' 0 5)).map .reg
  else if g = 1#2 then .ok (.dir f)
  else if g = 2#2 then (Ind.ofField16 f).map .ind
  else .ok (.imm f)

/-- The G field of a memory operand. -/
def MemOp.gCode : MemOp → BitVec 2
  | .dir _ => 1#2
  | .ind _ => 2#2

/-- Bits 15-0 of a memory operand. -/
def MemOp.field : MemOp → BitVec 16
  | .dir a => a
  | .ind i => i.field16

/-- The memory operand that a G field and bits 15-0 hold; register and immediate are not admitted (U14). -/
def MemOp.ofField (g : BitVec 2) (f : BitVec 16) : Except DecodeError MemOp :=
  if g = 1#2 then .ok (.dir f)
  else if g = 2#2 then (Ind.ofField16 f).map .ind
  else .error .modeNotAdmitted

/-- The G field of NOP's operand. -/
def NopOp.gCode : NopOp → BitVec 2
  | .none => 0#2
  | .ind _ => 2#2

/-- Bits 15-0 of NOP's operand. -/
def NopOp.field : NopOp → BitVec 16
  | .none => 0#16
  | .ind i => i.field16

/-- NOP's operand. With G = 00 the word has bits 20-16 = 0 (R165) and bits 15-0 are not read (D16, D1); with G = 10 bits
20-16 are not read. -/
def NopOp.ofField (g : BitVec 2) (d : BitVec 5) (f : BitVec 16) : Except DecodeError NopOp :=
  if g = 0#2 then if d = 0#5 then .ok .none else .error .illegalOpcode
  else if g = 2#2 then (Ind.ofField16 f).map .ind
  else .error .modeNotAdmitted

/-- The T bit of one three-operand source: 1 for indirect (R150). -/
def Src3.tCode {ρ : Type} : Src3 ρ → BitVec 1
  | .reg _ => 0#1
  | .ind _ => 1#1

/-- The 8-bit field of one three-operand source (R150). -/
def Src3.field {ρ : Type} (code : ρ → BitVec 5) : Src3 ρ → BitVec 8
  | .reg r => 0#3 ++ code r
  | .ind i => i.field8

/-- The three-operand source that a T bit and a field hold (R150, R146). -/
def Src3.ofField {ρ : Type} (ofCode : BitVec 5 → Except DecodeError ρ) (t : BitVec 1) (f : BitVec 8) :
    Except DecodeError (Src3 ρ) :=
  if t = 0#1 then (ofCode (f.extractLsb' 0 5)).map .reg
  else (Ind.ofField8 f).map .ind

/-- The B bit of a branch target (R160). -/
def Target.bCode : Target → BitVec 1
  | .reg _ => 0#1
  | .rel _ => 1#1

/-- Bits 15-0 of a branch target (R160). -/
def Target.field : Target → BitVec 16
  | .reg r => 0#11 ++ r.code
  | .rel d => d

/-- The target that a B bit and bits 15-0 hold (R160). -/
def Target.ofField (b : BitVec 1) (f : BitVec 16) : Except DecodeError Target :=
  if b = 0#1 then (Reg.ofCode (f.extractLsb' 0 5)).map .reg
  else .ok (.rel f)

/-! ## The decoder, form by form -/

/-- A general-form instruction with an integer source and destination (R142). -/
def gInt (k : Src Reg → Reg → Instr) (w : Word) : Except DecodeError Instr := do
  let dst ← Reg.ofCode (w.extractLsb' 16 5)
  let src ← Src.ofField Reg.ofCode (w.extractLsb' 21 2) (w.extractLsb' 0 16)
  pure (k src dst)

/-- A general-form instruction with a floating-point source and destination (R142, U5). -/
def gFlt (k : Src FReg → FReg → Instr) (w : Word) : Except DecodeError Instr := do
  let dst ← FReg.ofCode (w.extractLsb' 16 5)
  let src ← Src.ofField FReg.ofCode (w.extractLsb' 21 2) (w.extractLsb' 0 16)
  pure (k src dst)

/-- FIX: a floating-point source and any destination register (R344). -/
def gFix (w : Word) : Except DecodeError Instr := do
  let dst ← Reg.ofCode (w.extractLsb' 16 5)
  let src ← Src.ofField FReg.ofCode (w.extractLsb' 21 2) (w.extractLsb' 0 16)
  pure (.fix src dst)

/-- FLOAT: an integer source and a destination R0-R7 (R345). -/
def gFloat (w : Word) : Except DecodeError Instr := do
  let dst ← FReg.ofCode (w.extractLsb' 16 5)
  let src ← Src.ofField Reg.ofCode (w.extractLsb' 21 2) (w.extractLsb' 0 16)
  pure (.float src dst)

/-- LDM: as the floating-point form, but for the immediate's bits 15-12 (R307, U12). -/
def gLdm (w : Word) : Except DecodeError Instr := do
  let dst ← FReg.ofCode (w.extractLsb' 16 5)
  let src ← Src.ofField FReg.ofCode (w.extractLsb' 21 2) (w.extractLsb' 0 16)
  if src.ldmOk then pure (.ldm src dst) else .error .ldmImmediate

/-- LDI, whose immediate form is the row LDP (R305, R308, log 7). -/
def gLdi (w : Word) : Except DecodeError Instr := do
  let dst ← Reg.ofCode (w.extractLsb' 16 5)
  if w.extractLsb' 21 2 = 3#2 then pure (.ldp dst (w.extractLsb' 0 16))
  else do
    let src ← Src.ofField Reg.ofCode (w.extractLsb' 21 2) (w.extractLsb' 0 16)
    pure (.ldi src dst)

/-- A general-form instruction with a register in bits 20-16 and a memory operand (R313, R501). -/
def gMem (k : Reg → MemOp → Instr) (w : Word) : Except DecodeError Instr := do
  let r ← Reg.ofCode (w.extractLsb' 16 5)
  let m ← MemOp.ofField (w.extractLsb' 21 2) (w.extractLsb' 0 16)
  pure (k r m)

/-- The same with R0-R7 in bits 20-16. -/
def gMemF (k : FReg → MemOp → Instr) (w : Word) : Except DecodeError Instr := do
  let r ← FReg.ofCode (w.extractLsb' 16 5)
  let m ← MemOp.ofField (w.extractLsb' 21 2) (w.extractLsb' 0 16)
  pure (k r m)

/-- An instruction that reads bits 20-16 only (R309, R311, R356). -/
def gOne (k : Reg → Instr) (w : Word) : Except DecodeError Instr :=
  (Reg.ofCode (w.extractLsb' 16 5)).map k

/-- The same with R0-R7 (R310, R312). -/
def gOneF (k : FReg → Instr) (w : Word) : Except DecodeError Instr :=
  (FReg.ofCode (w.extractLsb' 16 5)).map k

/-- The general form, bits 31-29 = 000, by bits 28-23 (R147). -/
def decodeG (w : Word) : Except DecodeError Instr :=
  match w.extractLsb' 23 6 with
  | 0#6 => gFlt .absf w
  | 1#6 => gInt .absi w
  | 2#6 => gInt .addc w
  | 3#6 => gFlt .addf w
  | 4#6 => gInt .addi w
  | 5#6 => gInt .and w
  | 6#6 => gInt .andn w
  | 7#6 => gInt .ash w
  | 8#6 => gFlt .cmpf w
  | 9#6 => gInt .cmpi w
  | 10#6 => gFix w
  | 11#6 => gFloat w
  | 12#6 =>
    if w = 0x06000000#32 then .ok .idle
    else if w = 0x06000001#32 then .ok .idle2
    else .error .illegalOpcode
  | 13#6 => gFlt .lde w
  | 14#6 => gFlt .ldf w
  | 15#6 => gMemF (fun r m => .ldfi m r) w
  | 16#6 => gLdi w
  | 17#6 => gMem (fun r m => .ldii m r) w
  | 18#6 => gLdm w
  | 19#6 => gInt .lsh w
  | 20#6 => gFlt .mpyf w
  | 21#6 => gInt .mpyi w
  | 22#6 => gInt .negb w
  | 23#6 => gFlt .negf w
  | 24#6 => gInt .negi w
  | 25#6 => (NopOp.ofField (w.extractLsb' 21 2) (w.extractLsb' 16 5) (w.extractLsb' 0 16)).map .nop
  | 26#6 => gFlt .norm w
  | 27#6 => gInt .not w
  | 28#6 => gOne .pop w
  | 29#6 => gOneF .popf w
  | 30#6 => gOne .push w
  | 31#6 => gOneF .pushf w
  | 32#6 => gInt .or w
  | 33#6 =>
    if w = 0x10800000#32 then .ok .maxspeed
    else if w = 0x10800001#32 then .ok .lopower
    else .error .illegalOpcode
  | 34#6 => gFlt .rnd w
  | 35#6 => gOne .rol w
  | 36#6 => gOne .rolc w
  | 37#6 => gOne .ror w
  | 38#6 => gOne .rorc w
  | 39#6 => (Src.ofField Reg.ofCode (w.extractLsb' 21 2) (w.extractLsb' 0 16)).map .rpts
  | 40#6 => gMemF .stf w
  | 41#6 => gMemF .stfi w
  | 42#6 => gMem .sti w
  | 43#6 => gMem .stii w
  | 44#6 => if w = 0x16000000#32 then .ok .sigi else .error .illegalOpcode
  | 45#6 => gInt .subb w
  | 46#6 => gInt .subc w
  | 47#6 => gFlt .subf w
  | 48#6 => gInt .subi w
  | 49#6 => gInt .subrb w
  | 50#6 => gFlt .subrf w
  | 51#6 => gInt .subri w
  | 52#6 => gInt .tstb w
  | 53#6 => gInt .xor w
  | 54#6 => (MemOp.ofField (w.extractLsb' 21 2) (w.extractLsb' 0 16)).map .iack
  | _ => .error .illegalOpcode

/-- The two sources of a three-operand integer instruction (R150, R400). -/
def tSources {ρ : Type} (ofCode : BitVec 5 → Except DecodeError ρ) (w : Word) :
    Except DecodeError (Src3 ρ × Src3 ρ) := do
  let s1 ← Src3.ofField ofCode (w.extractLsb' 21 1) (w.extractLsb' 8 8)
  let s2 ← Src3.ofField ofCode (w.extractLsb' 22 1) (w.extractLsb' 0 8)
  pure (s1, s2)

/-- A three-operand integer or logical instruction (R150). -/
def tInt (k : Src3 Reg → Src3 Reg → Reg → Instr) (w : Word) : Except DecodeError Instr := do
  let dst ← Reg.ofCode (w.extractLsb' 16 5)
  let s ← tSources Reg.ofCode w
  pure (k s.1 s.2 dst)

/-- A three-operand floating-point instruction (R150, U5). -/
def tFlt (k : Src3 FReg → Src3 FReg → FReg → Instr) (w : Word) : Except DecodeError Instr := do
  let dst ← FReg.ofCode (w.extractLsb' 16 5)
  let s ← tSources FReg.ofCode w
  pure (k s.1 s.2 dst)

/-- CMPI3 and TSTB3, which read no destination field (R408, R416). -/
def tCmp (k : Src3 Reg → Src3 Reg → Instr) (w : Word) : Except DecodeError Instr := do
  let s ← tSources Reg.ofCode w
  pure (k s.1 s.2)

/-- CMPF3, which reads no destination field (R407). -/
def tCmpF (k : Src3 FReg → Src3 FReg → Instr) (w : Word) : Except DecodeError Instr := do
  let s ← tSources FReg.ofCode w
  pure (k s.1 s.2)

/-- The three-operand form, bits 31-29 = 001, by bits 28-23 (R151). -/
def decodeT (w : Word) : Except DecodeError Instr :=
  match w.extractLsb' 23 6 with
  | 0#6 => tInt .addc3 w
  | 1#6 => tFlt .addf3 w
  | 2#6 => tInt .addi3 w
  | 3#6 => tInt .and3 w
  | 4#6 => tInt .andn3 w
  | 5#6 => tInt .ash3 w
  | 6#6 => tCmpF .cmpf3 w
  | 7#6 => tCmp .cmpi3 w
  | 8#6 => tInt .lsh3 w
  | 9#6 => tFlt .mpyf3 w
  | 10#6 => tInt .mpyi3 w
  | 11#6 => tInt .or3 w
  | 12#6 => tInt .subb3 w
  | 13#6 => tFlt .subf3 w
  | 14#6 => tInt .subi3 w
  | 15#6 => tCmp .tstb3 w
  | 16#6 => tInt .xor3 w
  | _ => .error .illegalOpcode

/-- LDFcond and LDIcond, bits 31-29 = 010 (R164). -/
def decodeLdCond (w : Word) : Except DecodeError Instr := do
  let c ← Cond.ofCode (w.extractLsb' 23 5)
  if w.extractLsb' 28 1 = 0#1 then gFlt (.ldfCond c) w else gInt (.ldiCond c) w

/-- A conditional branch or call (R160). -/
def cbForm (k : Cond → Target → Instr) (w : Word) : Except DecodeError Instr := do
  let c ← Cond.ofCode (w.extractLsb' 16 5)
  let t ← Target.ofField (w.extractLsb' 25 1) (w.extractLsb' 0 16)
  pure (k c t)

/-- The program-control forms, bits 31-29 = 011, by bits 28-26 (R160 to R162). -/
def decodeControl (w : Word) : Except DecodeError Instr :=
  match w.extractLsb' 26 3 with
  | 0#3 =>
    if w.extractLsb' 24 2 = 0#2 then .ok (.br (w.extractLsb' 0 24))
    else if w.extractLsb' 24 2 = 1#2 then .ok (.brd (w.extractLsb' 0 24))
    else if w.extractLsb' 24 2 = 2#2 then .ok (.call (w.extractLsb' 0 24))
    else .error .illegalOpcode
  | 1#3 =>
    if w.extractLsb' 24 2 = 0#2 then .ok (.rptb (w.extractLsb' 0 24))
    else if w = 0x66000000#32 then .ok .swi
    else .error .illegalOpcode
  | 2#3 =>
    if w.extractLsb' 21 4 = 0#4 then cbForm .bCond w
    else if w.extractLsb' 21 4 = 1#4 then cbForm .bCondD w
    else .error .illegalOpcode
  | 3#3 =>
    if w.extractLsb' 21 1 = 0#1 then cbForm (.dbCond (w.extractLsb' 22 3)) w
    else cbForm (.dbCondD (w.extractLsb' 22 3)) w
  | 4#3 => if w.extractLsb' 21 4 = 0#4 then cbForm .callCond w else .error .illegalOpcode
  | 5#3 =>
    if w.extractLsb' 25 1 = 0#1 then
      (Cond.ofCode (w.extractLsb' 16 5)).map fun c => .trapCond c (w.extractLsb' 0 5)
    else .error .illegalOpcode
  | 6#3 =>
    if w.extractLsb' 23 3 = 0#3 then (Cond.ofCode (w.extractLsb' 16 5)).map .retiCond
    else if w.extractLsb' 23 3 = 1#3 then (Cond.ofCode (w.extractLsb' 16 5)).map .retsCond
    else .error .illegalOpcode
  | _ => .error .illegalOpcode

/-- The two indirect fields of a parallel form, bits 15-8 and bits 7-0 (R155, R158). -/
def pFields (w : Word) : Except DecodeError (Ind Unit × Ind Unit) := do
  let a ← Ind.ofField8 (w.extractLsb' 8 8)
  let b ← Ind.ofField8 (w.extractLsb' 0 8)
  pure (a, b)

/-- A parallel multiply with add or subtract (R155). -/
def pForm (k : BitVec 2 → BitVec 1 → BitVec 1 → FReg → FReg → Ind Unit → Ind Unit → Instr) (w : Word) :
    Except DecodeError Instr := do
  let f ← pFields w
  pure (k (w.extractLsb' 24 2) (w.extractLsb' 23 1) (w.extractLsb' 22 1) (w.extractLsb' 19 3)
    (w.extractLsb' 16 3) f.1 f.2)

/-- A parallel instruction with three register fields (R158, R522). -/
def ps3 (k : FReg → FReg → FReg → Ind Unit → Ind Unit → Instr) (w : Word) : Except DecodeError Instr := do
  let f ← pFields w
  pure (k (w.extractLsb' 22 3) (w.extractLsb' 19 3) (w.extractLsb' 16 3) f.1 f.2)

/-- A parallel instruction that uses register fields A and C (R522). -/
def psAC (k : FReg → FReg → Ind Unit → Ind Unit → Instr) (w : Word) : Except DecodeError Instr :=
  ps3 (fun a _ c => k a c) w

/-- A parallel load, which uses register fields A and B (R522). PRESUMED, unsafe (log 27): its second register stands in bits
21-19, as R522 has it, and not in bits 18-16, where file 93 part 2 puts "the second destination". -/
def psAB (k : FReg → FReg → Ind Unit → Ind Unit → Instr) (w : Word) : Except DecodeError Instr :=
  ps3 (fun a b _ => k a b) w

/-- The parallel multiplies, bits 31-30 = 10, by bits 29-26 (R156). -/
def decodeP (w : Word) : Except DecodeError Instr :=
  match w.extractLsb' 26 4 with
  | 0#4 => pForm .mpyf3_addf3 w
  | 1#4 => pForm .mpyf3_subf3 w
  | 2#4 => pForm .mpyi3_addi3 w
  | 3#4 => pForm .mpyi3_subi3 w
  | _ => .error .illegalOpcode

/-- The parallel stores, loads and operations with store, bits 31-30 = 11, by bits 29-25 (R159). -/
def decodePS (w : Word) : Except DecodeError Instr :=
  match w.extractLsb' 25 5 with
  | 0#5 => psAC .stf_stf w
  | 1#5 => psAC .sti_sti w
  | 2#5 => psAB .ldf_ldf w
  | 3#5 => psAB .ldi_ldi w
  | 4#5 => psAC .absf_stf w
  | 5#5 => psAC .absi_sti w
  | 6#5 => ps3 .addf3_stf w
  | 7#5 => ps3 .addi3_sti w
  | 8#5 => ps3 .and3_sti w
  | 9#5 => ps3 .ash3_sti w
  | 10#5 => psAC .fix_sti w
  | 11#5 => psAC .float_stf w
  | 12#5 => psAC .ldf_stf w
  | 13#5 => psAC .ldi_sti w
  | 14#5 => ps3 .lsh3_sti w
  | 15#5 => ps3 .mpyf3_stf w
  | 16#5 => ps3 .mpyi3_sti w
  | 17#5 => psAC .negf_stf w
  | 18#5 => psAC .negi_sti w
  | 19#5 => psAC .not_sti w
  | 20#5 => ps3 .or3_sti w
  | 21#5 => ps3 .subf3_stf w
  | 22#5 => ps3 .subi3_sti w
  | 23#5 => ps3 .xor3_sti w
  | _ => .error .illegalOpcode

/-- The decoder: bits 31-29 choose the form (R141). -/
def decode (w : Word) : Except DecodeError Instr :=
  match w.extractLsb' 29 3 with
  | 0#3 => decodeG w
  | 1#3 => decodeT w
  | 2#3 => decodeLdCond w
  | 3#3 => decodeControl w
  | 4#3 => decodeP w
  | 5#3 => decodeP w
  | _ => decodePS w

/-! ## The encoder -/

/-- A general-form word: bits 31-23, G, bits 20-16 and bits 15-0 (R142). -/
def encG (op : BitVec 9) (g : BitVec 2) (dst : BitVec 5) (src : BitVec 16) : Word := op ++ g ++ dst ++ src

/-- A general-form word with an integer source. -/
def encInt (op : BitVec 9) (src : Src Reg) (dst : Reg) : Word :=
  encG op src.gCode dst.code (src.field Reg.code)

/-- A general-form word with a floating-point source. -/
def encFlt (op : BitVec 9) (src : Src FReg) (dst : FReg) : Word :=
  encG op src.gCode dst.code (src.field FReg.code)

/-- A three-operand word (R150). -/
def encT {ρ : Type} (code : ρ → BitVec 5) (op : BitVec 9) (s1 s2 : Src3 ρ) (dst : BitVec 5) : Word :=
  op ++ s2.tCode ++ s1.tCode ++ dst ++ s1.field code ++ s2.field code

/-- A conditional-branch word: bits 31-26, B, ARn, D, cond and bits 15-0 (R160). -/
def encCB (op : BitVec 6) (n : BitVec 3) (d : BitVec 1) (c : Cond) (t : Target) : Word :=
  op ++ t.bCode ++ n ++ d ++ c.code ++ t.field

/-- A parallel-multiply word (R155). -/
def encP (op : BitVec 6) (p : BitVec 2) (d1 d2 : BitVec 1) (s1 s2 : FReg) (i3 i4 : Ind Unit) : Word :=
  op ++ p ++ d1 ++ d2 ++ s1 ++ s2 ++ i3.field8 ++ i4.field8

/-- A parallel store or load word (R158). -/
def encPS (op : BitVec 7) (a b c : FReg) (hi lo : Ind Unit) : Word :=
  op ++ a ++ b ++ c ++ hi.field8 ++ lo.field8

/-- The word of an instruction, with the bits its rule does not read as the assembler writes them (R147 to R165). -/
def encode : Instr → Word
  | .absf src dst => encFlt 0b000000000#9 src dst
  | .absi src dst => encInt 0b000000001#9 src dst
  | .addc src dst => encInt 0b000000010#9 src dst
  | .addf src dst => encFlt 0b000000011#9 src dst
  | .addi src dst => encInt 0b000000100#9 src dst
  | .and src dst => encInt 0b000000101#9 src dst
  | .andn src dst => encInt 0b000000110#9 src dst
  | .ash src dst => encInt 0b000000111#9 src dst
  | .cmpf src dst => encFlt 0b000001000#9 src dst
  | .cmpi src dst => encInt 0b000001001#9 src dst
  | .fix src dst => encG 0b000001010#9 src.gCode dst.code (src.field FReg.code)
  | .float src dst => encG 0b000001011#9 src.gCode dst.code (src.field Reg.code)
  | .lde src dst => encFlt 0b000001101#9 src dst
  | .ldf src dst => encFlt 0b000001110#9 src dst
  | .ldi src dst => encInt 0b000010000#9 src dst
  | .ldm src dst => encFlt 0b000010010#9 src dst
  | .lsh src dst => encInt 0b000010011#9 src dst
  | .mpyf src dst => encFlt 0b000010100#9 src dst
  | .mpyi src dst => encInt 0b000010101#9 src dst
  | .negb src dst => encInt 0b000010110#9 src dst
  | .negf src dst => encFlt 0b000010111#9 src dst
  | .negi src dst => encInt 0b000011000#9 src dst
  | .norm src dst => encFlt 0b000011010#9 src dst
  | .not src dst => encInt 0b000011011#9 src dst
  | .or src dst => encInt 0b000100000#9 src dst
  | .rnd src dst => encFlt 0b000100010#9 src dst
  | .subb src dst => encInt 0b000101101#9 src dst
  | .subc src dst => encInt 0b000101110#9 src dst
  | .subf src dst => encFlt 0b000101111#9 src dst
  | .subi src dst => encInt 0b000110000#9 src dst
  | .subrb src dst => encInt 0b000110001#9 src dst
  | .subrf src dst => encFlt 0b000110010#9 src dst
  | .subri src dst => encInt 0b000110011#9 src dst
  | .tstb src dst => encInt 0b000110100#9 src dst
  | .xor src dst => encInt 0b000110101#9 src dst
  | .ldfi src dst => encG 0b000001111#9 src.gCode dst.code src.field
  | .ldii src dst => encG 0b000010001#9 src.gCode dst.code src.field
  | .stf src dst => encG 0b000101000#9 dst.gCode src.code dst.field
  | .stfi src dst => encG 0b000101001#9 dst.gCode src.code dst.field
  | .sti src dst => encG 0b000101010#9 dst.gCode src.code dst.field
  | .stii src dst => encG 0b000101011#9 dst.gCode src.code dst.field
  | .pop r => encG 0b000011100#9 1#2 r.code 0#16
  | .popf r => encG 0b000011101#9 1#2 r.code 0#16
  | .push r => encG 0b000011110#9 1#2 r.code 0#16
  | .pushf r => encG 0b000011111#9 1#2 r.code 0#16
  | .rol r => encG 0b000100011#9 3#2 r.code 1#16
  | .rolc r => encG 0b000100100#9 3#2 r.code 1#16
  | .ror r => encG 0b000100101#9 3#2 r.code 0xFFFF#16
  | .rorc r => encG 0b000100110#9 3#2 r.code 0xFFFF#16
  | .rpts src => encG 0b000100111#9 src.gCode 0x1B#5 (src.field Reg.code)
  | .iack src => encG 0b000110110#9 src.gCode 0#5 src.field
  | .nop src => encG 0b000011001#9 src.gCode 0#5 src.field
  | .ldp dst imm => encG 0b000010000#9 3#2 dst.code imm
  | .idle => 0x06000000#32
  | .idle2 => 0x06000001#32
  | .maxspeed => 0x10800000#32
  | .lopower => 0x10800001#32
  | .sigi => 0x16000000#32
  | .swi => 0x66000000#32
  | .addc3 s1 s2 dst => encT Reg.code 0b001000000#9 s1 s2 dst.code
  | .addf3 s1 s2 dst => encT FReg.code 0b001000001#9 s1 s2 dst.code
  | .addi3 s1 s2 dst => encT Reg.code 0b001000010#9 s1 s2 dst.code
  | .and3 s1 s2 dst => encT Reg.code 0b001000011#9 s1 s2 dst.code
  | .andn3 s1 s2 dst => encT Reg.code 0b001000100#9 s1 s2 dst.code
  | .ash3 s1 s2 dst => encT Reg.code 0b001000101#9 s1 s2 dst.code
  | .cmpf3 s1 s2 => encT FReg.code 0b001000110#9 s1 s2 0#5
  | .cmpi3 s1 s2 => encT Reg.code 0b001000111#9 s1 s2 0#5
  | .lsh3 s1 s2 dst => encT Reg.code 0b001001000#9 s1 s2 dst.code
  | .mpyf3 s1 s2 dst => encT FReg.code 0b001001001#9 s1 s2 dst.code
  | .mpyi3 s1 s2 dst => encT Reg.code 0b001001010#9 s1 s2 dst.code
  | .or3 s1 s2 dst => encT Reg.code 0b001001011#9 s1 s2 dst.code
  | .subb3 s1 s2 dst => encT Reg.code 0b001001100#9 s1 s2 dst.code
  | .subf3 s1 s2 dst => encT FReg.code 0b001001101#9 s1 s2 dst.code
  | .subi3 s1 s2 dst => encT Reg.code 0b001001110#9 s1 s2 dst.code
  | .tstb3 s1 s2 => encT Reg.code 0b001001111#9 s1 s2 0#5
  | .xor3 s1 s2 dst => encT Reg.code 0b001010000#9 s1 s2 dst.code
  | .ldfCond c src dst => encFlt (0b0100#4 ++ c.code) src dst
  | .ldiCond c src dst => encInt (0b0101#4 ++ c.code) src dst
  | .br a => 0b01100000#8 ++ a
  | .brd a => 0b01100001#8 ++ a
  | .call a => 0b01100010#8 ++ a
  | .rptb a => 0b01100100#8 ++ a
  | .bCond c t => encCB 0b011010#6 0#3 0#1 c t
  | .bCondD c t => encCB 0b011010#6 0#3 1#1 c t
  | .dbCond n c t => encCB 0b011011#6 n 0#1 c t
  | .dbCondD n c t => encCB 0b011011#6 n 1#1 c t
  | .callCond c t => encCB 0b011100#6 0#3 0#1 c t
  | .trapCond c n => 0b0111010#7 ++ 0#4 ++ c.code ++ 0b00000000001#11 ++ n
  | .retiCond c => 0b011110000#9 ++ 0#2 ++ c.code ++ 0#16
  | .retsCond c => 0b011110001#9 ++ 0#2 ++ c.code ++ 0#16
  | .mpyf3_addf3 p d1 d2 s1 s2 i3 i4 => encP 0b100000#6 p d1 d2 s1 s2 i3 i4
  | .mpyf3_subf3 p d1 d2 s1 s2 i3 i4 => encP 0b100001#6 p d1 d2 s1 s2 i3 i4
  | .mpyi3_addi3 p d1 d2 s1 s2 i3 i4 => encP 0b100010#6 p d1 d2 s1 s2 i3 i4
  | .mpyi3_subi3 p d1 d2 s1 s2 i3 i4 => encP 0b100011#6 p d1 d2 s1 s2 i3 i4
  | .stf_stf a c hi lo => encPS 0b1100000#7 a 0#3 c hi lo
  | .sti_sti a c hi lo => encPS 0b1100001#7 a 0#3 c hi lo
  | .ldf_ldf a b hi lo => encPS 0b1100010#7 a b 0#3 hi lo
  | .ldi_ldi a b hi lo => encPS 0b1100011#7 a b 0#3 hi lo
  | .absf_stf a c hi lo => encPS 0b1100100#7 a 0#3 c hi lo
  | .absi_sti a c hi lo => encPS 0b1100101#7 a 0#3 c hi lo
  | .addf3_stf a b c hi lo => encPS 0b1100110#7 a b c hi lo
  | .addi3_sti a b c hi lo => encPS 0b1100111#7 a b c hi lo
  | .and3_sti a b c hi lo => encPS 0b1101000#7 a b c hi lo
  | .ash3_sti a b c hi lo => encPS 0b1101001#7 a b c hi lo
  | .fix_sti a c hi lo => encPS 0b1101010#7 a 0#3 c hi lo
  | .float_stf a c hi lo => encPS 0b1101011#7 a 0#3 c hi lo
  | .ldf_stf a c hi lo => encPS 0b1101100#7 a 0#3 c hi lo
  | .ldi_sti a c hi lo => encPS 0b1101101#7 a 0#3 c hi lo
  | .lsh3_sti a b c hi lo => encPS 0b1101110#7 a b c hi lo
  | .mpyf3_stf a b c hi lo => encPS 0b1101111#7 a b c hi lo
  | .mpyi3_sti a b c hi lo => encPS 0b1110000#7 a b c hi lo
  | .negf_stf a c hi lo => encPS 0b1110001#7 a 0#3 c hi lo
  | .negi_sti a c hi lo => encPS 0b1110010#7 a 0#3 c hi lo
  | .not_sti a c hi lo => encPS 0b1110011#7 a 0#3 c hi lo
  | .or3_sti a b c hi lo => encPS 0b1110100#7 a b c hi lo
  | .subf3_stf a b c hi lo => encPS 0b1110101#7 a b c hi lo
  | .subi3_sti a b c hi lo => encPS 0b1110110#7 a b c hi lo
  | .xor3_sti a b c hi lo => encPS 0b1110111#7 a b c hi lo

/-- The host's question: the instruction in a word of `nbits` bits, the bits above them 0. Every instruction is one
32-bit word (R6). -/
def decodeTableWord (nbits w : Nat) : Option Instr :=
  match decode (BitVec.ofNat 32 (w % 2 ^ nbits)) with
  | .ok i => some i
  | .error _ => none

end Sys2Proof
end

