-- ==== Sys2Proof/Machine/State.lean ====
section
/-! DEFINITION. The state of the machine as plain data, the ways it stops, and the state after reset. -/
namespace Sys2Proof.Machine

/-! ## External ports -/

/-- The two external ports (R680). -/
inductive PortName where
  | primary | expansion
  deriving DecidableEq, Repr

/-- One access on an external port, as the H1 cycles from now on in which it begins and after which it is over; none where
it never ends (R91, R668, R681), or goes on until its instruction ends it (R501). Before it begins its address is out for
`lead` cycles with the strobe high (R676, R681). A write holds the word it writes and the word it replaces (R815); `waits` are the
cycles for which the device keeps its ready signal back (R9). -/
structure BusCycle where
  addr : Addr
  write : Bool
  word : Word
  old : Word
  waits : Nat
  lead : Nat
  start : Nat
  stop : Option Nat
  deriving DecidableEq, Repr

/-! ## How a step can stop -/

/-- The device never faults (R601), so no step of the model ends in a fault: there is no constructor. What file 93 does
not let a model execute is a `Refusal` (log 23). -/
inductive Fault where
  deriving DecidableEq, Repr

/-- The model declines to step where the spec gives no effect (file 93, treatment `refuse`). -/
inductive Refusal where
  /-- An instruction without a meaning yet, by its mnemonic. Raised by `exec`'s refused arms only. Safe. -/
  | notModelled (mnemonic : String)
  /-- The fetched word is no instruction (R168). Raised by the step. Safe. -/
  | notAnInstruction (e : DecodeError)
  /-- A data access, a vector read, a fetch or a DMA access at a reserved address (R83, U2). Raised by the memory
  operations. Safe: the device may halt or read anything; the model goes no further. -/
  | reservedAccess (a : Addr)
  /-- A write to the on-chip ROM (R84, U3). Raised by the memory operations. Safe. -/
  | romWrite (a : Addr)
  /-- SWI: the emulator interrupt sequence is not described (R466, U15). Raised by SWI. Safe. -/
  | emulatorInterrupt
  /-- IDLE2, LOPOWER or MAXSPEED on a device other than the TMS320LC31 (R470, U11). Raised by them. Safe. -/
  | lowPowerAbsent
  /-- A 1 written to IE bits 6, 7, 22 or 23 on a C31 (R50, U7). Raised by a write of IE. Safe. -/
  | serialPort1Enable
  /-- A branch, call, return, trap, repeat or idle instruction in a delay slot (R447, U10). Raised by the step. Safe. -/
  | branchInDelaySlot
  /-- A control transfer at the end of a repeat block, or a delayed branch in its last four (R645, U20). Raised by the
  step. Safe. -/
  | branchAtRepeatEnd
  /-- The end of a block reached within three instructions of a direct load of RS, RE, RC or RM (R833, U20). Raised by
  the step. Safe. -/
  | repeatRegistersUnflushed
  /-- An interlocked instruction without XF0 as output and XF1 as input (R500, U13). Raised by LDFI, LDII, SIGI, STFI
  and STII. Safe. -/
  | interlockPins
  /-- Circular addressing outside its conditions (R267, U17). Raised by address generation. Safe. -/
  | circularConditions
  /-- An instruction fetch from the peripheral bus, of which nothing is said (R89, N20-2). Raised by the fetch. Safe. -/
  | fetchFromPeripheral
  /-- A serial-port mode bit changed while its side runs (R744, U25). Raised by a register write. Safe. -/
  | serialModeChange
  /-- DMA control bits other than START and TC, or a DMA address, changed in the middle of a transfer that START = 00 has
  not ended (R778, U26). Raised by a register write. Safe. -/
  | dmaChange
  /-- A DMA transfer from or to a DMA or bus-control register (R782, U26). Raised by the DMA controller. Safe. -/
  | dmaSelfAccess
  /-- RESET was low for fewer than ten H1 cycles (R800, U27). Raised by the step. Safe. -/
  | shortReset
  deriving DecidableEq, Repr

/-- What an access waits for: the primary bus while it is held (R672), also for a store that may not be interrupted
(R504), or a port that is busy, or whose access in progress never ends, its own or an earlier one (R93, R501). -/
inductive Wait where
  | held
  | heldStore
  | primary
  | expansion
  deriving DecidableEq, Repr

/-- Why a meaning gives no finished state: a refusal; an access that cannot be made, which only makes it wait (R93, R672);
or a read that has begun on a port and never ends, which locks the CPU up (R93, R682). -/
inductive Stop where
  | refuse (r : Refusal)
  | stall (w : Wait)
  | lockup (p : PortName) (c : BusCycle)
  deriving DecidableEq, Repr

/-! ## Pins and environment -/

/-- The devices of R7. -/
inductive Device where
  | c30 | c31 | lc31
  deriving DecidableEq, Repr

/-- The levels at the six pins of a serial port (R686); true is high. -/
structure SerialPins where
  clkx : Bool
  dx : Bool
  fsx : Bool
  clkr : Bool
  dr : Bool
  fsr : Bool
  deriving DecidableEq, Repr

/-- The levels the environment puts on the input pins (R686); true is high. -/
structure Pins where
  mcmp : Bool
  reset : Bool
  int0 : Bool
  int1 : Bool
  int2 : Bool
  int3 : Bool
  xf0 : Bool
  xf1 : Bool
  hold : Bool
  rdy : Bool
  xrdy : Bool
  tclk0 : Bool
  tclk1 : Bool
  port0 : SerialPins
  port1 : SerialPins
  deriving DecidableEq, Repr

/-- What an external device answers to one read (R9, EXTMEM): a word of its own, or none where it is memory; and the
cycles it keeps its ready signal back (log 8). -/
structure ExtRead where
  word : Option Word
  waits : Nat
  deriving DecidableEq, Repr

/-- What an external device does with one write (R9, EXTMEM): whether the location holds the word afterwards, as memory
does; and the cycles it keeps its ready signal back (log 8). -/
structure ExtWrite where
  keeps : Bool
  waits : Nat
  deriving DecidableEq, Repr

/-- The environment's choices, one entry used at a time (D5, D24, D31, R9, R784; log 5, log 8). An empty list chooses nothing:
the pins stay, no time is added, an interrupt is taken at once, the DMA does not wait, external locations are memory
that answers at once, no other master writes, nothing is read that the program did not ask for. -/
structure Env where
  /-- The pin levels of the coming H1 cycles. -/
  pinSchedule : List Pins
  /-- H1 cycles each coming instruction takes beyond its figure (D31). -/
  extraCycles : List Nat
  /-- Instructions between the recognition of an interrupt and its entry, at most two (R626, D24): an entry for each boundary
  at which an interrupt is requested and can be entered, or cannot but within two instructions. -/
  intLatency : List Nat
  /-- H1 cycles each coming part of a DMA transfer waits beyond what it must (R784, R796). -/
  dmaStalls : List Nat
  /-- H1 cycles of the DMA controller that fall before each coming data access of the CPU, within its instruction (R96;
  log 12). -/
  dmaWithin : List Nat
  /-- The answers to the coming external reads (R9). -/
  extReads : List ExtRead
  /-- What becomes of the coming external writes (R9). -/
  extWrites : List ExtWrite
  /-- What other bus masters write in each coming H1 cycle in which the primary bus is granted to them (R97, R672). -/
  masterWrites : List (List (Addr × Word))
  /-- The fetches beyond its own that each coming instruction fetch brings: how far behind its address each lies, 0 for a
  refetch (R92, R832, R854, D5). -/
  extraFetches : List (List (Fin 4))
  /-- Whether each coming external operand of a three-operand or parallel instruction that directly follows a single
  external store is read once more before its own read (R852, D5). -/
  dummyReads : List Bool
  deriving DecidableEq, Repr

/-- The synchroniser of an external interrupt pin: three flip-flops, the run of low samples so far, and whether the flag
has been acknowledged since the run began (R612, R615). -/
structure IntSync where
  stages : BitVec 3
  lowRun : Nat
  acked : Bool
  deriving DecidableEq, Repr

/-! ## Cache and peripherals -/

/-- One segment of the instruction cache (R100). -/
structure Segment where
  ssa : BitVec 19
  present : BitVec 32
  words : Vector Word 32
  deriving DecidableEq, Repr

/-- The instruction cache; `mru` is the segment number at the top of the LRU stack (R100). -/
structure Cache where
  seg0 : Segment
  seg1 : Segment
  mru : Bool
  deriving DecidableEq, Repr

/-- A timer (R690 to R694). `control` holds every bit but DATIN, which is read from the pin. -/
structure Timer where
  control : Word
  counter : Word
  period : Word
  half : Bool
  lastIn : Bool
  deriving DecidableEq, Repr

/-- What arrives at a serial port's receiver: a data word, or in handshake mode an acknowledge bit (R742, R755). -/
inductive RxFrame where
  | data (w : Word)
  | ack
  deriving DecidableEq, Repr

/-- What a serial port has sent: the low `bits` bits of a word, or an acknowledge bit (R732, R742). -/
inductive TxFrame where
  | data (bits : Nat) (w : Word)
  | ack
  deriving DecidableEq, Repr

/-- The last bit of a transmitted word while it is still on DX, and whether its word had a frame sync (R731, R741). -/
structure LastBit where
  bit : Bool
  sync : Bool
  deriving DecidableEq, Repr

/-- A serial port (R720 to R755). -/
structure SerialPort where
  /-- Global control (R722). -/
  global : Word
  /-- FSX/DX/CLKX port control but for the DATIN bits (R723). -/
  txPins : Word
  /-- FSR/DR/CLKR port control but for the DATIN bits (R724). -/
  rxPins : Word
  /-- Receive/transmit timer control (R725). -/
  timerCtl : Word
  /-- Receive/transmit timer counter (R726). -/
  timerCnt : Word
  /-- Receive/transmit timer period (R726). -/
  timerPer : Word
  halfX : Bool
  halfR : Bool
  lastX : Bool
  lastR : Bool
  dxr : Word
  drr : Word
  xsr : Word
  rsr : Word
  /-- A whole received word waits in RSR because DRR is full (R736). -/
  rsrHeld : Bool
  /-- RSR went to DRR in this H1 cycle: the transfer wins over a write of DRR (R736). -/
  loaded : Bool
  /-- RSRFULL was set in this H1 cycle: the receiver wins over a read that clears it (R722, R739). -/
  overran : Bool
  /-- H1 cycles until XRDY becomes 1, none pending at 0 (R722). -/
  xrdyIn : Nat
  /-- H1 cycles until RRDY becomes 1, none pending at 0 (R722). -/
  rrdyIn : Nat
  /-- Rising edges of the shift clock until the last bit of XSR goes out (R727, R730). -/
  shiftLeft : Nat
  /-- The shift clock as it was in the last H1 cycle (R727). -/
  lastShift : Bool
  /-- XSR holds a word that waits for an external frame sync, or, while XRESET = 0, one that did when XSR was reset (R734). -/
  awaitFsx : Bool
  /-- The last bit of a word is on DX, until the next rising edge: a word loaded meanwhile follows without a gap (R731,
  R741, R746). -/
  tail : Option LastBit
  /-- The word in XSR has a frame sync of its own (R733, R741). -/
  sync : Bool
  /-- XFSM when the last word went to XSR (R741). -/
  fsmPrev : Bool
  /-- Handshake mode: a transmitted word has not been acknowledged (R742). -/
  awaitAck : Bool
  /-- Handshake mode: acknowledge bits still to send (R742). -/
  acksOwed : Nat
  /-- Handshake mode: rising edges of the shift clock until an acknowledge bit goes out, none on its way at 0 (R742). -/
  ackLeft : Nat
  /-- The frames the other end sends, each with the H1 cycles until it is complete (R755, D27). -/
  rxQueue : List (Nat × RxFrame)
  /-- H1 cycles each coming word waits in DXR before it moves to XSR (R755, D27). -/
  txDelays : List Nat
  /-- What has been sent, oldest first (R755). -/
  sent : List TxFrame
  deriving DecidableEq, Repr

/-- An access the DMA controller has begun (R775, R778): a read or a write, the H1 cycles it still takes (none where it
never ends), whether its transfer goes on (START = 00 ends it), and whether its address register still moves. -/
structure DmaAccess where
  write : Bool
  left : Option Nat
  keep : Bool
  move : Bool
  deriving DecidableEq, Repr

/-- The DMA controller (R770 to R778). -/
structure Dma where
  control : Word
  src : Addr
  dst : Addr
  count : Addr
  /-- Between the read and the write of a transfer (R778). -/
  mid : Bool
  /-- The interrupt that the next part waited for has been acknowledged, its access not yet made (R790). -/
  acked : Bool
  /-- The holding register (R778). -/
  data : Word
  /-- The access in progress (R775). -/
  access : Option DmaAccess
  /-- H1 cycles the controller has already run ahead, within an instruction (R96; log 12). -/
  ahead : Nat
  deriving DecidableEq, Repr

/-! ## The CPU's hidden state -/

/-- A pending delayed branch: its target, none if it is not taken, and the slots still to run (R66, R447). -/
structure Delayed where
  target : Option Addr
  left : Nat
  deriving DecidableEq, Repr

/-- The idle states (R67, R456, R470): IDLE2 is in its own last cycles, and then `stopped` with the clocks. -/
inductive Idle where
  | running | idle | idle2 | stopped
  deriving DecidableEq, Repr

/-- Something that the CPU does with an address, and the H1 cycles until it does. -/
structure TimedAddr where
  start : Nat
  addr : Addr
  deriving DecidableEq, Repr

/-- A store of one of the last three instructions: the address, the word it replaced, and the instructions since (D6). -/
structure RecentStore where
  addr : Addr
  old : Word
  age : Nat
  deriving DecidableEq, Repr

/-- An interrupt that has been recognised: its number, the instructions that still run before its entry, and whether the
entry has begun and waits for a bus (R626, D24). -/
structure Recognised where
  index : Nat
  left : Nat
  entering : Bool
  deriving DecidableEq, Repr

/-- The whole machine. INVENTORY.md lists every field with the rule that names it. -/
structure State where
  device : Device
  pins : Pins
  -- the register file and the program counter (R20, R60)
  r : Vector Ext 8
  ar : Vector Word 8
  dp : Word
  ir0 : Word
  ir1 : Word
  bk : Word
  sp : Word
  st : Word
  ie : Word
  ifr : Word
  iof : Word
  rs : Word
  re : Word
  rc : Word
  pc : Addr
  -- what the program observes indirectly (R64 to R69)
  repS : Bool
  ir : Option Word
  delay : Option Delayed
  idle : Idle
  lowPower : Bool
  iack : Option TimedAddr
  cache : Cache
  lockWait : Nat
  lockReady : Bool
  xf0Next : List Bool
  bank : Addr
  primary : List BusCycle
  expansion : List BusCycle
  primaryWrote : Bool
  expansionWrote : Bool
  lineAddr : Option Addr
  sync0 : IntSync
  sync1 : IntSync
  sync2 : IntSync
  sync3 : IntSync
  resetLow : Nat
  booting : Bool
  -- memory (R80, R82)
  mem : List Host.Cell
  rom : List Word
  -- the external bus and the peripherals (R660, R690, R720, R770)
  primaryCtl : Word
  expansionCtl : Word
  timer0 : Timer
  timer1 : Timer
  port0 : SerialPort
  port1 : SerialPort
  dma : Dma
  -- the model's own fields (INVENTORY.md)
  env : Env
  freeCount : Nat
  elapsed : Nat
  stalled : Option Wait
  abandon : Bool
  intWindow : Option Recognised
  windowGie : Bool
  ifSet : BitVec 11
  ifWritten : Bool
  shared : BitVec 11
  onChip : List TimedAddr
  nopRun : Nat
  recentStores : List RecentStore
  outNow : Nat
  outBefore : Nat
  trapped : Bool
  loopLoad : Nat
  loopOldRes : List Addr
  rcBefore : Option Word
  deriving DecidableEq, Repr

/-! ## Reset -/

/-- A serial port's pins, all low (log 1). -/
def SerialPins.low : SerialPins :=
  { clkx := false, dx := false, fsx := false, clkr := false, dr := false, fsr := false }

/-- The levels a run starts with: nothing is requested and the external buses are ready (log 1). DESIGN CHOICE, unsafe. -/
def Pins.quiet : Pins :=
  { mcmp := false, reset := true, int0 := true, int1 := true, int2 := true, int3 := true, xf0 := true, xf1 := true,
    hold := true, rdy := false, xrdy := false, tclk0 := false, tclk1 := false, port0 := .low, port1 := .low }

/-- An environment that chooses nothing (log 5). -/
def Env.none : Env := 
  { pinSchedule := [], extraCycles := [], intLatency := [], dmaStalls := [], dmaWithin := [], extReads := []
    extWrites := [], masterWrites := [], extraFetches := [], dummyReads := [] }

/-- A synchroniser whose pin has been high (log 1). -/
def IntSync.high : IntSync := { stages := 7#3, lowRun := 0, acked := false }

/-- A cache segment at reset: no word present (R106); the rest DESIGN CHOICE 0 (log 2). -/
def Segment.reset : Segment := { ssa := 0#19, present := 0#32, words := Vector.replicate 32 0#32 }

/-- The cache at reset: segment 0 on top of the LRU stack (R106). -/
def Cache.reset : Cache := { seg0 := .reset, seg1 := .reset, mru := false }

/-- A timer at reset (R698, R806). -/
def Timer.reset : Timer := { control := 0#32, counter := 0#32, period := 0#32, half := false, lastIn := false }

/-- A serial port at reset (R751, R806); DXR, DRR and the shifters DESIGN CHOICE 0 (log 2). -/
def SerialPort.reset : SerialPort :=
  { global := 2#32, txPins := 0#32, rxPins := 0#32, timerCtl := 0#32, timerCnt := 0#32, timerPer := 0#32,
    halfX := false, halfR := false, lastX := false, lastR := false, dxr := 0#32, drr := 0#32, xsr := 0#32,
    rsr := 0#32, rsrHeld := false, loaded := false, overran := false, xrdyIn := 0, rrdyIn := 0, shiftLeft := 0
    lastShift := false, awaitFsx := false, tail := none, sync := false, fsmPrev := false, awaitAck := false, acksOwed := 0
    ackLeft := 0, rxQueue := [], txDelays := [], sent := [] }

/-- The DMA controller at reset (R793, R806). -/
def Dma.reset : Dma :=
  { control := 0#32, src := 0#24, dst := 0#24, count := 0#24, mid := false, acked := false, data := 0#32, access := none
    ahead := 0 }

/-- Words 00h up of the boot ROM. -/
def bootRom00 : List Word :=
  [0x45#32, 0x809FC1#32, 0x809FC2#32, 0x809FC3#32, 0x809FC4#32, 0x809FC5#32, 0x809FC6#32, 0x809FC7#32,
    0x809FC8#32, 0x809FC9#32, 0x809FCA#32, 0x809FCB#32, 0x809FCC#32, 0x809FCD#32, 0x809FCE#32, 0x809FCF#32,
    0x809FD0#32, 0x809FD1#32, 0x809FD2#32, 0x809FD3#32, 0x809FD4#32, 0x809FD5#32, 0x809FD6#32, 0x809FD7#32,
    0x809FD8#32, 0x809FD9#32, 0x809FDA#32, 0x809FDB#32, 0x809FDC#32, 0x809FDD#32, 0x809FDE#32, 0x809FDF#32,
    0x809FE0#32, 0x809FE1#32, 0x809FE2#32, 0x809FE3#32, 0x809FE4#32, 0x809FE5#32, 0x809FE6#32, 0x809FE7#32,
    0x809FE8#32, 0x809FE9#32, 0x809FEA#32, 0x809FEB#32, 0x809FEC#32, 0x809FED#32, 0x809FEE#32, 0x809FEF#32,
    0x809FF0#32, 0x809FF1#32, 0x809FF2#32, 0x809FF3#32, 0x809FF4#32, 0x809FF5#32, 0x809FF6#32, 0x809FF7#32,
    0x809FF8#32, 0x809FF9#32, 0x809FFA#32, 0x809FFB#32, 0x809FFC#32, 0x809FFD#32, 0x809FFE#32, 0x809FFF#32]

/-- Words 40h up of the boot ROM. -/
def bootRom40 : List Word :=
  [0#32, 0#32, 0#32, 0#32, 0#32, 0x8684040#32, 0x9E80009#32, 0x874404C#32,
    0x9F40009#32, 0x8600000#32, 0x1A770008#32, 0x6A060026#32, 0x8690008#32, 0x1A770001#32, 0x6A060006#32, 0x8692000#32,
    0x1A770002#32, 0x6A060003#32, 0x8697FF8#32, 0x1A770004#32, 0x6A05FFF5#32, 0x9E90009#32, 0x8412101#32, 0x86B00DA#32,
    0x9E1001A#32, 0x6A070006#32, 0xCC02101#32, 0x86B00B6#32, 0x9E10001#32, 0x6A070002#32, 0x86B00EE#32, 0x2690002#32,
    0x7000000B#32, 0x15410064#32, 0x7000000B#32, 0x81B0001#32, 0x4FB0000#32, 0x6805000A#32, 0x187B0001#32, 0x7000000B#32,
    0x80C0001#32, 0x8000000#32, 0x528A0001#32, 0x860FFFF#32, 0x186B0001#32, 0x7000000B#32, 0x8600001#32, 0x26B0001#32,
    0x60000062#32, 0#32, 0x86B0097#32, 0x8610111#32, 0x15410043#32, 0x8620A30#32, 0x9E20010#32, 0x15420040#32,
    0x60000062#32, 0#32, 0#32, 0#32, 0#32, 0#32, 0#32, 0#32]

/-- Words 80h up of the boot ROM. -/
def bootRom80 : List Word :=
  [0#32, 0#32, 0#32, 0#32, 0#32, 0#32, 0#32, 0#32,
    0#32, 0#32, 0#32, 0#32, 0#32, 0#32, 0#32, 0#32,
    0#32, 0#32, 0#32, 0#32, 0#32, 0#32, 0x6400009D#32, 0x1A770020#32,
    0x6A05FFFE#32, 0x2F70FDF#32, 0x841004C#32, 0x8000000#32, 0x6A0A0001#32, 0x15412401#32, 0x78800000#32, 0#32,
    0#32, 0#32, 0#32, 0#32, 0#32, 0#32, 0#32, 0#32,
    0#32, 0#32, 0#32, 0#32, 0#32, 0#32, 0#32, 0#32,
    0#32, 0#32, 0#32, 0#32, 0#32, 0x640000BD#32, 0x8412101#32, 0x2E1FFFF#32,
    0x8422101#32, 0x9E20010#32, 0x10010002#32, 0x8000000#32, 0x6A0A0001#32, 0x15412401#32, 0x78800000#32, 0#32]

/-- Words C0h up of the boot ROM. -/
def bootRomC0 : List Word :=
  [0#32, 0#32, 0#32, 0#32, 0#32, 0#32, 0#32, 0#32,
    0#32, 0#32, 0#32, 0#32, 0#32, 0#32, 0#32, 0#32,
    0#32, 0#32, 0#32, 0#32, 0#32, 0#32, 0#32, 0#32,
    0#32, 0x640000DD#32, 0x8412101#32, 0x8000000#32, 0x6A0A0001#32, 0x15412401#32, 0x78800000#32, 0#32,
    0#32, 0#32, 0#32, 0#32, 0#32, 0#32, 0#32, 0#32,
    0#32, 0#32, 0#32, 0#32, 0#32, 0x640000FD#32, 0x8412101#32, 0x2E100FF#32,
    0x8422101#32, 0x2E200FF#32, 0x9E20008#32, 0x10010002#32, 0x8422101#32, 0x2E200FF#32, 0x9E20010#32, 0x10010002#32,
    0x8422101#32, 0x9E20018#32, 0x10010002#32, 0x8000000#32, 0x6A0A0001#32, 0x15412401#32, 0x78800000#32]

/-- The image of the boot ROM, from word 0 (96_boot_and_application_examples.md section 2; DEDUCED, log 4). -/
def bootRom : List Word := bootRom00 ++ bootRom40 ++ bootRom80 ++ bootRomC0

/-- The machine right after reset (R800 to R816): ST, IE, IF and IOF 0, PC the word at location 0, the peripherals at
their reset values. Registers the spec leaves undefined are 0 (DESIGN CHOICE, unsafe, log 2), the device is an LC31 in
microprocessor mode (DESIGN CHOICE, log 1), memory lists nothing (log 3). -/
def State.reset : State :=
  { device := .lc31, pins := .quiet,
    r := Vector.replicate 8 0#40, ar := Vector.replicate 8 0#32, dp := 0#32, ir0 := 0#32, ir1 := 0#32, bk := 0#32,
    sp := 0#32, st := 0#32, ie := 0#32, ifr := 0#32, iof := 0#32, rs := 0#32, re := 0#32, rc := 0#32, pc := 0#24,
    repS := false, ir := none, delay := none, idle := .running, lowPower := false, iack := none, cache := .reset,
    lockWait := 0, lockReady := false, xf0Next := [], bank := 0#24, primary := [], expansion := [], primaryWrote := false,
    expansionWrote := false, lineAddr := none
    sync0 := .high, sync1 := .high, sync2 := .high, sync3 := .high, resetLow := 0, booting := false,
    mem := [], rom := bootRom,
    primaryCtl := 0x10F8#32, expansionCtl := 0xF8#32, timer0 := .reset, timer1 := .reset, port0 := .reset,
    port1 := .reset, dma := .reset,
    env := .none, freeCount := 0, elapsed := 0, stalled := none, abandon := false, intWindow := none,
    windowGie := false, ifSet := 0#11, ifWritten := false, shared := 0#11, onChip := [], nopRun := 0,
    recentStores := [], outNow := 0, outBefore := 0, trapped := false, loopLoad := 0, loopOldRes := [], rcBefore := none }

end Sys2Proof.Machine
end

