-- ==== Sys2Proof/Machine/Bits.lean ====
section
/-! DEFINITION. Single bits of a word by number, and free values drawn from the state's counter. -/
namespace Sys2Proof.Machine

/-- `w` with bit `i` set to `b`. -/
def setBit (w : Word) (i : Nat) (b : Bool) : Word :=
  if b then w ||| (1#32 <<< i) else w &&& ~~~(1#32 <<< i)

/-- The bits of `new` where `mask` is 1, those of `old` elsewhere. -/
def mergeBits (mask old new : Word) : Word := (new &&& mask) ||| (old &&& ~~~mask)

/-- The `k`-th free bit of this step (log 6). -/
def freeBit (s : State) (k : Nat) : Bool := Config.freeBit (s.freeCount + k)

/-- The `k`-th free word of this step (log 6). -/
def freeWord (s : State) (k : Nat) : Word := Config.freeWord (s.freeCount + k)

/-- How far the counter of free values moves at a time; no step and no H1 cycle draws as many (log 6). -/
def freeStride : Nat := 4096

end Sys2Proof.Machine
end

