-- ==== Sys2Proof/Machine/Flags.lean ====
section
/-! DEFINITION. The condition flags (R40 to R47, R331 to R333) and the integer, logical and shift operations: each gives
its output and what it does to ST when the flags are written. -/
namespace Sys2Proof.Machine

/-- What an operation gives: an output, and ST after its flags from ST before. -/
structure Effect (α : Type) where
  out : α
  flags : Word → Word

/-! ## The flags of ST (R32) -/

/-- ST.C, bit 0. -/
def stC (st : Word) : Bool := st.getLsbD 0

/-- ST.OVM, bit 7. -/
def stOvm (st : Word) : Bool := st.getLsbD 7

/-- ST.RM, bit 8. -/
def stRm (st : Word) : Bool := st.getLsbD 8

/-- A latched flag: set where the event occurs, else unchanged (R45, R46). -/
def latch (i : Nat) (event : Bool) (st : Word) : Word := if event then setBit st i true else st

/-- V, UF, N and Z written, LV and LUF latched, C unchanged (R332, R333). Where `uf` is 0 LUF stays, where `v` is 0 LV
stays. -/
def opFlags (v uf n z : Bool) (st : Word) : Word :=
  latch 6 uf (latch 5 v (setBit (setBit (setBit (setBit st 1 v) 2 z) 3 n) 4 uf))

/-- The same with C written. -/
def opFlagsC (c v uf n z : Bool) (st : Word) : Word := setBit (opFlags v uf n z st) 0 c

/-- The flags of a logical output, and of a loaded integer: N and Z from it, V and UF 0 (R332, R305). -/
def logicFlags (r : Word) (st : Word) : Word := opFlags false false r.msb (r = 0#32) st

/-! ## Integer arithmetic -/

/-- Whether an exact result fits in 32 signed bits. -/
def fits (x : Int) : Bool := -2147483648 ≤ x && x ≤ 2147483647

/-- The output of an exact result: saturated where it overflows and OVM is 1, else its low 32 bits (R331). -/
def sat (ovm : Bool) (x : Int) : Word :=
  if ovm && !fits x then (if x > 0 then 0x7FFFFFFF#32 else 0x80000000#32) else BitVec.ofInt 32 x

/-- A carry as a number. -/
def carryIn (c : Bool) : Nat := if c then 1 else 0

/-- An integer operation from its exact result and its carry: output saturated, N and V from the exact result, Z from
the output (R332). -/
def intEffect (st : Word) (x : Int) (carry : Bool) : Effect Word :=
  { out := sat (stOvm st) x
    flags := opFlagsC carry (!fits x) false (x < 0) (sat (stOvm st) x = 0#32) }

/-- `a + b + c`, the carry out of bit 31 (R332, R336, R338). -/
def addEffect (st : Word) (a b : Word) (c : Bool) : Effect Word :=
  intEffect st (a.toInt + b.toInt + carryIn c) (2 ^ 32 ≤ a.toNat + b.toNat + carryIn c)

/-- `a - b - c`, the borrow into bit 31 (R332, R360, R363). -/
def subEffect (st : Word) (a b : Word) (c : Bool) : Effect Word :=
  intEffect st (a.toInt - b.toInt - carryIn c) (a.toNat < b.toNat + carryIn c)

/-- A comparison `a - b`: the flags of a subtraction whose output is not saturated (R332, R343). -/
def cmpFlags (a b : Word) : Word → Word :=
  opFlagsC (a.toNat < b.toNat) (!fits (a.toInt - b.toInt)) false (a.toInt - b.toInt < 0) (a - b = 0#32)

/-- The absolute value: N is 0, C unchanged (R335). -/
def absEffect (st : Word) (a : Word) : Effect Word :=
  { out := sat (stOvm st) a.toInt.natAbs
    flags := opFlags (!fits a.toInt.natAbs) false false (sat (stOvm st) a.toInt.natAbs = 0#32) }

/-- The exact product of two 24-bit signed values; bits 31-24 are ignored (R348). -/
def mpyProduct (a b : Word) : Int := (a.extractLsb' 0 24).toInt * (b.extractLsb' 0 24).toInt

/-- A 24-bit integer multiplication: N is the sign of the output, C unchanged (R348, D14). -/
def mpyEffect (st : Word) (a b : Word) : Effect Word :=
  { out := sat (stOvm st) (mpyProduct a b)
    flags := opFlags (!fits (mpyProduct a b)) false (sat (stOvm st) (mpyProduct a b)).msb
      (sat (stOvm st) (mpyProduct a b) = 0#32) }

/-- One step of an unsigned division (R361). No flags. -/
def subcOut (a b : Word) : Word :=
  if b.toNat ≤ a.toNat then ((a - b) <<< 1) ||| 1#32 else a <<< 1

/-! ## Logic, shifts, rotates -/

/-- A logical output with its flags (R332). -/
def logicEffect (r : Word) : Effect Word := { out := r, flags := logicFlags r }

/-- A logical output with C as well (R346, R356). -/
def logicEffectC (r : Word) (c : Bool) : Effect Word :=
  { out := r, flags := opFlagsC c false false r.msb (r = 0#32) }

/-- The signed shift count in the seven low bits of an operand (R341). -/
def shiftCount (count : Word) : Int := (count.extractLsb' 0 7).toInt

/-- An arithmetic shift of `v`: overflow where the exact left shift does not fit, never saturated; C the last bit
shifted out (R341, D8). -/
def ashEffect (count v : Word) : Effect Word :=
  let c := shiftCount count
  let n := c.natAbs
  if 0 < c then
    let r := v <<< n
    { out := r
      flags := opFlagsC (n ≤ 32 && v.getLsbD (32 - n)) (!fits (v.toInt * 2 ^ n)) false r.msb (r = 0#32) }
  else if c < 0 then
    let r := v.sshiftRight n
    { out := r
      flags := opFlagsC (if n ≤ 32 then v.getLsbD (n - 1) else v.msb) false false r.msb (r = 0#32) }
  else { out := v, flags := opFlagsC false false false v.msb (v = 0#32) }

/-- A logical shift of `v` (R346, D8). -/
def lshEffect (count v : Word) : Effect Word :=
  let c := shiftCount count
  let n := c.natAbs
  if 0 < c then logicEffectC (v <<< n) (n ≤ 32 && v.getLsbD (32 - n))
  else if c < 0 then logicEffectC (v >>> n) (n ≤ 32 && v.getLsbD (n - 1))
  else logicEffectC v false

/-- Rotate left one bit (R356). -/
def rolEffect (x : Word) : Effect Word := logicEffectC (x.extractLsb' 0 31 ++ x.extractLsb' 31 1) (x.getLsbD 31)

/-- Rotate left one bit through C (R357). -/
def rolcEffect (c : Bool) (x : Word) : Effect Word :=
  logicEffectC (x.extractLsb' 0 31 ++ BitVec.ofBool c) (x.getLsbD 31)

/-- Rotate right one bit (R358). -/
def rorEffect (x : Word) : Effect Word := logicEffectC (x.extractLsb' 0 1 ++ x.extractLsb' 1 31) (x.getLsbD 0)

/-- Rotate right one bit through C (R359). -/
def rorcEffect (c : Bool) (x : Word) : Effect Word :=
  logicEffectC (BitVec.ofBool c ++ x.extractLsb' 1 31) (x.getLsbD 0)

/-! ## Conditions -/

/-- A condition on the flags of ST (R441). -/
def condHolds (st : Word) : Cond → Bool
  | .u => true
  | .lo => st.getLsbD 0
  | .ls => st.getLsbD 0 || st.getLsbD 2
  | .hi => !st.getLsbD 0 && !st.getLsbD 2
  | .hs => !st.getLsbD 0
  | .eq => st.getLsbD 2
  | .ne => !st.getLsbD 2
  | .lt => st.getLsbD 3
  | .le => st.getLsbD 3 || st.getLsbD 2
  | .gt => !st.getLsbD 3 && !st.getLsbD 2
  | .ge => !st.getLsbD 3
  | .nv => !st.getLsbD 1
  | .v => st.getLsbD 1
  | .nuf => !st.getLsbD 4
  | .uf => st.getLsbD 4
  | .nlv => !st.getLsbD 5
  | .lv => st.getLsbD 5
  | .nluf => !st.getLsbD 6
  | .luf => st.getLsbD 6
  | .zuf => st.getLsbD 2 || st.getLsbD 4

end Sys2Proof.Machine
end

