-- ==== Sys2Proof/Machine/Float.lean ====
section
/-! DEFINITION. Floating-point formats and arithmetic, exact in the integers and narrowed at the end (R192 to R211). -/
namespace Sys2Proof.Machine

/-! ## Fields and conversions -/

/-- Bits 39-32 as a signed number (R195). -/
def expOf (a : Ext) : Int := (a.extractLsb' 32 8).toInt

/-- Bits 31-0, sign and fraction (R195). -/
def manOf (a : Ext) : Word := a.extractLsb' 0 32

/-- The exponent -128 means 0, whatever the mantissa (R197, D18). -/
def isZero (a : Ext) : Bool := a.extractLsb' 32 8 = 0x80#8

/-- The representation of 0 (R195). -/
def fzero : Ext := 0x8000000000#40

/-- The signed 33-bit mantissa, with the implied bit that is the complement of the sign (R196). -/
def mant33 (man : Word) : Int := (man.extractLsb' 31 1 ++ ~~~man.extractLsb' 31 1 ++ man.extractLsb' 0 31).toInt

/-- A memory word as an extended-precision value (R206). -/
def fload (w : Word) : Ext := w ++ 0#8

/-- An extended-precision value as a memory word, truncated (R205). -/
def fstore (a : Ext) : Word := a.extractLsb' 8 32

/-- A short floating-point immediate as an extended-precision value; exponent -8 gives 0 (R198, D18). -/
def fshort (v : BitVec 16) : Ext :=
  if v.extractLsb' 12 4 = 8#4 then fzero else (v.extractLsb' 12 4).signExtend 8 ++ v.extractLsb' 0 12 ++ 0#20

/-! ## Normalisation -/

/-- What a floating-point operation returns (R201). -/
structure FResult where
  val : Ext
  ovf : Bool
  unf : Bool
  neg : Bool
  zero : Bool
  deriving DecidableEq, Repr

/-- The most positive and the most negative value (R201). -/
def fmost (negative : Bool) : Ext := if negative then 0x7F80000000#40 else 0x7F7FFFFFFF#40

/-- The number of bits of a natural number, 0 for 0. -/
def bitLength (n : Nat) : Nat := if n = 0 then 0 else n.log2 + 1

/-- The number of significant bits of a two's-complement number, its sign apart: `k + 1` of R207. -/
def significant (m : Int) : Nat := if 0 ≤ m then bitLength m.toNat else bitLength (-m - 1).toNat

/-- `m` shifted so that 32 bits are significant; bits shifted out are discarded (R207, D19). -/
def align33 (m : Int) : BitVec 33 :=
  BitVec.ofInt 33
    (if significant m ≤ 32 then m * 2 ^ (32 - significant m) else m / 2 ^ (significant m - 32))

/-- Normalise `m * 2^(e - 31)` and check its range (R207). -/
def fnorm (m e : Int) : FResult :=
  if m = 0 then { val := fzero, ovf := false, unf := false, neg := false, zero := true }
  else
    let x := e - 32 + significant m
    if 127 < x then { val := fmost (m < 0), ovf := true, unf := false, neg := m < 0, zero := false }
    else if x ≤ -128 then { val := fzero, ovf := false, unf := true, neg := m < 0, zero := false }
    else
      { val := BitVec.ofInt 8 x ++ (align33 m).extractLsb' 32 1 ++ (align33 m).extractLsb' 0 31
        ovf := false, unf := false, neg := m < 0, zero := false }

/-! ## Arithmetic -/

/-- The mantissa of an operand, 0 for zero (R203). -/
def addend (a : Ext) : Int := if isZero a then 0 else mant33 (manOf a)

/-- Floating-point multiplication: both operands are cut to single precision (R202). -/
def fmul (a b : Ext) : FResult :=
  if isZero a || isZero b then fnorm 0 0
  else fnorm (mant33 (manOf a) / 256 * (mant33 (manOf b) / 256)) (expOf a + expOf b - 15)

/-- The sum of two mantissas, the one with the smaller exponent shifted right, bits shifted out discarded (R203, D20). -/
def faddMan (ma mb ea eb : Int) : FResult :=
  if eb ≤ ea then fnorm (ma + mb / 2 ^ (ea - eb).toNat) ea
  else fnorm (ma / 2 ^ (eb - ea).toNat + mb) eb

/-- The difference of two mantissas, aligned in the same way (R203). -/
def fsubMan (ma mb ea eb : Int) : FResult :=
  if eb ≤ ea then fnorm (ma - mb / 2 ^ (ea - eb).toNat) ea
  else fnorm (ma / 2 ^ (eb - ea).toNat - mb) eb

/-- Floating-point addition (R203). -/
def fadd (a b : Ext) : FResult := faddMan (addend a) (addend b) (expOf a) (expOf b)

/-- Floating-point subtraction `a - b` (R203). -/
def fsub (a b : Ext) : FResult := fsubMan (addend a) (addend b) (expOf a) (expOf b)

/-- Negation (R204). -/
def fneg (a : Ext) : FResult := if isZero a then fnorm 0 0 else fnorm (-mant33 (manOf a)) (expOf a)

/-- The absolute value: `a` itself unless it is negative (R204, R334). -/
def fabs (a : Ext) : FResult :=
  if isZero a then fnorm 0 0
  else if (manOf a).msb then { fneg a with neg := false }
  else { val := a, ovf := false, unf := false, neg := false, zero := false }

/-- NORM: the mantissa is a plain signed integer (R208). -/
def fnormalize (a : Ext) : FResult :=
  if isZero a then
    if manOf a = 0#32 then fnorm 0 0
    else { val := fzero, ovf := false, unf := true, neg := (manOf a).msb, zero := false }
  else { fnorm (manOf a).toInt (expOf a) with ovf := false }

/-- Mantissa bits 7-0 cleared (R209). -/
def single (a : Ext) : Ext := a.extractLsb' 8 32 ++ 0#8

/-- Rounding to single precision; a zero operand reports underflow (R209, R355). An overflow keeps the most positive
extended-precision value (the corner case of R355). -/
def fround (a : Ext) : FResult :=
  if isZero a then { val := fzero, ovf := false, unf := true, neg := false, zero := true }
  else
    let r := fnorm (mant33 (manOf a) + 128) (expOf a)
    if r.ovf then r else { r with val := single r.val }

/-- What FIX returns (R210). -/
structure FixResult where
  val : Word
  ovf : Bool
  neg : Bool
  deriving DecidableEq, Repr

/-- Floating point to integer, toward minus infinity, saturated (R210). -/
def ffix (a : Ext) : FixResult :=
  if isZero a then { val := 0#32, ovf := false, neg := false }
  else if 30 < expOf a then
    { val := if (manOf a).msb then 0x80000000#32 else 0x7FFFFFFF#32, ovf := true, neg := (manOf a).msb }
  else
    let x := mant33 (manOf a) / 2 ^ (31 - expOf a).toNat
    { val := BitVec.ofInt 32 x, ovf := false, neg := x < 0 }

/-- Integer to floating point, exact (R211). -/
def ffloat (i : Word) : FResult := fnorm i.toInt 31

/-! ## Operations with their flags -/

/-- All flags of a floating-point result: V, UF, N, Z, and the latches (R333). -/
def floatFlags (r : FResult) : Word → Word := opFlags r.ovf r.unf r.neg r.zero

/-- A floating-point result with its flags (R333). -/
def floatEffect (r : FResult) : Effect Ext := { out := r.val, flags := floatFlags r }

/-- ABSF: UF and N are 0 (R334). -/
def absfEffect (a : Ext) : Effect Ext :=
  { out := (fabs a).val, flags := opFlags (fabs a).ovf false false (fabs a).zero }

/-- A loaded floating-point value: N and Z from it, V and UF 0 (R302). -/
def ldfEffect (v : Ext) : Effect Ext := { out := v, flags := opFlags false false (manOf v).msb (isZero v) }

/-- RND: Z is unaffected (R355, D21). -/
def rndEffect (a : Ext) : Effect Ext :=
  { out := (fround a).val
    flags := fun st => opFlags (fround a).ovf (fround a).unf (fround a).neg (st.getLsbD 2) st }

/-- FIX: N and Z from the result, UF 0 (R344). -/
def fixEffect (a : Ext) : Effect Word :=
  { out := (ffix a).val, flags := opFlags (ffix a).ovf false (ffix a).neg ((ffix a).val = 0#32) }

end Sys2Proof.Machine
end

