-- ==== Sys2Proof/Machine/Memory.lean ====
section
/-! DEFINITION. Memory as a canonical list of bytes, and the routing of addresses (R80 to R90). -/
namespace Sys2Proof.Machine

/-! ## The list of bytes -/

/-- The byte at a key, or what an unlisted byte reads as (log 3). -/
def memByte : List Host.Cell → Nat → Byte
  | [], _ => Config.unlistedByte
  | (k, b) :: m, a => if k = a then b else memByte m a

/-- Put a cell where its key belongs in a rising list. -/
def insertCell (a : Nat) (b : Byte) : List Host.Cell → List Host.Cell
  | [] => [(a, b)]
  | (k, c) :: m => if a < k then (a, b) :: (k, c) :: m else (k, c) :: insertCell a b m

/-- Write one byte. Writing what an unlisted byte reads as removes the entry, so equal memories are equal lists. -/
def memWriteByte (m : List Host.Cell) (a : Nat) (b : Byte) : List Host.Cell :=
  if b = Config.unlistedByte then m.filter fun c => c.1 != a
  else insertCell a b (m.filter fun c => c.1 != a)

/-- The canonical form: keys strictly rising, and no entry equal to what an unlisted byte reads as. -/
abbrev MemWf (m : List Host.Cell) : Prop :=
  m.Pairwise (fun c d => c.1 < d.1) ∧ ∀ c ∈ m, c.2 ≠ Config.unlistedByte

/-- The word at an address: byte keys 4a to 4a+3, low byte first (log 3; the architecture has no bytes, R81). -/
def memWord (m : List Host.Cell) (a : Addr) : Word :=
  memByte m (4 * a.toNat + 3) ++ memByte m (4 * a.toNat + 2) ++ memByte m (4 * a.toNat + 1) ++ memByte m (4 * a.toNat)

/-- Write a word at an address. -/
def memWriteWord (m : List Host.Cell) (a : Addr) (v : Word) : List Host.Cell :=
  memWriteByte (memWriteByte (memWriteByte (memWriteByte m (4 * a.toNat) (v.extractLsb' 0 8))
    (4 * a.toNat + 1) (v.extractLsb' 8 8)) (4 * a.toNat + 2) (v.extractLsb' 16 8))
    (4 * a.toNat + 3) (v.extractLsb' 24 8)

/-- The word of the on-chip ROM at an address; a word the list does not reach reads as unlisted bytes (R84). -/
def romWord (s : State) (a : Addr) : Word := s.rom.getD a.toNat 0#32

/-! ## Routing -/

/-- Where an address leads (R82). -/
inductive Region where
  | rom | primary | mstrb | iostrb | peripheral | ram | reserved
  deriving DecidableEq, Repr

/-- The routing of an address, the first matching row of R82. DESIGN CHOICE, unsafe (log 1), as R131 says that the level of
MCBL/MP should not change in the middle of an access: an access to 0h to FFFh is routed by the level at the start of the step
that makes it. One that has begun goes on as it was routed, also over several steps (`lockRegion`); but the instruction of a
read that never ends asks for it anew in each step, and the read is then routed anew, and the read that has begun is left on
its port. -/
def region (s : State) (a : Addr) : Region :=
  if a.toNat < 0x1000 then (if s.pins.mcmp then .rom else .primary)
  else if a.toNat < 0x800000 then .primary
  else if a.toNat < 0x802000 then (if s.device = .c30 then .mstrb else .reserved)
  else if a.toNat < 0x804000 then .reserved
  else if a.toNat < 0x806000 then (if s.device = .c30 then .iostrb else .reserved)
  else if a.toNat < 0x808000 then .reserved
  else if a.toNat < 0x809800 then .peripheral
  else if a.toNat < 0x80A000 then .ram
  else .primary

/-- An address that another master reaches over the primary bus: also those that the ROM hides from the CPU. DESIGN CHOICE,
unsafe (log 5): external memory at 0h to FFFh keeps what is written to it while MC/MP is high; R97 and R672 do not speak of
it. -/
def onPrimaryBus (s : State) (a : Addr) : Bool := region s a = .primary || a.toNat < 0x1000

/-- What an access is for: the operand of an instruction, an instruction word, a vector, a part of a DMA transfer, or a
read that the program did not ask for, which returns nothing to the CPU (R83, R92, R608, R782). -/
inductive Access where
  | data
  | fetch
  | vector
  | dma
  | extra
  deriving DecidableEq, Repr

/-- On a C31 the boot ROM is reserved to data accesses; fetches and vector reads reach it (R83, R608). -/
def romReadable (s : State) : Access → Bool
  | .data => s.device = .c30
  | .fetch => true
  | .vector => true
  | .dma => s.device = .c30
  | .extra => true

/-! ## The external ports -/

/-- What an access that a port cannot finish waits for. -/
def PortName.wait : PortName → Wait
  | .primary => .primary
  | .expansion => .expansion

/-- The port of a region, none where it is on-chip (R82). -/
def portOf : Region → Option PortName
  | .primary => some .primary
  | .mstrb => some .expansion
  | .iostrb => some .expansion
  | .rom => none
  | .peripheral => none
  | .ram => none
  | .reserved => none

/-- The port that serves an address, that of the expansion bus also for the peripheral bus, none where it needs none (R82,
R784). -/
def busPort (s : State) (a : Addr) : Option PortName :=
  if region s a = .peripheral then some .expansion else portOf (region s a)

/-- An address is off-chip: an external port serves it (R82). -/
def offChip (s : State) (a : Addr) : Bool := (portOf (region s a)).isSome

/-- The bus-control register of a port (R660). -/
def portCtl (s : State) : PortName → Word
  | .primary => s.primaryCtl
  | .expansion => s.expansionCtl

/-- The ready pin of a port, RDY or XRDY (R668); true is high, not ready. -/
def PortName.pin : PortName → Pins → Bool
  | .primary, p => p.rdy
  | .expansion, p => p.xrdy

/-- The accesses on a port that are not over, the latest first. -/
def portCycles (s : State) : PortName → List BusCycle
  | .primary => s.primary
  | .expansion => s.expansion

/-- Put one more access on a port. -/
def addCycle (c : BusCycle) (s : State) : PortName → State
  | .primary => { s with primary := c :: s.primary }
  | .expansion => { s with expansion := c :: s.expansion }

/-- The access that a port carries out in this cycle. -/
def nowOn (l : List BusCycle) : Option BusCycle := l.find? fun c => c.start == 0

/-- The access whose address a port puts out in this cycle: the one it carries out, or in the extra cycle before a
read the coming one (R676, R681). -/
def addressOn (l : List BusCycle) : Option BusCycle := (nowOn l).or (l.find? fun c => c.start ≤ c.lead)

/-- H1 cycles from now until a port is free: the end of its latest access, none where that never ends (R93, R95). -/
def portFree : List BusCycle → Option Nat
  | [] => some 0
  | c :: _ => c.stop

/-- The pins and what remains of their schedule after some H1 cycles (log 5). -/
def pinsAfter : Nat → Pins → List Pins → Pins × List Pins
  | 0, p, qs => (p, qs)
  | _ + 1, p, [] => (p, [])
  | n + 1, _, q :: qs => pinsAfter n q qs

/-- The primary bus is held, `n` H1 cycles from now: by HOLD without NOHOLD, or by HIZ (R672). -/
def heldIn (s : State) (n : Nat) : Bool :=
  (!(pinsAfter n s.pins s.env.pinSchedule).1.hold && !s.primaryCtl[1]) || s.primaryCtl[2]

/-- The primary bus is held at this point of the step (R672). -/
def busHeld (s : State) : Bool := heldIn s s.elapsed

/-- A port has no access in progress at this point of the step. -/
def portIdle (s : State) (p : PortName) : Bool :=
  match portFree (portCycles s p) with
  | some n => n ≤ s.elapsed
  | none => false

/-- The ready condition of an access `k` H1 cycles after it began (the table of R668): `pin` is the ready pin, and the
device keeps it high for the first `waits` cycles (R9). -/
def readyAt (ctl : Word) (waits k : Nat) (pin : Bool) : Bool :=
  let answered := !pin && waits ≤ k
  let counted := (ctl.extractLsb' 5 3).toNat ≤ k
  if ctl.extractLsb' 3 2 = 0#2 then answered
  else if ctl.extractLsb' 3 2 = 1#2 then counted
  else if ctl.extractLsb' 3 2 = 2#2 then answered || counted
  else answered && counted

/-- Wait states from the `k`-th cycle of an access on, with a ready pin that stays as it is: at most `n` are looked at. -/
def steadyWait (ctl : Word) (waits : Nat) (pin : Bool) : Nat → Nat → Option Nat
  | 0, _ => none
  | n + 1, k => if readyAt ctl waits k pin then some 0 else (steadyWait ctl waits pin n (k + 1)).map (· + 1)

/-- Wait states from the `k`-th cycle of an access on, none where it never ends or RESET comes first (R93, R668, R682):
`p` are the pins of that cycle and `qs` those that follow. -/
def readyWait (ctl : Word) (waits : Nat) (pin : Pins → Bool) (p : Pins) : List Pins → Nat → Option Nat
  | [], k => if p.reset then steadyWait ctl waits (pin p) (waits + 8) k else none
  | q :: qs, k =>
    if !p.reset then none
    else if readyAt ctl waits k (pin p) then some 0
    else (readyWait ctl waits pin q qs (k + 1)).map (· + 1)

/-- The wait states of an access on a port that begins `t` H1 cycles from now (R668). DESIGN CHOICE, unsafe (log 21): they are
counted with the bus control as it stands where the access is asked for, and a write of that register does not change them
while the access is in progress, where R786 says that an access without wait states may result and R861 asks programs not to
do so. -/
def portWait (s : State) (p : PortName) (waits t : Nat) : Option Nat :=
  let now := pinsAfter t s.pins s.env.pinSchedule
  readyWait (portCtl s p) waits p.pin now.1 now.2 0

/-- H1 cycles from now until an access asked for at this point of the step can begin, `late` cycles after its port takes it:
once the port is free, and only while the bus is not held (R93, R95, R672). -/
def portStartAfter (late : Nat) (s : State) (p : PortName) : Except Stop Nat :=
  match portFree (portCycles s p) with
  | none => .error (.stall p.wait)
  | some n =>
    if p = .primary ∧ heldIn s (max s.elapsed n + late) = true then .error (.stall .held) else .ok (max s.elapsed n + late)

/-- The same for an access that begins in the cycle in which its port takes it. -/
def portStart (s : State) (p : PortName) : Except Stop Nat := portStartAfter 0 s p

/-! ## Banks -/

/-- The number of address bits that define a bank; values above 16 compare 16 (R676, C12). -/
def bankBits (ctl : Word) : Nat := min 16 (ctl.extractLsb' 8 5).toNat

/-- The bank of an address: its most significant bits (R676). -/
def bankOf (ctl : Word) (a : Addr) : Addr := (a >>> (24 - bankBits ctl)) <<< (24 - bankBits ctl)

/-- The extra cycle of a read over the primary bus that goes to another bank than the last access (R676). -/
def bankGap (s : State) (p : PortName) (a : Addr) : Nat :=
  match p with
  | .primary => if bankOf s.primaryCtl a = bankOf s.primaryCtl s.bank then 0 else 1
  | .expansion => 0

/-- Reads and writes over the primary bus leave their bank in the bank register (R676). DESIGN CHOICE, unsafe (log 19):
the register holds the bits that BNKCMP defines at that access; bits that BNKCMP adds later compare as 0. -/
def noteBank (p : PortName) (a : Addr) (s : State) : State :=
  match p with
  | .primary => { s with bank := bankOf s.primaryCtl a }
  | .expansion => s

/-- IOSTRB reads take one cycle more (R682, R683). -/
def ioCycle (r : Region) : Nat := if r = .iostrb then 1 else 0

/-! ## Reads after writes -/

/-- A write over STRB or MSTRB (R681). -/
def memoryWrite (s : State) (c : BusCycle) : Bool := c.write && region s c.addr != .iostrb

/-- A write over STRB or MSTRB was over at the end of the last H1 cycle. -/
def portWrote (s : State) : PortName → Bool
  | .primary => s.primaryWrote
  | .expansion => s.expansionWrote

/-- What a port begins `t` H1 cycles from now comes directly after a write over STRB or MSTRB (R681). DESIGN CHOICE, unsafe
(log 19): a read follows a write where no H1 cycle lies between them. -/
def followsWrite (s : State) (p : PortName) (t : Nat) : Bool :=
  match portCycles s p with
  | [] => t == 0 && portWrote s p
  | c :: _ => memoryWrite s c && c.stop == some t

/-- The extra cycle, with the strobe high, of a read that its port could begin `t` H1 cycles from now: after another bank, or
over STRB and MSTRB after a write (R676, R681). DESIGN CHOICE, unsafe (log 19): one cycle is enough for both, and a read over
IOSTRB, or after a write over it, takes none. -/
def readLead (s : State) (p : PortName) (a : Addr) (t : Nat) : Nat :=
  if region s a ≠ .iostrb ∧ followsWrite s p t = true then 1 else bankGap s p a

/-! ## External accesses -/

/-- What a device answers to the next external read: memory that is ready at once where the environment says nothing
(R9, log 8). -/
def nextRead (s : State) : ExtRead := s.env.extReads.headD { word := none, waits := 0 }

/-- What becomes of the next external write: the location holds it, ready at once, where the environment says nothing
(R9, log 8). -/
def nextWrite (s : State) : ExtWrite := s.env.extWrites.headD { keeps := true, waits := 0 }

/-- A read of an address that begins `t` H1 cycles from now, after `lead` extra cycles, and is over after `stop` (R9,
R676, R681). -/
def readCycle (s : State) (a : Addr) (lead t : Nat) (stop : Option Nat) : BusCycle :=
  let w := (nextRead s).word.getD (memWord s.mem a)
  { addr := a, write := false, word := w, old := w, waits := (nextRead s).waits, lead := lead, start := t, stop := stop }

/-- A read is put on its port, with the answer it takes from the environment (R9, R676). -/
def beginRead (p : PortName) (c : BusCycle) (s : State) : State :=
  noteBank p c.addr (addCycle c { s with env := { s.env with extReads := s.env.extReads.drop 1 } } p)

/-- A read over a port (R9, R93, R668, R676, R681, R682). The CPU goes on when its read is over; one that never ends locks it up.
A read of the DMA controller, and one that the program did not ask for, takes none of the CPU's time. DESIGN CHOICE, unsafe (log
21): the extra cycle before a read is part of its transaction, so HOLD is looked at as that cycle begins, and a HOLD that falls
in it lets the read go on, where R672, R676 and R681 do not say whether that cycle belongs to the transaction. -/
def extLoad (k : Access) (p : PortName) (a : Addr) (s : State) : Except Stop (Word × State) := do
  let t0 ← portStart s p
  let lead := readLead s p a t0
  let t := t0 + lead
  let wait := portWait s p (nextRead s).waits t
  let io := ioCycle (region s a)
  let c := readCycle s a lead t (wait.map (t + · + io + 1))
  if k = .dma ∨ k = .extra then pure (c.word, beginRead p c s)
  else
    match wait with
    | some n => pure (c.word, { beginRead p c s with elapsed := t + n + io })
    | none => .error (.lockup p c)

/-- A write over a port: it is handed over when the port is free, appears on the bus `late` cycles later, and the CPU goes on
while it takes place (R9, R95, R668, R681, R682, R850). A write of the DMA controller takes none of the CPU's time. -/
def extStore (late : Nat) (dma : Bool) (p : PortName) (a : Addr) (v : Word) (s : State) : Except Stop State := do
  let t ← portStartAfter late s p
  let wait := portWait s p (nextWrite s).waits t
  let old := memWord s.mem a
  let s1 := noteBank p a
    (addCycle { addr := a, write := true, word := v, old := old, waits := (nextWrite s).waits, lead := 0, start := t
                stop := wait.map (t + · + 2) }
      { s with env := { s.env with extWrites := s.env.extWrites.drop 1 } } p)
  pure { s1 with
    elapsed := if dma then s.elapsed else t - late
    outNow := if dma then s.outNow else s.outNow + 1
    mem := if (nextWrite s).keeps then memWriteWord s.mem a v else s.mem
    recentStores :=
      if dma || !(nextWrite s).keeps then s.recentStores else { addr := a, old := old, age := 0 } :: s.recentStores }

/-- One H1 cycle passes on a port (R681): what is over is forgotten. -/
def ageCycles (l : List BusCycle) : List BusCycle :=
  (l.map fun c => { c with start := c.start - 1, stop := c.stop.map (· - 1) }).filter fun c => c.stop != some 0

/-- The CPU accesses an on-chip word in this cycle of the step; the DMA controller gives way to it (R784, R863). -/
def noteOnChip (k : Access) (a : Addr) (s : State) : State :=
  if k = .dma then s else { s with onChip := { start := s.elapsed, addr := a } :: s.onChip }

end Sys2Proof.Machine
end

