-- ==== Sys2Proof/Machine/Registers.lean ====
section
/-! DEFINITION. Reading and writing the CPU register file (R20 to R68), the one place where its special registers live. -/
namespace Sys2Proof.Machine

/-! ## The status register -/

/-- The bits of ST that hold what is written: all fields but CC (R32 to R34). -/
def stMask : Word := 0x2DFF#32

/-- ST after a load of `v` by an instruction: bits 9, 12, 14, 15 and 31-16 read as 0, and RM cannot be set while RC is 0
or -1 (R33, R34, R38, R646). DESIGN CHOICE, unsafe (log 18): within a repeat block, where the value of RC that an instruction
reads is inexact (R644, N60-2), the restriction of RM sees RC as the function of R642 has it. -/
def stLoaded (rc v : Word) : Word :=
  if rc = 0#32 ∨ rc = 0xFFFFFFFF#32 then setBit (v &&& stMask) 8 false else v &&& stMask

/-- A segment without its words (R107). -/
def Segment.clear (g : Segment) : Segment := { g with present := 0#32 }

/-- Every P flag 0; the segment addresses and the LRU stack stay (R107). -/
def Cache.clear (c : Cache) : Cache := { c with seg0 := c.seg0.clear, seg1 := c.seg1.clear }

/-- ST.GIE set or cleared by the machine itself (R620, R632, R456, R468). -/
def setGie (b : Bool) (s : State) : State := { s with st := setBit s.st 13 b }

/-- ST.RM set or cleared by the repeat logic (R460, R461, R642). -/
def setRm (b : Bool) (s : State) : State := { s with st := setBit s.st 8 b }

/-- A direct load of RS, RE, RC or RM may come too late for the next three instructions (R833). The count runs down at
the end of each instruction, this one included. Each value that RE has had meanwhile may be compared with a fetch. -/
def loopLoaded (s : State) : State :=
  { s with loopLoad := 4, loopOldRes := s.re.extractLsb' 0 24 :: (if s.loopLoad = 0 then [] else s.loopOldRes) }

/-- ST as an instruction reads it. While a recognised interrupt waits for its entry, GIE may already be 0 (R626, U19):
the bit is free. -/
def stRead (s : State) : Word :=
  if s.intWindow.isSome ∧ s.st.getLsbD 13 = true then setBit s.st 13 (freeBit s 16) else s.st

/-- A load of ST by an instruction (R33, R38, R646). A direct change of RM counts as a load of the repeat registers. -/
def writeSt (v : Word) (s : State) : State :=
  let s1 := if (stLoaded s.rc v).getLsbD 8 = s.st.getLsbD 8 then s else loopLoaded s
  { s1 with
    st := stLoaded s.rc v
    cache := if v.getLsbD 12 then s.cache.clear else s.cache
    windowGie := s.windowGie || (s.intWindow.isSome && v.getLsbD 13) }

/-! ## Interrupt and I/O registers -/

/-- The bits of IE that hold what is written; the others read as 0 (R50, D1). -/
def ieMask : Word := 0x07FF07FF#32

/-- IE bits 6, 7, 22 and 23, the serial-port-1 enables (R50, U7). -/
def iePort1 : Word := 0x00C000C0#32

/-- A load of IE. A 1 in the serial-port-1 enables of a C31 is unpredictable (R50, U7). -/
def writeIe (v : Word) (s : State) : Except Stop State :=
  if s.device ≠ .c30 ∧ v &&& iePort1 ≠ 0#32 then .error (.refuse .serialPort1Enable)
  else .ok { s with ie := v &&& ieMask }

/-- The bits of IF that hold what is written; the others read as 0 (R51, D1). DESIGN CHOICE, unsafe (log 11): on a C31 bits
6 and 7 hold a 1 that is written to them, as on a C30; R2 and R51 only ask that it be 0. -/
def ifMask : Word := 0x7FF#32

/-- Eleven free bits, which the IF bits a source set in this step may keep (R618, U21). -/
def freeFlags (s : State) : BitVec 11 := BitVec.ofFnLE fun i : Fin 11 => freeBit s i.val

/-- A load of IF. A bit whose source was active in the cycles before is the written value or 1; one whose source becomes
active in this instruction's own cycles may be lost (R618, U21). -/
def writeIf (v : Word) (s : State) : State :=
  { s with
    ifr :=
      if s.ifSet = 0#11 then v &&& ifMask
      else (v &&& ifMask) ||| (s.ifSet &&& freeFlags s).setWidth 32
    ifWritten := true }

/-- The bits of IOF that hold what is written: I/OXF0, OUTXF0, I/OXF1, OUTXF1 (R52). -/
def iofMask : Word := 0x66#32

/-- A load of RC, which the repeat logic may be changing in the same cycle (R833). -/
def writeRc (v : Word) (s : State) : State :=
  { loopLoaded s with rc := v, rcBefore := some (s.rcBefore.getD s.rc) }

/-- The level at XF0: OUTXF0 while the pin is an output, else what the environment puts there (R52, D2). -/
def xf0Level (s : State) : Bool := if s.iof.getLsbD 1 then s.iof.getLsbD 2 else s.pins.xf0

/-- The level at XF1 (R52, D2). -/
def xf1Level (s : State) : Bool := if s.iof.getLsbD 5 then s.iof.getLsbD 6 else s.pins.xf1

/-- IOF as an instruction reads it: INXF0 and INXF1 are the pin levels (R52). -/
def iofRead (s : State) : Word := setBit (setBit s.iof 3 (xf0Level s)) 7 (xf1Level s)

/-! ## The register file -/

/-- How many passes over the end of a repeat block can lie among the instruction at the PC and the three fetched after
it, each of which may already have decremented RC (R644, R833, N60-2). -/
def fetchedEnds (s : State) : Nat :=
  if s.repS then 4
  else if 3 < (s.re.extractLsb' 0 24 - s.pc).toNat then 0
  else 1 + (3 - (s.re.extractLsb' 0 24 - s.pc).toNat) / (s.re.extractLsb' 0 24 - s.rs.extractLsb' 0 24 + 1).toNat

/-- A free number of at most `n`, from the free bits `k` on. -/
def freeUpTo (s : State) (k : Nat) : Nat → Nat
  | 0 => 0
  | n + 1 => freeUpTo s k n + (if freeBit s (k + n) then 1 else 0)

/-- RC as an instruction reads it: in a repeat mode less the decrements that instructions already fetched may have made,
which are free (R644, N60-2; log 18). -/
def rcRead (s : State) : Word :=
  if s.st.getLsbD 8 then s.rc - BitVec.ofNat 32 (freeUpTo s 33 (fetchedEnds s)) else s.rc

/-- Bits 31-0 of R0-R7: their integer value, or their mantissa (R23). -/
def readInt (n : FReg) (s : State) : Word := (s.r[n.toNat]).extractLsb' 0 32

/-- All 40 bits of R0-R7 (R22). -/
def readExt (n : FReg) (s : State) : Ext := s.r[n.toNat]

/-- The integer value of a register (R20, R23). -/
def readReg : Reg → State → Word
  | .r n, s => readInt n s
  | .ar n, s => s.ar[n.toNat]
  | .dp, s => s.dp
  | .ir0, s => s.ir0
  | .ir1, s => s.ir1
  | .bk, s => s.bk
  | .sp, s => s.sp
  | .st, s => stRead s
  | .ie, s => s.ie
  | .ifr, s => s.ifr
  | .iof, s => iofRead s
  | .rs, s => s.rs
  | .re, s => s.re
  | .rc, s => rcRead s

/-- A 40-bit result into R0-R7 (R22). -/
def writeExt (n : FReg) (v : Ext) (s : State) : State := { s with r := s.r.set n.toNat v }

/-- An integer result into R0-R7: bits 39-32 stay (R23). -/
def writeInt (n : FReg) (v : Word) (s : State) : State :=
  writeExt n ((readExt n s).extractLsb' 32 8 ++ v) s

/-- A word into ARn as an ALU register, all 32 bits (R24). -/
def writeAr (n : BitVec 3) (v : Word) (s : State) : State := { s with ar := s.ar.set n.toNat v }

/-- An integer result into any register, by that register's own rule (R20 to R55). -/
def writeReg : Reg → Word → State → Except Stop State
  | .r n, v, s => .ok (writeInt n v s)
  | .ar n, v, s => .ok (writeAr n v s)
  | .dp, v, s => .ok { s with dp := v }
  | .ir0, v, s => .ok { s with ir0 := v }
  | .ir1, v, s => .ok { s with ir1 := v }
  | .bk, v, s => .ok { s with bk := v }
  | .sp, v, s => .ok { s with sp := v }
  | .st, v, s => .ok (writeSt v s)
  | .ie, v, s => writeIe v s
  | .ifr, v, s => .ok (writeIf v s)
  | .iof, v, s => .ok { s with iof := v &&& iofMask }
  | .rs, v, s => .ok { loopLoaded s with rs := v }
  | .re, v, s => .ok { loopLoaded s with re := v }
  | .rc, v, s => .ok (writeRc v s)

/-- Whether a destination is one of R0-R7, so that an instruction updates the condition flags (R40). -/
def setsFlags : Reg → Bool
  | .r _ => true
  | .ar _ => false
  | .dp => false
  | .ir0 => false
  | .ir1 => false
  | .bk => false
  | .sp => false
  | .st => false
  | .ie => false
  | .ifr => false
  | .iof => false
  | .rs => false
  | .re => false
  | .rc => false

/-- The address part of ARn, bits 23-0 (R24). -/
def arAddr (n : BitVec 3) (s : State) : Addr := (s.ar[n.toNat]).extractLsb' 0 24

/-- An update of ARn by address arithmetic: bits 31-24 stay (R24, R250). -/
def writeArAddr (n : BitVec 3) (a : Addr) (s : State) : State :=
  { s with ar := s.ar.set n.toNat ((s.ar[n.toNat]).extractLsb' 24 8 ++ a) }

/-- The PC after an instruction that does not branch (R61, D3). -/
def advance (s : State) : State := { s with pc := s.pc + 1 }

end Sys2Proof.Machine
end

