-- ==== Sys2Proof/Machine/Timers.lean ====
section
/-! DEFINITION. The two timers (R690 to R698) and the counting rule the serial-port timers share (R694, R726). -/
namespace Sys2Proof.Machine

/-- What one H1 cycle leaves of a counter: GO, TSTAT, the counter, and whether TSTAT rose (R694, R695). -/
structure CountResult (w : Nat) where
  go : Bool
  tstat : Bool
  counter : BitVec w
  rose : Bool
  deriving DecidableEq, Repr

/-- One H1 cycle of a counter that is not held. `clockMode` is C/P; `rising` says the input clock rose. A pulse ends
after one cycle (R695); period and counter both 0 follow R697. DESIGN CHOICE, unsafe (log 28): GO = 1 waits for a rising edge of
the input before that (R691, R694), also with period and counter both 0, where the spec does not say which goes first. DESIGN
CHOICE, unsafe (log 28): where C/P is written from 1 to 0 while TSTAT is 1, TSTAT is 0 after the next H1 cycle with HLD = 1, as
after a pulse; R695 does not speak of such a write. -/
def countCycle {w : Nat} (clockMode go tstat rising : Bool) (counter period : BitVec w) : CountResult w :=
  if go then
    if rising then { go := false, tstat := clockMode && tstat, counter := 0, rose := false }
    else { go := true, tstat := clockMode && tstat, counter := counter, rose := false }
  else if period = 0 ∧ counter = 0 then
    if clockMode then { go := false, tstat := !tstat, counter := 0, rose := !tstat }
    else { go := false, tstat := true, counter := 0, rose := !tstat }
  else if rising then
    if counter + 1 = period then
      if clockMode then { go := false, tstat := !tstat, counter := 0, rose := !tstat }
      else { go := false, tstat := true, counter := 0, rose := !tstat }
    else { go := false, tstat := clockMode && tstat, counter := counter + 1, rose := false }
  else { go := false, tstat := clockMode && tstat, counter := counter, rose := false }

/-- The level at a timer's TCLK pin, which is what DATIN reads (R696). DESIGN CHOICE, unsafe (log 28): INV counts at once, also
while HLD = 0. -/
def timerPin (t : Timer) (pin : Bool) : Bool :=
  if t.control[0] then (if t.control[9] then t.control[11] != t.control[10] else pin)
  else if t.control[1] then t.control[2]
  else pin

/-- The external input clock of a timer, for CLKSRC = 0 (R694). INV has no effect on DATOUT. DESIGN CHOICE, unsafe (log 28):
where TCLK is a general-purpose input INV inverts the pin on its way to the counter, as R694 and R696 say, though R691 says
that INV has no effect in I/O port mode. -/
def timerInput (t : Timer) (pin : Bool) : Bool :=
  if !t.control[0] && t.control[1] then t.control[2] else pin != t.control[10]

/-- One H1 cycle of a timer with its pin at a level; the second part says TSTAT rose, which is the interrupt (R695).
While HLD = 0 nothing changes but the sampled level (R692). DESIGN CHOICE, unsafe (log 28): the input is compared with the
level sampled a cycle ago under the control bits of that cycle, so a write that changes INV, FUNC or I/O while the pin is
steady can count as an edge (R694). DESIGN CHOICE, unsafe (log 28): the internal divide-by-two counter runs only while
CLKSRC = 1 and HLD = 1, and GO leaves its phase as it is, where R694 says nothing of either. -/
def timerCycle (t : Timer) (pin : Bool) : Timer × Bool :=
  if t.control[7] then
    let input := timerInput t pin
    let rising := if t.control[9] then t.half else input && !t.lastIn
    let c := countCycle t.control[8] t.control[6] t.control[11] rising t.counter t.period
    ({ t with
        control := setBit (setBit t.control 6 c.go) 11 c.tstat
        counter := c.counter
        half := if t.control[9] then !t.half else t.half
        lastIn := input }, c.rose)
  else ({ t with lastIn := timerInput t pin }, false)

/-- The bits of a timer's control register that a write changes: FUNC, I/O, DATOUT, GO, HLD, C/P, CLKSRC, INV (R691). -/
def timerMask : Word := 0x7C7#32

/-- A read of a timer register by its offset, none where it is reserved (R690). -/
def timerRead (t : Timer) (pin : Bool) (off : Nat) : Option Word :=
  if off = 0 then some (setBit t.control 3 (timerPin t pin))
  else if off = 4 then some t.counter
  else if off = 8 then some t.period
  else none

/-- A write of a timer register by its offset, none where it is reserved (R690, R693). -/
def timerWrite (t : Timer) (off : Nat) (v : Word) : Option Timer :=
  if off = 0 then some { t with control := mergeBits timerMask t.control v }
  else if off = 4 then some { t with counter := v }
  else if off = 8 then some { t with period := v }
  else none

end Sys2Proof.Machine
end

