-- ==== Sys2Proof/Machine/Serial.lean ====
section
/-! DEFINITION. The serial ports at word level, after the abstraction of R755 (D27). -/
namespace Sys2Proof.Machine

/-! ## Fields -/

/-- The word length a 2-bit LEN field selects (R722). -/
def wordLength (len : BitVec 2) : Nat := 8 * (len.toNat + 1)

/-- The transmit word length, XLEN (R722). -/
def txBits (p : SerialPort) : Nat := wordLength (p.global.extractLsb' 18 2)

/-- The receive word length, RLEN (R722). -/
def rxBits (p : SerialPort) : Nat := wordLength (p.global.extractLsb' 20 2)

/-- The level at a serial pin: its DATOUT bit if it is a general-purpose output, `port` if it is a serial-port pin the
port drives, else the external level (R723, R750). `at` is the pin's lowest control bit. -/
def serialPin (control : Word) (at0 : Nat) (port : Option Bool) (pin : Bool) : Bool :=
  if control.getLsbD at0 then port.getD pin
  else if control.getLsbD (at0 + 1) then control.getLsbD (at0 + 2)
  else pin

/-- The CLKX pin: the transmit timer drives it when XCLKSRCE = 1 (R727). -/
def clkxPin (p : SerialPort) (pins : SerialPins) : Bool :=
  serialPin p.txPins 0 (if p.global[6] then some (p.timerCtl[5] != p.global[12]) else none) pins.clkx

/-- The CLKR pin: the receive timer drives it when RCLKSRCE = 1 (R727). -/
def clkrPin (p : SerialPort) (pins : SerialPins) : Bool :=
  serialPin p.rxPins 0 (if p.global[7] then some (p.timerCtl[11] != p.global[13]) else none) pins.clkr

/-! ## What the transmitter puts on its pins -/

/-- The port makes its own frame syncs: FSXOUT = 1, or handshake mode (R722, R742). -/
def ownSync (p : SerialPort) : Bool := p.global[2] || p.global[5]

/-- Words follow each other without frame syncs: XFSM = 1, which handshake mode disables (R741, R742). -/
def continuous (p : SerialPort) : Bool := p.global[10] && !p.global[5]

/-- FSX is active from outside, at a pin that is a serial-port pin (R722, R723, R734). -/
def fsxActive (p : SerialPort) (pins : SerialPins) : Bool := p.txPins[8] && pins.fsx != p.global[16]

/-- The bits a word takes on DX: its own, and in handshake mode a leading 1 (R732, R742). -/
def frameBits (p : SerialPort) : Nat := txBits p + if p.global[5] then 1 else 0

/-- Rising edges of the shift clock until the last of `bits` bits that are due now goes out: one for each bit, and one more
for the cycle of the port's own frame sync at a fixed data rate. There is no such cycle where they follow a last bit without a
gap, however late in the word before it they were loaded (R731, R733, R746, R747; `loadCycle`). -/
def shiftLength (p : SerialPort) (bits : Nat) : Nat :=
  bits + if ownSync p && !p.global[8] && p.tail.isNone then 1 else 0

/-- A word loaded now has a frame sync of its own: the first of a block, and in standard mode every one; at a fixed data rate
with an internal FSX one word later than XFSM is cleared (R741). DESIGN CHOICE, unsafe (log 9): XFSM is looked at in the cycle in
which the word is loaded, so a change after the bit by which R741 asks for it still counts for that word. -/
def hasSync (p : SerialPort) : Bool :=
  p.tail.isNone || !(continuous p || (ownSync p && !p.global[8] && !p.global[5] && p.fsmPrev))

/-- The word in XSR has bits to send, of which some are out (R732). -/
def shifting (p : SerialPort) : Bool := p.global[3] && !p.awaitFsx && decide (p.shiftLeft < frameBits p)

/-- The bit that is out on DX, none where there is none: the last of a word, an acknowledge, or the one the shifter has reached;
in handshake mode a leading 1 comes first (R732, R742). -/
def bitOut (p : SerialPort) : Option Bool :=
  match p.tail with
  | some t => some t.bit
  | none => if shifting p then some (p.shiftLeft == txBits p || p.xsr.getLsbD p.shiftLeft) else none

/-- The level the port gives DX as a serial-port pin: the bit that is out, with its polarity, none where there is none (R722,
R732). -/
def dxOut (p : SerialPort) : Option Bool := (bitOut p).map (· != p.global[14])

/-- The port drives DX though no bit is out, with a level that is not stated: an external FSX is active at a variable data rate
(R722, R734). -/
def dxUnstated (p : SerialPort) (pins : SerialPins) : Bool :=
  (bitOut p).isNone && !ownSync p && p.global[8] && p.global[26] && fsxActive p pins

/-- FSX as the port drives it is active: at a fixed data rate for the clock cycle before the first bit, at a variable one while
bits are out; an acknowledge has one as a word has (R733, R741, R742, R747). -/
def syncOut (p : SerialPort) : Bool :=
  if p.global[8] then
    match p.tail with
    | some t => t.sync
    | none => shifting p && p.sync
  else (p.global[3] && p.sync && p.shiftLeft == frameBits p) || p.ackLeft == 1

/-- The level the port gives FSX as a serial-port pin: an output where the port makes its own frame syncs (R722, R733, R742). -/
def fsxOut (p : SerialPort) : Option Bool := if ownSync p then some (syncOut p != p.global[16]) else none

/-! ## Registers -/

/-- The FSX/DX/CLKX register with its DATIN bits, the levels on the pins: those the port gives them, else those from outside
(R723, R750). `free` is a free bit, for a level of DX that is not stated. -/
def txPinsRead (p : SerialPort) (pins : SerialPins) (free : Bool) : Word :=
  setBit (setBit (setBit p.txPins 3 (clkxPin p pins))
    7 (serialPin p.txPins 4 (if dxUnstated p pins then some free else dxOut p) pins.dx))
    11 (serialPin p.txPins 8 (fsxOut p) pins.fsx)

/-- The FSR/DR/CLKR register with its DATIN bits (R724). -/
def rxPinsRead (p : SerialPort) (pins : SerialPins) : Word :=
  setBit (setBit (setBit p.rxPins 3 (clkrPin p pins)) 7 (serialPin p.rxPins 4 none pins.dr))
    11 (serialPin p.rxPins 8 none pins.fsr)

/-- A read of a port register by its offset, none where it is reserved (R720). Reading the global control clears
RSRFULL, but for one that the receiver sets in the same H1 cycle (R722, R739); reading DRR clears RRDY and, in handshake
mode, owes an acknowledge (R738, R742). DESIGN CHOICE, unsafe (log 13): a read in the three cycles between the load of DRR and
the rise of RRDY does not stop that rise, nor its RINT, and DRR counts as full until it has been read again. DESIGN CHOICE,
unsafe (log 9): the acknowledge is owed also for a read with HS = 1 while XRESET = 0, and waits for XRESET = 1. `free` is a
free bit (R734). -/
def serialRead (p : SerialPort) (pins : SerialPins) (free : Bool) (off : Nat) : Option (Word × SerialPort) :=
  if off = 0 then some (p.global, if p.overran then p else { p with global := setBit p.global 4 false })
  else if off = 2 then some (txPinsRead p pins free, p)
  else if off = 3 then some (rxPinsRead p pins, p)
  else if off = 4 then some (p.timerCtl, p)
  else if off = 5 then some (p.timerCnt, p)
  else if off = 6 then some (p.timerPer, p)
  else if off = 8 then some (p.dxr, p)
  else if off = 12 then
    some (p.drr, { p with
      global := setBit p.global 0 false
      acksOwed := if p.global[5] then p.acksOwed + 1 else p.acksOwed })
  else none

/-- The bits of the global control that a write changes: all but RRDY, XRDY, XSREMPY, RSRFULL and 31-28 (R722, D26). -/
def serialGlobalMask : Word := 0x0FFFFFE4#32

/-- The transmitter's mode bits: FSXOUT, HS, XCLKSRCE, XVAREN, CLKXP, DXP, FSXP, XLEN. XFSM may be toggled (R722, R744). -/
def txModeMask : Word := 0x000D5164#32

/-- The receiver's mode bits: HS, RCLKSRCE, RVAREN, CLKRP, DRP, FSRP, RLEN. RFSM may be toggled (R722, R744). -/
def rxModeMask : Word := 0x0032A2A0#32

/-- What a change of XRESET from 1 to 0 does: nothing is shifted and XSREMPY is 0; XRDY is a free value (R744, N62-3). A word in
XSR that waits for an external frame sync stays there, for `txStart` to send (R734). DESIGN CHOICE, unsafe (log 9): a word of
which bits are out is dropped, and so are owed acknowledges and one on its way. -/
def txReset (p : SerialPort) (xrdy : Bool) : SerialPort :=
  { p with
    global := setBit (setBit p.global 3 false) 1 xrdy
    xrdyIn := 0, shiftLeft := 0, tail := none, sync := false, fsmPrev := false, awaitAck := false
    acksOwed := 0, ackLeft := 0 }

/-- What a change of XRESET from 0 to 1 does: a word that was waiting for an external frame sync when XSR was reset begins
shifting, and waits for no frame sync (R734). DESIGN CHOICE, unsafe (log 9): it begins here and not with XRESET = 0, where R744
says that nothing is shifted and XSREMPY is 0; it goes out as a first word of a block, in the mode that stands now. -/
def txStart (p : SerialPort) : SerialPort :=
  if p.awaitFsx then
    { p with
      global := setBit p.global 3 true, awaitFsx := false, shiftLeft := shiftLength p (frameBits p), sync := hasSync p
      fsmPrev := p.global[10] }
  else p

/-- What a change of RRESET from 1 to 0 does: no overrun, nothing held; RRDY is a free value (R744, N62-3). -/
def rxReset (p : SerialPort) (rrdy : Bool) : SerialPort :=
  { p with
    global := setBit (setBit p.global 4 false) 0 rrdy
    rrdyIn := 0, rsrHeld := false }

/-- A write of the global control: none where it changes mode bits of a side that runs before and after (R744, U25).
The second part says a transmit interrupt is raised, by resetting the transmitter (R722); DESIGN CHOICE, unsafe (log 13):
the XINT bit that gates it is the one being written. The last arguments are the free XRDY, RRDY and what the receive
shifter holds when the receiver is taken out of reset (U24). -/
def serialGlobalWrite (p : SerialPort) (v : Word) (xrdy rrdy : Bool) (rsr : Word) : Option (SerialPort × Bool) :=
  if p.global[26] && v[26] && (p.global &&& txModeMask != v &&& txModeMask) then none
  else if p.global[27] && v[27] && (p.global &&& rxModeMask != v &&& rxModeMask) then none
  else
    let p1 := { p with global := mergeBits serialGlobalMask p.global v }
    let p2 := if p.global[26] && !v[26] then txReset p1 xrdy else p1
    let p3 := if p.global[27] && !v[27] then rxReset p2 rrdy else p2
    let p4 := if !p.global[27] && v[27] then { p3 with rsr := rsr } else p3
    let p5 := if !p.global[26] && v[26] then txStart p4 else p4
    some (p5, p.global[26] && !v[26] && v[23])

/-- The bits of a port-control register that a write changes: all of 11-0 but the DATIN bits (R723, R724). -/
def serialPinsMask : Word := 0x777#32

/-- The bits of the R/X timer control that a write changes: GO, HLD, C/P, CLKSRC of both timers (R725). -/
def serialTimerMask : Word := 0x3CF#32

/-- XGO and RGO (R725). -/
def serialGoBits : Word := 0x41#32

/-- A write of a port register other than the global control, by its offset, none where it is reserved (R720). Writing 0
to XGO or RGO has no effect (R725). A write of DXR makes XRDY 0 (R730); one of DRR does not change RRDY, and is lost where
RSR goes to DRR in the same H1 cycle (R736). The write of DXR drops a rise of XRDY that is due, and with it the transmit interrupt
of that rise (R722, log 13). DESIGN CHOICE, unsafe (log 9): a write of a port-control or a timer register
while its side runs takes effect at once; these bits are not counted among the mode bits of R744 and U25. -/
def serialWrite (p : SerialPort) (off : Nat) (v : Word) : Option SerialPort :=
  if off = 2 then some { p with txPins := mergeBits serialPinsMask p.txPins v }
  else if off = 3 then some { p with rxPins := mergeBits serialPinsMask p.rxPins v }
  else if off = 4 then some { p with timerCtl := mergeBits serialTimerMask p.timerCtl (v ||| (p.timerCtl &&& serialGoBits)) }
  else if off = 5 then some { p with timerCnt := v }
  else if off = 6 then some { p with timerPer := v }
  else if off = 8 then some { p with dxr := v, global := setBit p.global 1 false, xrdyIn := 0 }
  else if off = 12 then some (if p.loaded then p else { p with drr := v })
  else none

/-! ## One H1 cycle -/

/-- The transmit timer: 16 bits of the timer registers, clocked internally or from CLKX (R725, R726). The second part
says XTSTAT rose. DESIGN CHOICE, unsafe (log 28): CLKXP, which inverts CLKX as an output, does not invert the clock that
enters the timer from the pin; nor does CLKRP in the receive timer (R727). -/
def txTimerCycle (p : SerialPort) (pins : SerialPins) : SerialPort × Bool :=
  let input := clkxPin p pins
  if p.timerCtl[1] then
    let rising := if p.timerCtl[3] then p.halfX else input && !p.lastX
    let c := countCycle p.timerCtl[2] p.timerCtl[0] p.timerCtl[5] rising (p.timerCnt.extractLsb' 0 16)
      (p.timerPer.extractLsb' 0 16)
    ({ p with
        timerCtl := setBit (setBit p.timerCtl 0 c.go) 5 c.tstat
        timerCnt := p.timerCnt.extractLsb' 16 16 ++ c.counter
        halfX := if p.timerCtl[3] then !p.halfX else p.halfX
        lastX := input }, c.rose)
  else ({ p with lastX := input }, false)

/-- The receive timer: the upper 16 bits, clocked internally or from CLKR (R725, R726). -/
def rxTimerCycle (p : SerialPort) (pins : SerialPins) : SerialPort × Bool :=
  let input := clkrPin p pins
  if p.timerCtl[7] then
    let rising := if p.timerCtl[9] then p.halfR else input && !p.lastR
    let c := countCycle p.timerCtl[8] p.timerCtl[6] p.timerCtl[11] rising (p.timerCnt.extractLsb' 16 16)
      (p.timerPer.extractLsb' 16 16)
    ({ p with
        timerCtl := setBit (setBit p.timerCtl 6 c.go) 11 c.tstat
        timerCnt := c.counter ++ p.timerCnt.extractLsb' 0 16
        halfR := if p.timerCtl[9] then !p.halfR else p.halfR
        lastR := input }, c.rose)
  else ({ p with lastR := input }, false)

/-- XRDY becomes 1 three H1 cycles after DXR went to the shifter; its rise is the transmit interrupt (R722, R755; log 13). -/
def xrdyCycle (p : SerialPort) : SerialPort × Bool :=
  if p.xrdyIn = 0 then (p, false)
  else if p.xrdyIn = 1 then ({ p with xrdyIn := 0, global := setBit p.global 1 true }, p.global[23])
  else ({ p with xrdyIn := p.xrdyIn - 1 }, false)

/-- The transmit shift clock: the output of the transmit timer where XCLKSRCE = 1, else the CLKX pin with its polarity,
where it is a serial-port pin (R722, R723, R727). DESIGN CHOICE, unsafe (log 9): a write that makes CLKX a serial-port pin while
its clock is active counts as a rising edge of the shift clock. -/
def shiftClock (p : SerialPort) (pins : SerialPins) : Bool :=
  if p.global[6] then p.timerCtl[5] else p.txPins[0] && clkxPin p pins != p.global[12]

/-- Something goes out, for the other end to see: only where DX is a serial-port pin (R723, R755). -/
def send (f : TxFrame) (p : SerialPort) : SerialPort := if p.txPins[4] then { p with sent := p.sent ++ [f] } else p

/-- The last bit goes out: the shifter is empty, and in handshake mode an acknowledge is awaited (R730, R742). DESIGN CHOICE,
unsafe (log 9): one that has arrived before this edge does not count for the word. -/
def shiftDone (p : SerialPort) : SerialPort :=
  send (.data (txBits p) (p.xsr &&& (BitVec.allOnes 32 >>> (32 - txBits p))))
    { p with
      global := setBit p.global 3 false, shiftLeft := 0, awaitAck := p.global[5]
      tail := some { bit := p.xsr[0], sync := p.sync } }

/-- A word that waits for an external FSX: at a rising edge with FSX active its bits follow from the next edge on, at a
variable data rate from this one (R734, R746, R747). DESIGN CHOICE, unsafe (log 9): FSX is sampled with the rising edges of
the shift clock, where the spec gives no edge for it. -/
def syncEdge (p : SerialPort) (pins : SerialPins) : SerialPort :=
  if !fsxActive p pins then p
  else if p.global[8] then { p with awaitFsx := false, shiftLeft := p.shiftLeft - 1 }
  else { p with awaitFsx := false }

/-- At a fixed data rate FSX may be active at any time in the last bit, and the word that waits follows without a gap
(R746). DESIGN CHOICE, unsafe (log 9): it is sampled in every H1 cycle of that bit. -/
def syncInTail (p : SerialPort) (pins : SerialPins) : SerialPort :=
  if p.tail.isSome && p.awaitFsx && !p.global[8] && fsxActive p pins then { p with awaitFsx := false } else p

/-- A rising edge of the shift clock for an acknowledge on its way: its 0 bit goes out, or comes one edge nearer (R742). -/
def ackEdge (p : SerialPort) : SerialPort :=
  if p.ackLeft = 1 then send .ack { p with ackLeft := 0, tail := some { bit := false, sync := true } }
  else { p with ackLeft := p.ackLeft - 1 }

/-- A rising edge of the shift clock at the shifter (R727, R730, R732, R742). -/
def shiftEdge (p : SerialPort) (pins : SerialPins) : SerialPort :=
  if p.global[26] && p.ackLeft != 0 then ackEdge p
  else if p.global[26] && p.global[3] then
    if p.awaitFsx then syncEdge p pins
    else if p.shiftLeft ≤ 1 then shiftDone p
    else { p with shiftLeft := p.shiftLeft - 1 }
  else p

/-- One H1 cycle of the shifter: `edge` says that the shift clock rose, with which the last bit of a word ends (R727,
R731). -/
def shiftCycle (p : SerialPort) (pins : SerialPins) (edge : Bool) : SerialPort :=
  if edge then shiftEdge { p with tail := none } pins else syncInTail p pins

/-- DXR is full: XRDY is 0 and not about to become 1 (R730). -/
def dxrFull (p : SerialPort) : Bool := !p.global[1] && p.xrdyIn == 0

/-- DXR goes to XSR, and XRDY follows with the transmit interrupt (R722, R730, R734); XFSM is looked at here (log 9). -/
def loadShifter (p : SerialPort) (pins : SerialPins) : SerialPort :=
  syncInTail { p with
      xsr := p.dxr, global := setBit p.global 3 true, xrdyIn := 3, shiftLeft := shiftLength p (frameBits p), sync := hasSync p
      fsmPrev := p.global[10], awaitFsx := !ownSync p && hasSync p, txDelays := p.txDelays.drop 1 } pins

/-- With the transmitter out of reset and the shifter empty: an owed acknowledge is due, a frame of one bit, else DXR goes to
XSR at a moment the environment chooses (R730, R742, R755). DESIGN CHOICE, unsafe (log 9): an owed acknowledge goes before a
waiting word, has a frame sync as a word has, leaves XSREMPY 0, and waits where HS has become 0 since the read of DRR. DESIGN
CHOICE, unsafe (log 9): DXR loaded after the bit by which R741 asks for it (N-3 at a fixed rate, N-4 at a variable one), but
before the end of the last bit, still follows without a gap where txDelays lets it, as R731 says of a load before the end of
the word; R741 does not say what such a load does. -/
def loadCycle (p : SerialPort) (pins : SerialPins) : SerialPort :=
  if p.global[26] && !p.global[3] && p.ackLeft == 0 then
    if p.acksOwed ≠ 0 && p.global[5] then { p with acksOwed := p.acksOwed - 1, ackLeft := shiftLength p 1 }
    else if dxrFull p && !(p.global[5] && p.awaitAck) then
      match p.txDelays with
      | (n + 1) :: ns => { p with txDelays := n :: ns }
      | _ => loadShifter p pins
    else p
  else p

/-- One H1 cycle of the transmitter. The second part is the transmit interrupt (R722, R743). -/
def txCycle (p : SerialPort) (pins : SerialPins) : SerialPort × Bool :=
  let clock := shiftClock p pins
  let (q, irq) := xrdyCycle p
  (loadCycle (shiftCycle { q with lastShift := clock } pins (clock && !p.lastShift)) pins, irq)

/-- RRDY becomes 1 three H1 cycles after DRR was loaded; its rise is the receive interrupt (R722, R738; log 13). -/
def rrdyCycle (p : SerialPort) : SerialPort × Bool :=
  if p.rrdyIn = 0 then (p, false)
  else if p.rrdyIn = 1 then ({ p with rrdyIn := 0, global := setBit p.global 0 true }, p.global[25])
  else ({ p with rrdyIn := p.rrdyIn - 1 }, false)

/-- DRR holds a word that has not been read (R736). -/
def drrFull (p : SerialPort) : Bool := p.global[0] || p.rrdyIn != 0

/-- A word that waited in RSR moves to DRR once DRR has been read (R736). -/
def unholdCycle (p : SerialPort) : SerialPort :=
  if p.rsrHeld && !drrFull p then { p with drr := p.rsr, rsrHeld := false, rrdyIn := 3, loaded := true } else p

/-- The receive shifter after `l` more bits: earlier bits move up (R737). -/
def shiftIn (l : Nat) (rsr w : Word) : Word :=
  if l = 32 then w else (rsr <<< l) ||| (w &&& (BitVec.allOnes 32 >>> (32 - l)))

/-- The receiver sets RSRFULL (R739). -/
def overrun (p : SerialPort) : SerialPort := { p with global := setBit p.global 4 true, overran := true }

/-- A data word is complete in the receiver: into DRR, or held in RSR, or lost with RSRFULL set (R736, R739, R755). In
handshake mode continuous mode is disabled (R742). -/
def receiveWord (p : SerialPort) (w : Word) : SerialPort :=
  if p.rsrHeld then overrun p
  else
    let q := { p with rsr := shiftIn (rxBits p) p.rsr w }
    if drrFull p then
      let held := { q with rsrHeld := true }
      if p.global[11] && !p.global[5] then overrun held else held
    else { q with drr := q.rsr, rrdyIn := 3, loaded := true }

/-- The receiver runs: out of reset, with its three pins serial-port pins (R744, R755). -/
def rxRunning (p : SerialPort) : Bool := p.global[27] && p.rxPins[0] && p.rxPins[4] && p.rxPins[8]

/-- The next frame of the environment comes nearer, or arrives (R755, D27). An acknowledge counts in handshake mode. DESIGN
CHOICE, unsafe (log 9): one that arrives while no word awaits it is lost, where R742 does not say what it does; and one that
arrives while the receiver is frozen, RSR and DRR both full, counts, where R736 says that new data on DR is ignored then and
speaks of no acknowledge. -/
def frameCycle (p : SerialPort) : SerialPort :=
  match p.rxQueue with
  | [] => p
  | (0, .data w) :: q => receiveWord { p with rxQueue := q } w
  | (0, .ack) :: q => { p with rxQueue := q, awaitAck := p.awaitAck && !p.global[5] }
  | (n + 1, f) :: q => { p with rxQueue := (n, f) :: q }

/-- One H1 cycle of the receiver. -/
def rxCycle (p : SerialPort) : SerialPort × Bool :=
  let (p1, irq) := rrdyCycle p
  if rxRunning p1 then (frameCycle (unholdCycle p1), irq) else (p1, irq)

/-- One H1 cycle of a port: its timers, its transmitter, its receiver. The last two parts are the transmit and the
receive interrupt, each the OR of its enabled sources (R743). -/
def serialCycle (p : SerialPort) (pins : SerialPins) : SerialPort × Bool × Bool :=
  let (p1, xt) := txTimerCycle p pins
  let (p2, rt) := rxTimerCycle p1 pins
  let (p3, x) := txCycle p2 pins
  let (p4, r) := rxCycle p3
  (p4, (xt && p.global[22]) || x, (rt && p.global[24]) || r)

/-- An H1 cycle is over: what the receiver did in it is past. -/
def portEnded (p : SerialPort) : SerialPort := { p with loaded := false, overran := false }

end Sys2Proof.Machine
end

