-- ==== Sys2Proof/Machine/Bus.lean ====
section
/-! DEFINITION. Memory accesses with their routing and side effects (R80 to R98). -/
namespace Sys2Proof.Machine

/-! ## Memory-mapped registers (R88) -/

/-- A reserved address was accessed (R83, U2). -/
def reserved {α : Type} (a : Addr) : Except Stop α := .error (.refuse (.reservedAccess a))

/-- The hold state: the bus is held and its last access is complete (R672). -/
def holdState (s : State) : Bool := busHeld s && portIdle s .primary && s.stalled != some .primary

/-- The primary-bus control register as read: bit 0 is the hold state (R662, R672). -/
def primaryRead (s : State) : Word := setBit s.primaryCtl 0 (holdState s)

/-- The DMA address or control register at an offset, none where it is reserved (R770). -/
def dmaRead (d : Dma) (off : Nat) : Option Word :=
  if off = 0 then some d.control
  else if off = 4 then some (d.src.setWidth 32)
  else if off = 6 then some (d.dst.setWidth 32)
  else if off = 8 then some (d.count.setWidth 32)
  else none

/-- The bits of the DMA control that a write changes: all of 11-0 but STAT (R770). -/
def dmaMask : Word := 0xFF3#32

/-- The bits of the DMA control that may change in the middle of a transfer: START and TC (R778, U26). -/
def dmaFree : Word := 0x403#32

/-- A transfer is in progress: between its read and its write, or in an access that START = 00 has not cut off from it
(R778, U26). -/
def dmaInTransfer (d : Dma) : Bool := d.mid || (d.access.map (·.keep)).getD false

/-- START = 00 is written: what is pending is cancelled and the next transaction is a read; an access that has begun is
completed on its own (R775). -/
def dmaCancel (d : Dma) : Dma :=
  { d with mid := false, acked := false, access := d.access.map fun x => { x with keep := false } }

/-- An address register is written while an access of the same kind is completed on its own: the written value stays
(R775, log 29). -/
def dmaPin (write : Bool) (d : Dma) : Dma :=
  { d with access := d.access.map fun x => { x with move := x.move && x.write != write } }

/-- A write of the DMA control: with START = 00 it resets the controller, whatever its other bits (R775, R794); with another
START it may change START and TC in the middle of a transfer and nothing else (R778, U26). -/
def dmaControlWrite (d : Dma) (v : Word) : Except Stop Dma :=
  if v.extractLsb' 0 2 = 0#2 then .ok (dmaCancel { d with control := mergeBits dmaMask d.control v })
  else if dmaInTransfer d ∧ (d.control ^^^ v) &&& dmaMask &&& ~~~dmaFree ≠ 0#32 then .error (.refuse .dmaChange)
  else .ok { d with control := mergeBits dmaMask d.control v }

/-- A write of a DMA register: a refusal where it changes a transfer in progress (R778, U26), none where the address is
reserved. Bits 31-24 of the 24-bit registers are discarded (D1). -/
def dmaWrite (d : Dma) (off : Nat) (v : Word) : Option (Except Stop Dma) :=
  if off = 0 then some (dmaControlWrite d v)
  else if off = 4 then
    if dmaInTransfer d then some (.error (.refuse .dmaChange))
    else some (.ok { dmaPin false d with src := v.extractLsb' 0 24 })
  else if off = 6 then
    if dmaInTransfer d then some (.error (.refuse .dmaChange))
    else some (.ok { dmaPin true d with dst := v.extractLsb' 0 24 })
  else if off = 8 then some (.ok { d with count := v.extractLsb' 0 24 })
  else none

/-- The result of a register access, a refusal where the address holds none (R88, U2). -/
def orReserved {α : Type} (a : Addr) : Option α → Except Stop α
  | some x => .ok x
  | none => reserved a

/-- A read of the peripheral bus, with its side effects (R88, R92). -/
def periphRead (a : Addr) (s : State) : Except Stop (Word × State) :=
  let off := a.toNat % 16
  if a.toNat < 0x808010 then (orReserved a (dmaRead s.dma off)).map fun v => (v, s)
  else if a.toNat < 0x808020 then reserved a
  else if a.toNat < 0x808030 then (orReserved a (timerRead s.timer0 s.pins.tclk0 off)).map fun v => (v, s)
  else if a.toNat < 0x808040 then (orReserved a (timerRead s.timer1 s.pins.tclk1 off)).map fun v => (v, s)
  else if a.toNat < 0x808050 then
    (orReserved a (serialRead s.port0 s.pins.port0 (freeBit s 44) off)).map fun x => (x.1, { s with port0 := x.2 })
  else if a.toNat < 0x808060 then
    if s.device = .c30 then
      (orReserved a (serialRead s.port1 s.pins.port1 (freeBit s 45) off)).map fun x => (x.1, { s with port1 := x.2 })
    else reserved a
  else if a.toNat = 0x808060 ∧ s.device = .c30 then .ok (s.expansionCtl, s)
  else if a.toNat = 0x808064 then .ok (primaryRead s, s)
  else reserved a

/-- A write of the primary-bus control: NOHOLD, HIZ, SWW, WTCNT and BNKCMP (R662). -/
def primaryMask : Word := 0x1FFE#32

/-- A write of the expansion-bus control: SWW and WTCNT (R663). -/
def expansionMask : Word := 0xF8#32

/-- The flags that a source raising them leaves set. In the cycles of an instruction that writes IF the write may win, and
the set is lost: each flag is free (R618, U21). -/
def flagsKept (flags : BitVec 11) (s : State) : BitVec 11 := if s.ifWritten then flags &&& freeFlags s else flags

/-- Raise interrupt flags from a source: set in IF, and noted for a write of IF in the same step (R612, R613, R618). -/
def raiseFlags (flags : BitVec 11) (s : State) : State :=
  { s with ifr := s.ifr ||| (flagsKept flags s).setWidth 32, ifSet := s.ifSet ||| flagsKept flags s }

/-- A write of serial port 0's registers (R720). -/
def writePort0 (a : Addr) (off : Nat) (v : Word) (s : State) : Except Stop State :=
  if off = 0 then
    match serialGlobalWrite s.port0 v (freeBit s 27) (freeBit s 28) (freeWord s 29) with
    | some (p, irq) => .ok (raiseFlags (if irq then 0x10#11 else 0#11) { s with port0 := p })
    | none => .error (.refuse .serialModeChange)
  else (orReserved a (serialWrite s.port0 off v)).map fun p => { s with port0 := p }

/-- A write of serial port 1's registers (R720). -/
def writePort1 (a : Addr) (off : Nat) (v : Word) (s : State) : Except Stop State :=
  if off = 0 then
    match serialGlobalWrite s.port1 v (freeBit s 30) (freeBit s 31) (freeWord s 32) with
    | some (p, irq) => .ok (raiseFlags (if irq then 0x40#11 else 0#11) { s with port1 := p })
    | none => .error (.refuse .serialModeChange)
  else (orReserved a (serialWrite s.port1 off v)).map fun p => { s with port1 := p }

/-- A write of the peripheral bus (R88). -/
def periphWrite (a : Addr) (v : Word) (s : State) : Except Stop State :=
  let off := a.toNat % 16
  if a.toNat < 0x808010 then do
    let d ← orReserved a (dmaWrite s.dma off v)
    let d ← d
    pure { s with dma := d }
  else if a.toNat < 0x808020 then reserved a
  else if a.toNat < 0x808030 then (orReserved a (timerWrite s.timer0 off v)).map fun t => { s with timer0 := t }
  else if a.toNat < 0x808040 then (orReserved a (timerWrite s.timer1 off v)).map fun t => { s with timer1 := t }
  else if a.toNat < 0x808050 then writePort0 a off v s
  else if a.toNat < 0x808060 then (if s.device = .c30 then writePort1 a off v s else reserved a)
  else if a.toNat = 0x808060 ∧ s.device = .c30 then
    .ok { s with expansionCtl := mergeBits expansionMask s.expansionCtl v }
  else if a.toNat = 0x808064 then .ok { s with primaryCtl := mergeBits primaryMask s.primaryCtl v }
  else reserved a

/-! ## Loads and stores (R80, R90) -/

/-- The CPU waits for the common port of the expansion and the peripheral bus while an expansion access is in progress;
the DMA controller does not ask then (R784). -/
def awaitPeripheral (k : Access) (s : State) : Except Stop State :=
  if k = .dma then .ok s else (portStart s .expansion).map fun t => { s with elapsed := t }

/-- Read the word at an address for a purpose (R82). An access that cannot be made waits (R93, R672). -/
def loadFor (k : Access) (a : Addr) (s : State) : Except Stop (Word × State) :=
  match region s a with
  | .rom => if romReadable s k then .ok (romWord s a, noteOnChip k a s) else reserved a
  | .primary => extLoad k .primary a s
  | .mstrb => extLoad k .expansion a s
  | .iostrb => extLoad k .expansion a s
  | .peripheral =>
    if k = .fetch ∨ k = .extra then .error (.refuse .fetchFromPeripheral)
    else do
      let s1 ← awaitPeripheral k s
      periphRead a (noteOnChip k a s1)
  | .ram => .ok (memWord s.mem a, noteOnChip k a s)
  | .reserved => reserved a

/-- Write a word to on-chip RAM. A store of the CPU is remembered with the word it replaces, as a fetch may have begun
before it (R90, D6); one of the DMA controller is seen by every later fetch (R98, log 24). -/
def ramStore (dma : Bool) (a : Addr) (v : Word) (s : State) : State :=
  { s with
    mem := memWriteWord s.mem a v
    recentStores := if dma then s.recentStores else { addr := a, old := memWord s.mem a, age := 0 } :: s.recentStores }

/-- Write the word at an address, for the CPU or for the DMA controller, over a port `late` cycles after the port takes it (R82,
R84, R850). An access that cannot be made waits (R93, R672). -/
def storeAfter (late : Nat) (dma : Bool) (a : Addr) (v : Word) (s : State) : Except Stop State :=
  let k : Access := if dma then .dma else .data
  match region s a with
  | .rom => .error (.refuse (.romWrite a))
  | .primary => extStore late dma .primary a v s
  | .mstrb => extStore late dma .expansion a v s
  | .iostrb => extStore late dma .expansion a v s
  | .peripheral => do
    let s1 ← awaitPeripheral k s
    periphWrite a v (noteOnChip k a s1)
  | .ram => .ok (ramStore dma a v (noteOnChip k a s))
  | .reserved => reserved a

/-- Write the word at an address, over a port in the cycle in which the port takes it (R82, R850). -/
def storeFor (dma : Bool) (a : Addr) (v : Word) (s : State) : Except Stop State := storeAfter 0 dma a v s

end Sys2Proof.Machine
end

