-- ==== Sys2Proof/Machine/Dma.lean ====
section
/-! DEFINITION. The DMA controller in one H1 cycle: it begins, continues or ends a part of a transfer, a read or a write
(R770 to R796). -/
namespace Sys2Proof.Machine

/-- The START field (R775). -/
def dmaStart (d : Dma) : BitVec 2 := d.control.extractLsb' 0 2

/-- The SYNC field (R790): bit 0 source, bit 1 destination synchronisation. -/
def dmaSync (d : Dma) : BitVec 2 := d.control.extractLsb' 8 2

/-- The STAT field written (R776). -/
def setStat (v : BitVec 2) (s : State) : State :=
  { s with
    dma := { s.dma with control := setBit (setBit s.dma.control 2 (v.getLsbD 0)) 3 (v.getLsbD 1) } }

/-- An address after an access, by its increment and decrement bits (R772). -/
def dmaNext (inc dec : Bool) (a : Addr) : Addr :=
  if inc && !dec then a + 1 else if dec && !inc then a - 1 else a

/-- The addresses a transfer may not use: DMA and bus-control registers (R782, U26). -/
def dmaForbidden (a : Addr) : Bool :=
  (0x808000 ≤ a.toNat && a.toNat < 0x808010) || a.toNat == 0x808060 || a.toNat == 0x808064

/-- The interrupts the DMA responds to: flags enabled in bits 26-16 of IE (R774, R790). -/
def dmaPending (s : State) : BitVec 11 := s.ifr.extractLsb' 0 11 &&& s.ie.extractLsb' 16 11

/-- The lowest set bit of a flag set, 11 where there is none (R607). -/
def lowestFlag (flags : BitVec 11) : Nat := (List.range 11).find? (fun i => flags.getLsbD i) |>.getD 11

/-- The CPU repeats a single instruction, which stops instruction fetches (R621, R643). -/
def inRepeatSingle (s : State) : Bool := s.st.getLsbD 8 && s.repS

/-- The flag of an interrupt has been acknowledged: a pin that is still low sets it again only from the third low sample on
(R612, R615; log 14). -/
def noteAck (i : Nat) (s : State) : State :=
  if i = 0 then { s with sync0 := { s.sync0 with acked := true } }
  else if i = 1 then { s with sync1 := { s.sync1 with acked := true } }
  else if i = 2 then { s with sync2 := { s.sync2 with acked := true } }
  else if i = 3 then { s with sync3 := { s.sync3 with acked := true } }
  else s

/-- The DMA controller acknowledges interrupt `i`: its flag is cleared, and noted for a CPU that responds at the same
boundary (R616, R790). -/
def dmaTake (i : Nat) (s : State) : State :=
  noteAck i { s with
    ifr := setBit s.ifr i false, shared := s.shared ||| (1#11 <<< i), dma := { s.dma with acked := true } }

/-- Instruction fetches go on: no single instruction is repeated and none waits for a bus or for XF1 (R621, R790). DESIGN
CHOICE, unsafe (log 29): they do between the instructions after a delayed branch too, so the DMA controller acknowledges there,
as R790 names RPTS alone; one sentence of R621, with CPU and DMA interrupts before it, has interrupts disabled there. They do
between the recognition of an interrupt and its entry too (R626), where it may take the recognised flag (log 10). -/
def fetching (s : State) : Bool := !inRepeatSingle s && s.stalled.isNone && s.lockWait == 0

/-- Wait for a synchronising interrupt where the part needs one: the state once it has been acknowledged, none while
there is none. It is acknowledged on an instruction fetch boundary only, the `last` H1 cycle of a step (R790). -/
def dmaAcknowledge (last needed : Bool) (s : State) : Option State :=
  if !needed || s.dma.acked then some s
  else if !last || !fetching s || dmaPending s == 0#11 then none
  else some (dmaTake (lowestFlag (dmaPending s)) s)

/-! ## Conflicts with the CPU -/

/-- How many words of a kind the CPU accesses in the H1 cycle that the controller has come to: on-chip ones of that cycle, and
those of `next`, which it is about to access. -/
def cpuUses (next : List Addr) (s : State) (kind : Addr → Bool) : Nat :=
  ((next ++ (s.onChip.filter fun x => x.start == s.dma.ahead).map (·.addr)).filter kind).length

/-- The CPU accesses the common port of the expansion and the peripheral bus in this H1 cycle, or waits for it (R784). -/
def cpuOnExpansion (next : List Addr) (s : State) : Bool :=
  s.stalled == some .expansion ||
    cpuUses next s (fun b => region s b = .peripheral || portOf (region s b) = some .expansion) != 0

/-- The CPU makes an access on the peripheral bus in this H1 cycle or a later one of the step, or of a store still to come. It
takes the port of the expansion bus for that cycle, so an access that may take longer than this cycle does not begin before it
(R784, R863). -/
def peripheralAhead (s : State) : Bool := s.onChip.any fun x => s.dma.ahead ≤ x.start && region s x.addr = .peripheral

/-- The CPU is about to access the primary bus, or waits for it (R784). -/
def cpuOnPrimary (next : List Addr) (s : State) : Bool :=
  s.stalled == some .held || s.stalled == some .heldStore || s.stalled == some .primary ||
    next.any fun b => region s b = .primary

/-- The DMA controller may begin an access at an address: the CPU leaves it the block, bus or port, which it takes first,
also for an access it is about to make, and for an instruction that waits for the port (R784, R863). -/
def dmaMayBegin (next : List Addr) (a : Addr) (s : State) : Bool :=
  match region s a with
  | .ram => cpuUses next s (fun b => region s b = .ram && b.getLsbD 10 == a.getLsbD 10) < 2
  | .rom => cpuUses next s (fun b => region s b = .rom) < 2
  | .peripheral => portIdle s .expansion && !cpuOnExpansion next s
  | .primary => portIdle s .primary && !busHeld s && !cpuOnPrimary next s
  | .mstrb => portIdle s .expansion && !cpuOnExpansion next s && !peripheralAhead s
  | .iostrb => portIdle s .expansion && !cpuOnExpansion next s && !peripheralAhead s
  | .reserved => true

/-! ## Accesses -/

/-- The H1 cycles an access takes beyond this one, none where it never ends: on-chip none; off-chip those of the port, and
for a read one more, in which the holding register is loaded (R782, R796). `t` is the machine with the access begun. -/
def dmaLeft (write : Bool) (a : Addr) (s t : State) : Option Nat :=
  match portOf (region s a) with
  | none => some 0
  | some p => (portFree (portCycles t p)).map fun n => n - s.elapsed - (if write then 1 else 0)

/-- The access in progress is over: its address register moves, and the transfer is in its middle or done (R772, R778). -/
def dmaFinish (s : State) : State :=
  match s.dma.access with
  | none => s
  | some x =>
    if x.write then
      { s with
        dma := { s.dma with
          dst := if x.move then dmaNext s.dma.control[6] s.dma.control[7] s.dma.dst else s.dma.dst
          mid := false, access := none } }
    else
      { s with
        dma := { s.dma with
          src := if x.move then dmaNext s.dma.control[4] s.dma.control[5] s.dma.src else s.dma.src
          mid := x.keep, access := none } }

/-- One more H1 cycle of the access in progress. -/
def dmaContinue (x : DmaAccess) (s : State) : State :=
  match x.left with
  | none => s
  | some n =>
    if n ≤ 1 then dmaFinish s else { s with dma := { s.dma with access := some { x with left := some (n - 1) } } }

/-- An access has begun, and is over at once where it takes this cycle alone. -/
def dmaBegun (write : Bool) (left : Option Nat) (s : State) : State :=
  let s1 := { s with
    dma := { s.dma with acked := false, access := some { write := write, left := left, keep := true, move := true } } }
  if left = some 0 then dmaFinish s1 else s1

/-- The read of a transfer begins (R778, R782). -/
def dmaBeginRead (s : State) : Except Stop State :=
  if dmaForbidden s.dma.src then .error (.refuse .dmaSelfAccess)
  else do
    let (w, s1) ← loadFor .dma s.dma.src s
    pure (dmaBegun false (dmaLeft false s.dma.src s s1) { s1 with dma := { s1.dma with data := w } })

/-- The transfer counter counts down; at 0 it raises DINT where TCINT is 1 (R773). -/
def dmaCountDown (s : State) : State :=
  let s1 := { s with dma := { s.dma with count := s.dma.count - 1 } }
  if s.dma.count = 1#24 ∧ s.dma.control[11] = true then raiseFlags 0x400#11 s1 else s1

/-- The write of a transfer begins, and with it the counter is decremented (R773, R778, R782, C14). -/
def dmaBeginWrite (s : State) : Except Stop State :=
  if dmaForbidden s.dma.dst then .error (.refuse .dmaSelfAccess)
  else do
    let s1 ← storeFor true s.dma.dst s.dma.data s
    pure (dmaBegun true (dmaLeft true s.dma.dst s s1) (dmaCountDown s1))

/-- A part of a transfer is due: it waits for the CPU, then as long as the environment chooses, then begins (R784). -/
def dmaPart (next : List Addr) (write : Bool) (s : State) : Except Stop State :=
  if !dmaMayBegin next (if write then s.dma.dst else s.dma.src) s then .ok s
  else
    match s.env.dmaStalls with
    | (n + 1) :: ns => .ok { s with env := { s.env with dmaStalls := n :: ns } }
    | 0 :: ns =>
      let s1 := { s with env := { s.env with dmaStalls := ns } }
      if write then dmaBeginWrite s1 else dmaBeginRead s1
    | [] => if write then dmaBeginWrite s else dmaBeginRead s

/-! ## The state machine -/

/-- Between two transfers (R778). -/
def dmaBetween (next : List Addr) (last : Bool) (s : State) : Except Stop State :=
  if dmaStart s.dma ≠ 3#2 then .ok (setStat 0#2 s)
  else if s.dma.control[10] ∧ s.dma.count = 0#24 then .ok (setStat 0#2 s)
  else
    match dmaAcknowledge last (dmaSync s.dma)[0] (setStat 3#2 s) with
    | none => .ok (setStat 3#2 s)
    | some s1 => dmaPart next false s1

/-- In the middle of a transfer (R778). -/
def dmaMid (next : List Addr) (last : Bool) (s : State) : Except Stop State :=
  if dmaStart s.dma = 1#2 then .ok (setStat 1#2 s)
  else
    match dmaAcknowledge last (dmaSync s.dma)[1] (setStat 3#2 s) with
    | none => .ok (setStat 3#2 s)
    | some s1 => dmaPart next true s1

/-- What the DMA controller does in an H1 cycle (R775, R778): an access that has begun goes on whatever START says, and until
it is over the controller is busy (R776; log 29). `next` are the addresses the CPU is about to access. -/
def dmaStep (next : List Addr) (last : Bool) (s : State) : Except Stop State :=
  match s.dma.access with
  | some x => .ok (dmaContinue x (setStat 3#2 s))
  | none =>
    if dmaStart s.dma = 0#2 then .ok (setStat 0#2 { s with dma := { s.dma with mid := false, acked := false } })
    else if s.dma.mid then dmaMid next last s
    else dmaBetween next last s

/-- One H1 cycle of the DMA controller. The cycles it has run ahead, within an instruction, are over (log 12). -/
def dmaCycle (last : Bool) (s : State) : Except Stop State :=
  if s.dma.ahead ≠ 0 then .ok { s with dma := { s.dma with ahead := s.dma.ahead - 1 } } else dmaStep [] last s

/-- Some H1 cycles of the DMA controller within an instruction, each at its place in the step: from the cycle `now` on the CPU
makes the accesses `next` (R96, R784). -/
def dmaSteps (next : List Addr) (now : Nat) : Nat → State → Except Stop State
  | 0, s => .ok s
  | n + 1, s =>
    match dmaStep (if s.dma.ahead < now then [] else next) false { s with elapsed := s.dma.ahead } with
    | .ok t => dmaSteps next now n { t with dma := { t.dma with ahead := t.dma.ahead + 1 } }
    | .error e => .error e

/-- The cycles of the DMA controller that the environment lets fall before a data access of the CPU: they are run now and
left out of the cycles that pass after the instruction (R96; log 12). They are cycles of the instruction itself, up to that of
the access, and give way to the accesses `next` that the CPU is about to make in it (R784, R863). -/
def dmaWithin (next : List Addr) (s : State) : Except Stop State :=
  match s.env.dmaWithin with
  | [] => .ok s
  | m :: ns => do
    let n := min m (s.elapsed + 1 - s.dma.ahead)
    let t ← dmaSteps next s.elapsed n { s with env := { s.env with dmaWithin := ns } }
    pure { t with elapsed := s.elapsed }

end Sys2Proof.Machine
end

