-- ==== Sys2Proof/Machine/Ops.lean ====
section
/-! DEFINITION. The data accesses of instructions, the stack, and taking an exception. -/
namespace Sys2Proof.Machine

/-! ## Loads and stores (R80, R90) -/

/-- Read an operand (R90). Parts of a DMA transfer may fall before it (R96). -/
def load (a : Addr) (s : State) : Except Stop (Word × State) := do
  let s1 ← dmaWithin [a] s
  loadFor .data a s1

/-- The one more read of an external operand that may come first, directly after an instruction with a single external
store: it returns nothing to the CPU (R852, D5). -/
def dummyRead (a : Addr) (s : State) : State :=
  if offChip s a && s.outBefore == 1 then
    let s1 := { s with env := { s.env with dummyReads := s.env.dummyReads.drop 1 } }
    if s.env.dummyReads.headD false then
      match loadFor .extra a { s1 with outBefore := 0 } with
      | .ok (_, t) => t
      | .error _ => s1
    else s1
  else s

/-- Read an operand of a three-operand or a parallel instruction, which reads `others` in the same cycle (R850, R852,
R863). -/
def readOperand (others : List Addr) (a : Addr) (s : State) : Except Stop (Word × State) := do
  let s1 ← dmaWithin (a :: others) (dummyRead a s)
  loadFor .data a s1

/-- Read the first of two operands: the other is read in the same cycle, or, where they are `apart`, in the one after this read
is over (R850). -/
def readFirst (apart : Bool) (other a : Addr) (s : State) : Except Stop (Word × State) := do
  let (w, t) ← readOperand (if apart then [] else [other]) a s
  pure (w, if apart then { t with elapsed := t.elapsed + 1 } else t)

/-- Store a word in the same cycle as words at `others` (R850). Parts of a DMA transfer may fall before it (R96). -/
def storeWith (others : List Addr) (a : Addr) (v : Word) (s : State) : Except Stop State := do
  let s1 ← dmaWithin (a :: others) s
  storeFor false a v s1

/-- The second of two stores, after one at `first`: its port takes it in the cycle of the first, and where that is on-chip it is
on the bus one cycle later (R850 (d)). DESIGN CHOICE, unsafe (log 19): of two stores over different buses both begin at once, as
that rule, which has the second begin after the first, speaks of one port; and a port that is busy takes the second store once it
is free, with the bus cycle still one later after an on-chip store. -/
def storeSecond (first a : Addr) (v : Word) (s : State) : Except Stop State := do
  let s1 ← dmaWithin [a] s
  storeAfter (if !offChip s first && offChip s a then 1 else 0) false a v s1

/-- Cycles from the read of an operation with a parallel store to its store, which is made in the execute phase (R850 (c)). -/
def storeDelay : Nat := 2

/-- The store of an operation with a parallel store: made two cycles after the read, which takes none of the CPU's time but where
its port is busy then (R842, R850 (c)). DESIGN CHOICE, unsafe (log 19): the two cycles are those R850 (c) names, where R853 has a
store fall in the cycle of the next instruction's read; memory and registers hold the word from the instruction on (R831), and
what comes later in the program comes after the store on its port. -/
def storeLater (a : Addr) (v : Word) (s : State) : Except Stop State := do
  let s1 ← dmaWithin [a] s
  let t ← storeFor false a v { s1 with elapsed := s1.elapsed + storeDelay }
  pure { t with elapsed := t.elapsed - storeDelay }

/-- Store a word (R90). -/
def store (a : Addr) (v : Word) (s : State) : Except Stop State := storeWith [] a v s

/-! ## The stack (R27, R290) -/

/-- Push a word: SP is incremented, then the word goes to the new top (R290). -/
def push (v : Word) (s : State) : Except Stop State :=
  store ((s.sp + 1).extractLsb' 0 24) v { s with sp := s.sp + 1 }

/-- Pop a word: the top is read, then SP is decremented (R290). -/
def pop (s : State) : Except Stop (Word × State) := do
  let (v, s1) ← load (s.sp.extractLsb' 0 24) s
  pure (v, { s1 with sp := s1.sp - 1 })

/-! ## Exceptions (R600 to R632) -/

/-- The address a vector holds: bits 23-0 of the word at its location (R608). -/
def vector (v : Addr) (s : State) : Except Stop (Addr × State) := do
  let (w, s1) ← loadFor .vector v s
  pure (w.extractLsb' 0 24, s1)

/-- Take an exception: GIE is cleared, the return address is pushed, the PC is loaded from the vector (R620, R632).
Nothing else is saved. -/
def enterException (v ret : Addr) (s : State) : Except Stop State := do
  let s1 ← push (ret.setWidth 32) (setGie false s)
  let (target, s2) ← vector v s1
  pure { s2 with pc := target }

/-- Take trap `n`: vector 20h + n, return to the next instruction (R632). -/
def takeTrap (n : BitVec 5) (s : State) : Except Stop State :=
  enterException (0x20#24 + n.setWidth 24) (s.pc + 1) s

/-- Take interrupt `i`: its flag is cleared, vector 1 + i, return to the instruction not yet run; the idle state ends
(R620). -/
def takeInterrupt (i : Nat) (s : State) : Except Stop State :=
  enterException (1#24 + BitVec.ofNat 24 i) s.pc (noteAck i { s with ifr := setBit s.ifr i false, idle := .running })

/-- Return from an exception or a subroutine: the PC is popped (R469). -/
def popPc (s : State) : Except Stop State := do
  let (w, s1) ← pop s
  pure { s1 with pc := w.extractLsb' 0 24 }

/-- Return from an exception: the PC is popped and GIE is set; ST is not restored (R468, R624). DESIGN CHOICE, safe (log 24):
between the recognition of an interrupt and its entry it counts as a write of ST with GIE = 1 (R626). -/
def returnFromException (s : State) : Except Stop State := do
  let s1 ← popPc s
  pure { setGie true s1 with windowGie := s1.windowGie || s1.intWindow.isSome }

/-- The machine waits for an access that cannot be made, otherwise unchanged; a read that has begun and never ends stays on
its port (R93, R672, R682). -/
def stop (s : State) : Stop → Host.Outcome State Fault Refusal
  | .refuse r => .refused r
  | .stall w => .next { s with stalled := some w }
  | .lockup p c => .next (addCycle c { s with stalled := some p.wait } p)

/-- What a meaning's result is as an outcome. -/
def outcome (s : State) : Except Stop State → Host.Outcome State Fault Refusal
  | .ok t => .next t
  | .error e => stop s e

end Sys2Proof.Machine
end

