-- ==== Sys2Proof/Machine/Operands.lean ====
section
/-! DEFINITION. Addressing and operands (R240 to R284, R330, R400, R520), and the delivery of results. -/
namespace Sys2Proof.Machine

/-! ## Address arithmetic -/

/-- The position of the most significant 1 of the block size, BK's bit N (R266). -/
def blockBit (bk : Word) : Nat := bk.toNat.log2

/-- The low N + 1 bits of an address, its index in a circular buffer (R266). -/
def circIndex (bk : Word) (a : Addr) : Nat := a.toNat % 2 ^ (blockBit bk + 1)

/-- The conditions under which circular addressing has a result (R267, U17). -/
def circOk (bk : Word) (a : Addr) (step : Nat) : Bool :=
  bk.toNat != 0 && bk.toNat < 2 ^ 16 && step ≤ bk.toNat && circIndex bk a < bk.toNat

/-- The index after a circular step forward or back (R266). -/
def circMove (size index step : Nat) (forward : Bool) : Nat :=
  if forward then (if index + step < size then index + step else index + step - size)
  else (if step ≤ index then index - step else index + size - step)

/-- The updated register of a circular mode: bits above N stay (R266). -/
def circ (bk : Word) (a : Addr) (step : Nat) (forward : Bool) : Except Stop Addr :=
  if circOk bk a step then
    .ok (BitVec.ofNat 24 (a.toNat - circIndex bk a + circMove bk.toNat (circIndex bk a) step forward))
  else .error (.refuse .circularConditions)

/-- Reverse-carry addition (R270, D23). -/
def bitRevAdd (a b : Addr) : Addr := (a.reverse + b.reverse).reverse

/-- The step of an indirect operand: its displacement or bits 23-0 of an index register (R250). -/
def stepValue {δ : Type} (disp : δ → Addr) (s : State) : Step δ → Addr
  | .disp d => disp d
  | .ir0 => s.ir0.extractLsb' 0 24
  | .ir1 => s.ir1.extractLsb' 0 24

/-- The operand address and the updated register, from ARn and the step (R251 to R258). -/
def indexed (op : IndOp) (bk : Word) (a d : Addr) : Except Stop (Addr × Option Addr) :=
  match op with
  | .preAdd => .ok (a + d, none)
  | .preSub => .ok (a - d, none)
  | .preAddMod => .ok (a + d, some (a + d))
  | .preSubMod => .ok (a - d, some (a - d))
  | .postAdd => .ok (a, some (a + d))
  | .postSub => .ok (a, some (a - d))
  | .postAddCirc => (circ bk a d.toNat true).map fun b => (a, some b)
  | .postSubCirc => (circ bk a d.toNat false).map fun b => (a, some b)

/-- The address of an indirect operand and the register it updates with its value, all from the registers as they
stand (R250 to R263). -/
def generate {δ : Type} (disp : δ → Addr) (i : Ind δ) (s : State) : Except Stop (Addr × Option Addr) :=
  match i with
  | .idx op step n => indexed op s.bk (arAddr n s) (stepValue disp s step)
  | .plain n => .ok (arAddr n s, none)
  | .bitrev n => .ok (arAddr n s, some (bitRevAdd (arAddr n s) (s.ir0.extractLsb' 0 24)))

/-- The auxiliary register of an indirect operand, updated where its mode updates it (R250). -/
def updateAr {δ : Type} (i : Ind δ) (new : Option Addr) (s : State) : State :=
  match new with
  | some a => writeArAddr i.arCode a s
  | none => s

/-- The displacement of the general form: 8 bits, unsigned (R250). -/
def disp8 (d : BitVec 8) : Addr := d.setWidth 24

/-- The implied displacement of the three-operand and parallel forms (R265). -/
def disp1 (_ : Unit) : Addr := 1#24

/-- The address of an indirect operand of the general form; its register is updated (R263 steps 1 and 2). -/
def indirect (i : Ind (BitVec 8)) (s : State) : Except Stop (Addr × State) :=
  (generate disp8 i s).map fun g => (g.1, updateAr i g.2 s)

/-- The same for the short form (R265). -/
def indirect3 (i : Ind Unit) (s : State) : Except Stop (Addr × State) :=
  (generate disp1 i s).map fun g => (g.1, updateAr i g.2 s)

/-- Both addresses of two indirect operands, from the registers before the instruction; then both updates. Where they name
the same register only that of the field in bits 15-8 is saved, and none where that field makes none (R263, R400, R521,
R523, D11). -/
def indirectPair (hi lo : Ind Unit) (s : State) : Except Stop (Addr × Addr × State) := do
  let a ← generate disp1 hi s
  let b ← generate disp1 lo s
  pure (a.1, b.1, updateAr hi a.2 (if hi.arCode = lo.arCode then s else updateAr lo b.2 s))

/-- A direct address: the low 8 bits of DP and 16 of the instruction (R244). -/
def directAddr (a : BitVec 16) (s : State) : Addr := s.dp.extractLsb' 0 8 ++ a

/-! ## General-form operands -/

/-- The address of a memory operand, with the register update of an indirect one (R263). -/
def memAddr : MemOp → State → Except Stop (Addr × State)
  | .dir a, s => .ok (directAddr a s, s)
  | .ind i, s => indirect i s

/-- A memory operand's word (R330). -/
def memSrc (m : MemOp) (s : State) : Except Stop (Word × State) := do
  let (a, s1) ← memAddr m s
  load a s1

/-- A source in the integer or the logical kind: `ext` widens an immediate (R330). -/
def srcWord (ext : BitVec 16 → Word) : Src Reg → State → Except Stop (Word × State)
  | .reg r, s => .ok (readReg r s, s)
  | .dir a, s => load (directAddr a s) s
  | .ind i, s => memSrc (.ind i) s
  | .imm v, s => .ok (ext v, s)

/-- A source in the integer kind: an immediate is sign-extended (R330). -/
def srcInt : Src Reg → State → Except Stop (Word × State) := srcWord fun v => v.signExtend 32

/-- A source in the logical kind: an immediate is zero-filled (R330). -/
def srcUns : Src Reg → State → Except Stop (Word × State) := srcWord fun v => v.setWidth 32

/-- A source in a floating-point kind: `mem` widens a memory word, `imm` an immediate (R330). -/
def srcExt (mem : Word → Ext) (imm : BitVec 16 → Ext) : Src FReg → State → Except Stop (Ext × State)
  | .reg r, s => .ok (readExt r s, s)
  | .dir a, s => (load (directAddr a s) s).map fun x => (mem x.1, x.2)
  | .ind i, s => (memSrc (.ind i) s).map fun x => (mem x.1, x.2)
  | .imm v, s => .ok (imm v, s)

/-- A source in the floating-point kind (R330). -/
def srcFlt : Src FReg → State → Except Stop (Ext × State) := srcExt fload fshort

/-- A source of LDM: the mantissa in bits 31-0; of memory the whole word, of an immediate bits 11-0 on the left (R307). -/
def srcMan : Src FReg → State → Except Stop (Ext × State) :=
  srcExt (fun w => w.setWidth 40) fun v => 0#8 ++ v.extractLsb' 0 12 ++ 0#20

/-! ## Three-operand and parallel operands -/

/-- The words at two addresses, the first read first: in one cycle where that is on-chip, else the second in the cycle after it
(R850 (b), (e)). DESIGN CHOICE, unsafe (log 19): an on-chip second read takes its block in that cycle alone, though it is
addressed in the first. -/
def loadPair (a b : Addr) (s : State) : Except Stop (Word × Word × State) := do
  let (x, s1) ← readFirst (offChip s a) b a s
  let (y, s2) ← readOperand [] b s1
  pure (x, y, s2)

/-- The words at the addresses of src3 and src4 of a parallel multiply, src3 read first but where it is off-chip and src4
on-chip: then in the cycle after src4 (R850 (e)). -/
def loadMul (a b : Addr) (s : State) : Except Stop (Word × Word × State) :=
  if offChip s a && !offChip s b then do
    let (y, s1) ← readFirst true a b s
    let (x, s2) ← readOperand [] a s1
    pure (x, y, s2)
  else loadPair a b s

/-- Both sources of a three-operand instruction: addresses, register updates, memory reads with src1 first, register
reads last (R263, R400, R850). `reg` reads a register and `mem` widens a memory word. -/
def srcPair {ρ α : Type} (reg : ρ → State → α) (mem : Word → α) :
    Src3 ρ → Src3 ρ → State → Except Stop (α × α × State)
  | .reg a, .reg b, s => .ok (reg a s, reg b s, s)
  | .ind i, .reg b, s => do
    let (a, s1) ← indirect3 i s
    let (x, s2) ← readOperand [] a s1
    pure (mem x, reg b s2, s2)
  | .reg a, .ind j, s => do
    let (b, s1) ← indirect3 j s
    let (y, s2) ← readOperand [] b s1
    pure (reg a s2, mem y, s2)
  | .ind i, .ind j, s => do
    let (a, b, s1) ← indirectPair i j s
    let (x, y, s2) ← loadPair a b s1
    pure (mem x, mem y, s2)

/-- Both sources in the integer or logical kind (R400). -/
def srcPairInt : Src3 Reg → Src3 Reg → State → Except Stop (Word × Word × State) := srcPair readReg id

/-- Both sources in the floating-point kind (R400). -/
def srcPairFlt : Src3 FReg → Src3 FReg → State → Except Stop (Ext × Ext × State) := srcPair readExt fload

/-! ## Results -/

/-- Flags written unconditionally: a compare, or a result in R0-R7 (R332). -/
def applyFlags (f : Word → Word) (s : State) : State := { s with st := f s.st }

/-- An integer result into a register; the flags only where it is one of R0-R7 (R332). -/
def deliver (dst : Reg) (e : Effect Word) (s : State) : Except Stop State := do
  let s1 ← writeReg dst e.out s
  pure (if setsFlags dst then applyFlags e.flags s1 else s1)

/-- An integer result into R0-R7, with its flags (R23, R332). -/
def deliverInt (dst : FReg) (e : Effect Word) (s : State) : State := applyFlags e.flags (writeInt dst e.out s)

/-- A floating-point result into R0-R7, with its flags (R333). -/
def deliverFlt (dst : FReg) (e : Effect Ext) (s : State) : State := applyFlags e.flags (writeExt dst e.out s)

/-! ## Whole shapes -/

/-- A general-form instruction on an integer destination: `op` takes ST, the source and the destination as it stands
after the source has been read (R263, R330). -/
def twoInt (get : Src Reg → State → Except Stop (Word × State)) (op : Word → Word → Word → Effect Word)
    (src : Src Reg) (dst : Reg) (s : State) : Except Stop State := do
  let (b, s1) ← get src s
  let s2 ← deliver dst (op s1.st b (readReg dst s1)) s1
  pure (advance s2)

/-- A general-form instruction on a floating-point destination: `op` takes the source and the destination (R330). -/
def twoFlt (op : Ext → Ext → Effect Ext) (src : Src FReg) (dst : FReg) (s : State) : Except Stop State := do
  let (b, s1) ← srcFlt src s
  pure (advance (deliverFlt dst (op b (readExt dst s1)) s1))

/-- A three-operand instruction on an integer destination: `op` takes ST, src1 and src2 (R400). -/
def threeInt (op : Word → Word → Word → Effect Word) (src1 src2 : Src3 Reg) (dst : Reg) (s : State) :
    Except Stop State := do
  let (a, b, s1) ← srcPairInt src1 src2 s
  let s2 ← deliver dst (op s1.st a b) s1
  pure (advance s2)

/-- A three-operand instruction on a floating-point destination (R400). -/
def threeFlt (op : Ext → Ext → Effect Ext) (src1 src2 : Src3 FReg) (dst : FReg) (s : State) : Except Stop State := do
  let (a, b, s1) ← srcPairFlt src1 src2 s
  pure (advance (deliverFlt dst (op a b) s1))

/-- An instruction on one register, read and written (R356). -/
def oneInt (op : Word → Word → Effect Word) (dst : Reg) (s : State) : Except Stop State := do
  let s1 ← deliver dst (op s.st (readReg dst s)) s
  pure (advance s1)

/-- An operation with a parallel store: both addresses, the memory source, then the operation and the store from the registers
before the instruction, which are R0-R7, two cycles after the read (R520, R521, R850 (c)). `op` gives the word to store, and
what becomes of the state, from the memory word. `dst2` is the field in bits 15-8. -/
def withStore (op : Word → State → Word × (State → State)) (dst2 src2 : Ind Unit) (s : State) : Except Stop State := do
  let (a1, a2, s1) ← indirectPair dst2 src2 s
  let (m, s2) ← readOperand [] a2 s1
  let s3 ← storeLater a1 (op m s2).1 s2
  pure (advance ((op m s2).2 s3))

/-- The same for an integer operation with STI: `op` takes ST and the memory word (R531). -/
def intSti (op : Word → State → Effect Word) (dst1 src3 : FReg) (dst2 src2 : Ind Unit) (s : State) : Except Stop State :=
  withStore (fun m t => (readInt src3 t, deliverInt dst1 (op m t))) dst2 src2 s

/-- The same for a floating-point operation with STF (R530). -/
def fltStf (op : Ext → State → Effect Ext) (dst1 src3 : FReg) (dst2 src2 : Ind Unit) (s : State) : Except Stop State :=
  withStore (fun m t => (fstore (readExt src3 t), deliverFlt dst1 (op (fload m) t))) dst2 src2 s

/-- The register of a multiplier result: R0 or R1 (R523). -/
def mulDst (d1 : BitVec 1) : FReg := d1.setWidth 3

/-- The register of an adder result: R2 or R3 (R523). -/
def addDst (d2 : BitVec 1) : FReg := 1#2 ++ d2

/-- The multiplier's two operands and the adder's two, chosen by P from src1, src2, src3 and src4 (R523). The third is
the minuend of a subtraction. -/
def pOperands {α : Type} (p : BitVec 2) (x1 x2 x3 x4 : α) : α × α × α × α :=
  if p = 0#2 then (x3, x4, x1, x2)
  else if p = 1#2 then (x3, x1, x4, x2)
  else if p = 2#2 then (x1, x2, x3, x4)
  else (x3, x1, x2, x4)

/-- A parallel multiply with an addition or subtraction on floating-point values (R523, R543). -/
def parallelFlt (add : Ext → Ext → FResult) (p : BitVec 2) (d1 d2 : BitVec 1) (src1 src2 : FReg) (src3 src4 : Ind Unit)
    (s : State) : Except Stop State := do
  let (a3, a4, s1) ← indirectPair src3 src4 s
  let (m3, m4, s2) ← loadMul a3 a4 s1
  let (x, y, u, v) := pOperands p (readExt src1 s2) (readExt src2 s2) (fload m3) (fload m4)
  let prod := fmul x y
  let sum := add u v
  pure (advance (applyFlags (opFlags (prod.ovf || sum.ovf) (prod.unf || sum.unf) false false)
    (writeExt (addDst d2) sum.val (writeExt (mulDst d1) prod.val s2))))

/-- A parallel multiply with an addition or subtraction on integers; `add` gives the exact sum or difference (R523, R546). The
carry is not recorded. DESIGN CHOICE, unsafe (log 11): N is 0 also where a result overflows, as R523, R546 and R548 say, though
D14 and 90_conflicts.md C29 count the parallel MPYI3 forms among those whose N is bit 31 of the product written. -/
def parallelInt (add : Int → Int → Int) (p : BitVec 2) (d1 d2 : BitVec 1) (src1 src2 : FReg) (src3 src4 : Ind Unit)
    (s : State) : Except Stop State := do
  let (a3, a4, s1) ← indirectPair src3 src4 s
  let (m3, m4, s2) ← loadMul a3 a4 s1
  let (x, y, u, v) := pOperands p (readInt src1 s2) (readInt src2 s2) m3 m4
  let prod := mpyProduct x y
  let sum := add u.toInt v.toInt
  pure (advance (applyFlags (opFlags (!fits prod || !fits sum) false false false)
    (writeInt (addDst d2) (sat (stOvm s2.st) sum) (writeInt (mulDst d1) (sat (stOvm s2.st) prod) s2))))

end Sys2Proof.Machine
end

