-- ==== Sys2Proof/Machine/Control.lean ====
section
/-! DEFINITION. Branches, calls, returns, traps and repeats (45_program_control.md). -/
namespace Sys2Proof.Machine

/-- The address after the instruction, as the word a call pushes (R440, R448). -/
def nextPc (s : State) : Word := (s.pc + 1).setWidth 32

/-- The target of a branch: bits 23-0 of a register, or a displacement from `base` (R284, R440). -/
def branchTarget (t : Target) (base : Addr) (s : State) : Addr :=
  match t with
  | .reg r => (readReg r s).extractLsb' 0 24
  | .rel d => base + d.signExtend 24

/-- A standard branch (R443). -/
def branchIf (taken : Bool) (target : Addr) (s : State) : State :=
  if taken then { s with pc := target } else advance s

/-- A delayed branch: the next three instructions run first (R447). -/
def delayBranch (taken : Bool) (target : Addr) (s : State) : State :=
  { advance s with delay := some { target := if taken then some target else none, left := 3 } }

/-- The low 24 bits of ARn, less 1 (R451). -/
def decremented (n : BitVec 3) (s : State) : Addr := arAddr n s - 1

/-- A decrementing branch is taken where the condition holds and the decremented register is not negative (R451). -/
def dbTaken (n : BitVec 3) (c : Cond) (s : State) : Bool := condHolds s.st c && !(decremented n s).msb

/-- Push the return address, then go to the target (R448). -/
def callTo (target : State → Addr) (s : State) : Except Stop State := do
  let s1 ← push (nextPc s) s
  pure { s1 with pc := target s1 }

/-- BR (R445). -/
def execBr (target : Addr) (s : State) : Host.Outcome State Fault Refusal := .next { s with pc := target }

/-- BRD (R446). -/
def execBrd (target : Addr) (s : State) : Host.Outcome State Fault Refusal := .next (delayBranch true target s)

/-- Bcond (R443). -/
def execBCond (c : Cond) (t : Target) (s : State) : Host.Outcome State Fault Refusal :=
  .next (branchIf (condHolds s.st c) (branchTarget t (s.pc + 1) s) s)

/-- BcondD (R444, D10). -/
def execBCondD (c : Cond) (t : Target) (s : State) : Host.Outcome State Fault Refusal :=
  .next (delayBranch (condHolds s.st c) (branchTarget t (s.pc + 3) s) s)

/-- DBcond: the condition first, then the decrement (R451); a target in the decremented register is read after it (D9). -/
def execDbCond (n : BitVec 3) (c : Cond) (t : Target) (s : State) : Host.Outcome State Fault Refusal :=
  let s1 := writeArAddr n (decremented n s) s
  .next (branchIf (dbTaken n c s) (branchTarget t (s.pc + 1) s1) s1)

/-- DBcondD (R452, D9, D10). -/
def execDbCondD (n : BitVec 3) (c : Cond) (t : Target) (s : State) : Host.Outcome State Fault Refusal :=
  let s1 := writeArAddr n (decremented n s) s
  .next (delayBranch (dbTaken n c s) (branchTarget t (s.pc + 3) s1) s1)

/-- CALL (R448). -/
def execCall (target : Addr) (s : State) : Host.Outcome State Fault Refusal := outcome s (callTo (fun _ => target) s)

/-- CALLcond: the push precedes the read of the target register (R449, D9). -/
def execCallCond (c : Cond) (t : Target) (s : State) : Host.Outcome State Fault Refusal :=
  outcome s (if condHolds s.st c then callTo (branchTarget t (s.pc + 1)) s else .ok (advance s))

/-- RPTB: S is not changed (R460). -/
def execRptb (target : Addr) (s : State) : Host.Outcome State Fault Refusal :=
  .next { setRm true (advance s) with rs := nextPc s, re := target.setWidth 32 }

/-- RPTS: an immediate is zero-filled (R461). -/
def execRpts (src : Src Reg) (s : State) : Host.Outcome State Fault Refusal :=
  outcome s do
    let (v, s1) ← srcUns src s
    pure { setRm true (advance s1) with rs := nextPc s, re := nextPc s, rc := v, repS := true }

/-- A false TRAPcond: on a C30 not preceded by two NOPs GIE may be cleared (R462, R627, U19). -/
def falseTrap (s : State) : State :=
  if s.device = .c30 ∧ s.nopRun < 2 ∧ s.st.getLsbD 13 = true then setGie (freeBit s 18) s else s

/-- TRAPcond (R462, R632). -/
def execTrapCond (c : Cond) (n : BitVec 5) (s : State) : Host.Outcome State Fault Refusal :=
  outcome s (if condHolds s.st c then takeTrap n s else .ok (advance (falseTrap s)))

/-- RETIcond (R468). -/
def execRetiCond (c : Cond) (s : State) : Host.Outcome State Fault Refusal :=
  outcome s (if condHolds s.st c then returnFromException s else .ok (advance s))

/-- RETScond (R469). -/
def execRetsCond (c : Cond) (s : State) : Host.Outcome State Fault Refusal :=
  outcome s (if condHolds s.st c then popPc s else .ok (advance s))

end Sys2Proof.Machine
end

