-- ==== Sys2Proof/Machine/Floating.lean ====
section
/-! DEFINITION. The two-operand floating-point and conversion instructions (43_two_operand.md). -/
namespace Sys2Proof.Machine

/-- ABSF (R334). -/
def execAbsf (src : Src FReg) (dst : FReg) (s : State) : Host.Outcome State Fault Refusal :=
  outcome s (twoFlt (fun b _ => absfEffect b) src dst s)

/-- ADDF (R337). -/
def execAddf (src : Src FReg) (dst : FReg) (s : State) : Host.Outcome State Fault Refusal :=
  outcome s (twoFlt (fun b d => floatEffect (fadd d b)) src dst s)

/-- CMPF (R342). -/
def execCmpf (src : Src FReg) (dst : FReg) (s : State) : Host.Outcome State Fault Refusal :=
  outcome s do
    let (b, s1) ← srcFlt src s
    pure (advance (applyFlags (floatFlags (fsub (readExt dst s1) b)) s1))

/-- FIX (R344). -/
def execFix (src : Src FReg) (dst : Reg) (s : State) : Host.Outcome State Fault Refusal :=
  outcome s do
    let (b, s1) ← srcFlt src s
    let s2 ← deliver dst (fixEffect b) s1
    pure (advance s2)

/-- FLOAT (R345). -/
def execFloat (src : Src Reg) (dst : FReg) (s : State) : Host.Outcome State Fault Refusal :=
  outcome s do
    let (b, s1) ← srcInt src s
    pure (advance (deliverFlt dst (floatEffect (ffloat b)) s1))

/-- MPYF (R347). -/
def execMpyf (src : Src FReg) (dst : FReg) (s : State) : Host.Outcome State Fault Refusal :=
  outcome s (twoFlt (fun b d => floatEffect (fmul d b)) src dst s)

/-- NEGF (R350). -/
def execNegf (src : Src FReg) (dst : FReg) (s : State) : Host.Outcome State Fault Refusal :=
  outcome s (twoFlt (fun b _ => floatEffect (fneg b)) src dst s)

/-- NORM (R352). -/
def execNorm (src : Src FReg) (dst : FReg) (s : State) : Host.Outcome State Fault Refusal :=
  outcome s (twoFlt (fun b _ => floatEffect (fnormalize b)) src dst s)

/-- RND (R355). -/
def execRnd (src : Src FReg) (dst : FReg) (s : State) : Host.Outcome State Fault Refusal :=
  outcome s (twoFlt (fun b _ => rndEffect b) src dst s)

/-- SUBF (R362). -/
def execSubf (src : Src FReg) (dst : FReg) (s : State) : Host.Outcome State Fault Refusal :=
  outcome s (twoFlt (fun b d => floatEffect (fsub d b)) src dst s)

/-- SUBRF (R365). -/
def execSubrf (src : Src FReg) (dst : FReg) (s : State) : Host.Outcome State Fault Refusal :=
  outcome s (twoFlt (fun b d => floatEffect (fsub b d)) src dst s)

end Sys2Proof.Machine
end

