-- ==== Sys2Proof/Machine/Integer.lean ====
section
/-! DEFINITION. The two-operand integer, logical, shift and rotate instructions (43_two_operand.md). -/
namespace Sys2Proof.Machine

/-- ABSI (R335). -/
def execAbsi (src : Src Reg) (dst : Reg) (s : State) : Host.Outcome State Fault Refusal :=
  outcome s (twoInt srcInt (fun st b _ => absEffect st b) src dst s)

/-- ADDC (R336). -/
def execAddc (src : Src Reg) (dst : Reg) (s : State) : Host.Outcome State Fault Refusal :=
  outcome s (twoInt srcInt (fun st b d => addEffect st d b (stC st)) src dst s)

/-- ADDI (R338). -/
def execAddi (src : Src Reg) (dst : Reg) (s : State) : Host.Outcome State Fault Refusal :=
  outcome s (twoInt srcInt (fun st b d => addEffect st d b false) src dst s)

/-- AND (R339). -/
def execAnd (src : Src Reg) (dst : Reg) (s : State) : Host.Outcome State Fault Refusal :=
  outcome s (twoInt srcUns (fun _ b d => logicEffect (d &&& b)) src dst s)

/-- ANDN (R340). -/
def execAndn (src : Src Reg) (dst : Reg) (s : State) : Host.Outcome State Fault Refusal :=
  outcome s (twoInt srcUns (fun _ b d => logicEffect (d &&& ~~~b)) src dst s)

/-- ASH (R341). -/
def execAsh (src : Src Reg) (dst : Reg) (s : State) : Host.Outcome State Fault Refusal :=
  outcome s (twoInt srcInt (fun _ b d => ashEffect b d) src dst s)

/-- CMPI (R343). -/
def execCmpi (src : Src Reg) (dst : Reg) (s : State) : Host.Outcome State Fault Refusal :=
  outcome s do
    let (b, s1) ← srcInt src s
    pure (advance (applyFlags (cmpFlags (readReg dst s1) b) s1))

/-- LSH (R346). -/
def execLsh (src : Src Reg) (dst : Reg) (s : State) : Host.Outcome State Fault Refusal :=
  outcome s (twoInt srcInt (fun _ b d => lshEffect b d) src dst s)

/-- MPYI (R348). -/
def execMpyi (src : Src Reg) (dst : Reg) (s : State) : Host.Outcome State Fault Refusal :=
  outcome s (twoInt srcInt (fun st b d => mpyEffect st d b) src dst s)

/-- NEGB (R349). -/
def execNegb (src : Src Reg) (dst : Reg) (s : State) : Host.Outcome State Fault Refusal :=
  outcome s (twoInt srcInt (fun st b _ => subEffect st 0#32 b (stC st)) src dst s)

/-- NEGI (R351). -/
def execNegi (src : Src Reg) (dst : Reg) (s : State) : Host.Outcome State Fault Refusal :=
  outcome s (twoInt srcInt (fun st b _ => subEffect st 0#32 b false) src dst s)

/-- NOT (R353). -/
def execNot (src : Src Reg) (dst : Reg) (s : State) : Host.Outcome State Fault Refusal :=
  outcome s (twoInt srcUns (fun _ b _ => logicEffect (~~~b)) src dst s)

/-- OR (R354). -/
def execOr (src : Src Reg) (dst : Reg) (s : State) : Host.Outcome State Fault Refusal :=
  outcome s (twoInt srcUns (fun _ b d => logicEffect (d ||| b)) src dst s)

/-- SUBB (R360). -/
def execSubb (src : Src Reg) (dst : Reg) (s : State) : Host.Outcome State Fault Refusal :=
  outcome s (twoInt srcInt (fun st b d => subEffect st d b (stC st)) src dst s)

/-- SUBC: no flags, whatever the destination (R361). -/
def execSubc (src : Src Reg) (dst : Reg) (s : State) : Host.Outcome State Fault Refusal :=
  outcome s do
    let (b, s1) ← srcUns src s
    let s2 ← writeReg dst (subcOut (readReg dst s1) b) s1
    pure (advance s2)

/-- SUBI (R363). -/
def execSubi (src : Src Reg) (dst : Reg) (s : State) : Host.Outcome State Fault Refusal :=
  outcome s (twoInt srcInt (fun st b d => subEffect st d b false) src dst s)

/-- SUBRB (R364). -/
def execSubrb (src : Src Reg) (dst : Reg) (s : State) : Host.Outcome State Fault Refusal :=
  outcome s (twoInt srcInt (fun st b d => subEffect st b d (stC st)) src dst s)

/-- SUBRI (R366). -/
def execSubri (src : Src Reg) (dst : Reg) (s : State) : Host.Outcome State Fault Refusal :=
  outcome s (twoInt srcInt (fun st b d => subEffect st b d false) src dst s)

/-- TSTB (R367). -/
def execTstb (src : Src Reg) (dst : Reg) (s : State) : Host.Outcome State Fault Refusal :=
  outcome s do
    let (b, s1) ← srcUns src s
    pure (advance (applyFlags (logicFlags (readReg dst s1 &&& b)) s1))

/-- XOR (R368). -/
def execXor (src : Src Reg) (dst : Reg) (s : State) : Host.Outcome State Fault Refusal :=
  outcome s (twoInt srcUns (fun _ b d => logicEffect (d ^^^ b)) src dst s)

/-- ROL (R356). -/
def execRol (dst : Reg) (s : State) : Host.Outcome State Fault Refusal :=
  outcome s (oneInt (fun _ x => rolEffect x) dst s)

/-- ROLC (R357). -/
def execRolc (dst : Reg) (s : State) : Host.Outcome State Fault Refusal :=
  outcome s (oneInt (fun st x => rolcEffect (stC st) x) dst s)

/-- ROR (R358). -/
def execRor (dst : Reg) (s : State) : Host.Outcome State Fault Refusal :=
  outcome s (oneInt (fun _ x => rorEffect x) dst s)

/-- RORC (R359). -/
def execRorc (dst : Reg) (s : State) : Host.Outcome State Fault Refusal :=
  outcome s (oneInt (fun st x => rorcEffect (stC st) x) dst s)

end Sys2Proof.Machine
end

