-- ==== Sys2Proof/Machine/Interlock.lean ====
section
/-! DEFINITION. The interlocked instructions and their handshake over XF0 and XF1 (46_interlock.md). -/
namespace Sys2Proof.Machine

/-- Whether an interlocked access to a region uses XF0: anywhere but on-chip memory (R506). -/
def Region.interlocked : Region → Bool
  | .primary => true
  | .mstrb => true
  | .iostrb => true
  | .peripheral => true
  | .ram => false
  | .rom => false
  | .reserved => false

/-- Whether an interlocked access to an address uses XF0 (R506). -/
def interlocked (s : State) (a : Addr) : Bool := (region s a).interlocked

/-- The routing of an interlocked load. DESIGN CHOICE, unsafe (log 1): one of 0h to FFFh that already waits goes on over the
primary bus, whatever the level of MCBL/MP has become, which R131 says should not change in the middle of an access. -/
def lockRegion (s : State) (a : Addr) : Region :=
  if s.lockWait ≠ 0 ∧ a.toNat < 0x1000 then .primary else region s a

/-- IOF configures XF0 as an output and XF1 as an input (R500, U13). -/
def xfConfigured (s : State) : Bool := s.iof.getLsbD 1 && !s.iof.getLsbD 5

/-- The levels XF0 still has for the `t` H1 cycles before it changes. -/
def xf0Before (t : Nat) (s : State) : List Bool := List.replicate t (s.iof.getLsbD 2)

/-- XF0's output latch, IOF.OUTXF0 (R507, D12). -/
def latchXf0 (b : Bool) (s : State) : State := { s with iof := setBit s.iof 2 b }

/-- XF0 driven from this cycle of the step on (R501, R503). -/
def setXf0 (b : Bool) (s : State) : State := { latchXf0 b s with xf0Next := xf0Before s.elapsed s }

/-- The instruction waits: XF0 is low, and it is done again in the next step (R501, R503). `lockWait` counts its cycles. -/
def waitForXf1 (s : State) : State := { setXf0 false s with lockWait := s.lockWait + 1 }

/-- XF1 is high in this cycle of the step (R501). -/
def xf1High (s : State) : Bool := (pinsAfter s.elapsed s.pins s.env.pinSchedule).1.xf1

/-- The wait for XF1 is over: it is low, or an interrupt ends the wait (R501, R506). -/
def xf1Done (s : State) : Bool := !xf1High s || s.abandon

/-- The read cycle of an interlocked load on its port, which has begun in an earlier step (R501). -/
def openRead (p : PortName) (a : Addr) (s : State) : BusCycle :=
  (portCycles s p).headD (readCycle s a 0 s.elapsed none)

/-- The latest access of a port is over after this cycle. -/
def closeRead (p : PortName) (stop : Nat) (s : State) : State :=
  match p with
  | .primary => { s with primary := s.primary.modifyHead fun c => { c with stop := some stop } }
  | .expansion => { s with expansion := s.expansion.modifyHead fun c => { c with stop := some stop } }

/-- The levels of XF0 where an interlocked read ends after `n` more H1 cycles: it stays low until then, whatever the
instruction loads into IOF (R501, R502). -/
def xf0Ending (n : Nat) (s : State) : List Bool := xf0Before s.elapsed s ++ List.replicate n false

/-- A cycle of an interlocked read that has begun, `age` cycles after it did: it ends, with its word, in the first cycle in
which the bus is ready and XF1 is low together, and is extended in any other (R501, R668, R682; DEDUCED, log 21). An interrupt
ends it in any cycle from the first in which the bus is ready on, which `lockReady` remembers (R506). -/
def lockedCycle (p : PortName) (a : Addr) (age : Nat) (s : State) : Option Word × State :=
  let c := openRead p a s
  let ready := readyAt (portCtl s p) c.waits age (p.pin (pinsAfter s.elapsed s.pins s.env.pinSchedule).1)
  if ready && !xf1High s || s.abandon && (ready || s.lockReady) then
    (some c.word, { closeRead p (s.elapsed + ioCycle (region s a) + 1) (latchXf0 false s) with
      elapsed := s.elapsed + ioCycle (region s a), lockWait := 0, lockReady := false
      xf0Next := xf0Ending (ioCycle (region s a) + 1) s })
  else
    (none, { setXf0 false s with
      lockWait := age + 2, lockReady := ready || s.lockReady, stalled := if ready || s.lockReady then none else some p.wait })

/-- An interlocked read over a port (R501): its word, or none while it waits. It begins once the port is free and not held,
after the extra cycle of another bank or of a write before it (R672, R676, R681), and then goes on cycle by cycle: `lockWait` is one more than its age. -/
def lockedRead (p : PortName) (a : Addr) (s : State) : Except Stop (Option Word × State) :=
  if s.lockWait ≠ 0 then .ok (lockedCycle p a (s.lockWait - 1) s)
  else do
    let t ← portStart s p
    if t ≠ s.elapsed then .error (.stall p.wait)
    else
      let lead := readLead s p a t
      let s1 := { beginRead p (readCycle s a lead (s.elapsed + lead) none) s with lockReady := false }
      pure (if lead = 0 then lockedCycle p a 0 s1 else (none, { s1 with lockWait := 1, stalled := some p.wait }))

/-- The same from the peripheral bus, which is ready once its port is free (R501, R506, R784). -/
def lockedPeripheral (a : Addr) (s : State) : Except Stop (Option Word × State) := do
  let t ← portStart s .expansion
  if t ≠ s.elapsed then .error (.stall .expansion)
  else if xf1Done s then
    let (w, s1) ← loadFor .data a (latchXf0 false s)
    pure (some w, { s1 with lockWait := 0, xf0Next := xf0Ending 1 s })
  else pure (none, noteOnChip .data a (waitForXf1 s))

/-- An interlocked read of `a`, which is not in on-chip memory. -/
def lockedLoad (a : Addr) (s : State) : Except Stop (Option Word × State) :=
  match portOf (lockRegion s a) with
  | some p => lockedRead p a s
  | none => lockedPeripheral a s

/-- An interlocked load; `fin` writes the destination from the state with the address update made. It waits, with its read
cycle extended, until XF1 is low and the bus is ready, or an interrupt ends the wait (R501, R506, D13). DESIGN CHOICE, unsafe
(log 11): where IOF is the destination the loaded word goes there after XF0 has been set to 0, so OUTXF0 is its bit 2, which
the pin shows once the read is over. -/
def interlockedLoad (src : MemOp) (fin : Word → State → Except Stop State) (s : State) : Except Stop State := do
  let (a, s1) ← memAddr src s
  if (lockRegion s a).interlocked then
    if !xfConfigured s then .error (.refuse .interlockPins)
    else do
      let (o, t) ← lockedLoad a s
      match o with
      | none => pure t
      | some w => (fin w { t with ar := s1.ar }).map advance
  else do
    let (w, s2) ← load a s1
    let s3 ← fin w s2
    pure (advance s3)

/-- LDFI (R501). -/
def execLdfi (src : MemOp) (dst : FReg) (s : State) : Host.Outcome State Fault Refusal :=
  outcome s (interlockedLoad src (fun w t => .ok (deliverFlt dst (ldfEffect (fload w)) t)) s)

/-- LDII (R502). -/
def execLdii (src : MemOp) (dst : Reg) (s : State) : Host.Outcome State Fault Refusal :=
  outcome s (interlockedLoad src (fun w t => deliver dst (logicEffect w) t) s)

/-- SIGI: XF0 low, wait for XF1 low, XF0 high; an interrupt ends the wait with XF0 low (R503, D13). Where XF1 is low
already, XF0 is low for the one cycle of the instruction, a pulse. DESIGN CHOICE, unsafe (log 21): after a wait XF0 rises in the
very H1 cycle in which XF1 is found low, where R503 gives the steps and no cycle. DESIGN CHOICE, unsafe (log 21): where XF1 is low in
the cycle in which an interrupt would abandon it, SIGI completes. -/
def execSigi (s : State) : Host.Outcome State Fault Refusal :=
  if !xfConfigured s then .refused .interlockPins
  else if !xf1High s then
    .next { advance (setXf0 true s) with
      lockWait := 0, xf0Next := xf0Before s.elapsed s ++ if s.lockWait = 0 then [false] else [] }
  else if s.abandon then .next { advance (setXf0 false s) with lockWait := 0 }
  else .next (waitForXf1 s)

/-- An interlocked store; `word` is read from the state with the address update made. XF0 goes high in the cycle in which
the write begins (R504, R506); while the bus is held the write has not begun, and no interrupt is taken. DESIGN CHOICE,
unsafe (log 11): the word that STII stores of IOF is taken after XF0 has been set (the order of the steps in R504). -/
def interlockedStore (dst : MemOp) (word : State → Word) (s : State) : Except Stop State := do
  let (a, s1) ← memAddr dst s
  if interlocked s1 a then
    if !xfConfigured s then .error (.refuse .interlockPins)
    else
      match store a (word (latchXf0 true s1)) (latchXf0 true s1) with
      | .ok s2 => pure (advance { s2 with xf0Next := xf0Before s2.elapsed s })
      | .error (.stall .held) => .error (.stall .heldStore)
      | .error e => .error e
  else do
    let s2 ← store a (word s1) s1
    pure (advance s2)

/-- STFI (R504). -/
def execStfi (src : FReg) (dst : MemOp) (s : State) : Host.Outcome State Fault Refusal :=
  outcome s (interlockedStore dst (fun t => fstore (readExt src t)) s)

/-- STII (R505). -/
def execStii (src : Reg) (dst : MemOp) (s : State) : Host.Outcome State Fault Refusal :=
  outcome s (interlockedStore dst (readReg src) s)

end Sys2Proof.Machine
end

