-- ==== Sys2Proof/Machine/LoadStore.lean ====
section
/-! DEFINITION. Loads, stores and the stack instructions (42_load_store.md). -/
namespace Sys2Proof.Machine

/-- The destination of LDE: the exponent of `e`, and the mantissa cleared where it is that of 0 (R301). -/
def withExponent (e old : Ext) : Ext := if isZero e then fzero else e.extractLsb' 32 8 ++ old.extractLsb' 0 32

/-- LDE (R301). -/
def execLde (src : Src FReg) (dst : FReg) (s : State) : Host.Outcome State Fault Refusal :=
  outcome s do
    let (v, s1) ← srcFlt src s
    pure (advance (writeExt dst (withExponent v (readExt dst s1)) s1))

/-- LDF (R302). -/
def execLdf (src : Src FReg) (dst : FReg) (s : State) : Host.Outcome State Fault Refusal :=
  outcome s (twoFlt (fun v _ => ldfEffect v) src dst s)

/-- LDI (R305). -/
def execLdi (src : Src Reg) (dst : Reg) (s : State) : Host.Outcome State Fault Refusal :=
  outcome s (twoInt srcInt (fun _ v _ => logicEffect v) src dst s)

/-- LDM (R307). -/
def execLdm (src : Src FReg) (dst : FReg) (s : State) : Host.Outcome State Fault Refusal :=
  outcome s do
    let (v, s1) ← srcMan src s
    pure (advance (writeInt dst (manOf v) s1))

/-- LDP: LDI of an immediate (R308). -/
def execLdp (dst : Reg) (imm : BitVec 16) (s : State) : Host.Outcome State Fault Refusal :=
  outcome s do
    let s1 ← deliver dst (logicEffect (imm.signExtend 32)) s
    pure (advance s1)

/-- LDFcond: the operand is read whether or not the condition holds; no flags (R304). -/
def execLdfCond (c : Cond) (src : Src FReg) (dst : FReg) (s : State) : Host.Outcome State Fault Refusal :=
  outcome s do
    let (v, s1) ← srcFlt src s
    pure (advance (if condHolds s.st c then writeExt dst v s1 else s1))

/-- LDIcond: the operand is read whether or not the condition holds; no flags (R306). -/
def execLdiCond (c : Cond) (src : Src Reg) (dst : Reg) (s : State) : Host.Outcome State Fault Refusal :=
  outcome s do
    let (v, s1) ← srcInt src s
    let s2 ← if condHolds s.st c then writeReg dst v s1 else pure s1
    pure (advance s2)

/-- STF (R313). -/
def execStf (src : FReg) (dst : MemOp) (s : State) : Host.Outcome State Fault Refusal :=
  outcome s do
    let (a, s1) ← memAddr dst s
    let s2 ← store a (fstore (readExt src s1)) s1
    pure (advance s2)

/-- STI: an auxiliary register that the destination updates is stored updated (R314, D9). -/
def execSti (src : Reg) (dst : MemOp) (s : State) : Host.Outcome State Fault Refusal :=
  outcome s do
    let (a, s1) ← memAddr dst s
    let s2 ← store a (readReg src s1) s1
    pure (advance s2)

/-- POP: a popped SP wins over the decrement (R309, D9). -/
def execPop (dst : Reg) (s : State) : Host.Outcome State Fault Refusal :=
  outcome s do
    let (v, s1) ← pop s
    let s2 ← deliver dst (logicEffect v) s1
    pure (advance s2)

/-- POPF (R310). -/
def execPopf (dst : FReg) (s : State) : Host.Outcome State Fault Refusal :=
  outcome s do
    let (v, s1) ← pop s
    pure (advance (deliverFlt dst (ldfEffect (fload v)) s1))

/-- PUSH: SP itself is pushed incremented (R311, D17). -/
def execPush (src : Reg) (s : State) : Host.Outcome State Fault Refusal :=
  outcome s do
    let s1 ← push (readReg src { s with sp := s.sp + 1 }) s
    pure (advance s1)

/-- PUSHF (R312). -/
def execPushf (src : FReg) (s : State) : Host.Outcome State Fault Refusal :=
  outcome s do
    let s1 ← push (fstore (readExt src s)) s
    pure (advance s1)

end Sys2Proof.Machine
end

