-- ==== Sys2Proof/Machine/Parallel.lean ====
section
/-! DEFINITION. The parallel instructions (47_parallel.md). -/
namespace Sys2Proof.Machine

/-! ## Multiply with add or subtract -/

/-- MPYF3||ADDF3 (R543). -/
def execMpyf3Addf3 (p : BitVec 2) (d1 d2 : BitVec 1) (src1 src2 : FReg) (src3 src4 : Ind Unit) (s : State) :
    Host.Outcome State Fault Refusal :=
  outcome s (parallelFlt fadd p d1 d2 src1 src2 src3 src4 s)

/-- MPYF3||SUBF3 (R545). -/
def execMpyf3Subf3 (p : BitVec 2) (d1 d2 : BitVec 1) (src1 src2 : FReg) (src3 src4 : Ind Unit) (s : State) :
    Host.Outcome State Fault Refusal :=
  outcome s (parallelFlt fsub p d1 d2 src1 src2 src3 src4 s)

/-- MPYI3||ADDI3 (R546). -/
def execMpyi3Addi3 (p : BitVec 2) (d1 d2 : BitVec 1) (src1 src2 : FReg) (src3 src4 : Ind Unit) (s : State) :
    Host.Outcome State Fault Refusal :=
  outcome s (parallelInt (fun u v => u + v) p d1 d2 src1 src2 src3 src4 s)

/-- MPYI3||SUBI3 (R548). -/
def execMpyi3Subi3 (p : BitVec 2) (d1 d2 : BitVec 1) (src1 src2 : FReg) (src3 src4 : Ind Unit) (s : State) :
    Host.Outcome State Fault Refusal :=
  outcome s (parallelInt (fun u v => u - v) p d1 d2 src1 src2 src3 src4 s)

/-! ## Two stores, two loads -/

/-- Two stores; that of the field in bits 15-8 is written first, so the other remains where both have one address
(R553, R560, D22). DESIGN CHOICE, unsafe (log 11): also where the addresses differ that field is the dst1 of R850 (d), whose store
is the first, as R522 names the fields, though R850 calls dst1 the destination of the first-written store of the pair, which
R553 calls dst2, and the pseudocode of R553 writes that one first. Where both go to one port they are handed to it in the same
cycle, and the second takes none of the CPU's time (R850 (d), `storeSecond`); else each waits for what its own port is busy with
(R842, R863). PRESUMED, unsafe (log 27): the register of `STx src2, dst2`, whose word remains, stands in bits 24-22, as R522 and
R553 have it, and not in bits 18-16, where D22 puts it. -/
def twoStores (v1 v2 : Word) (dst1 dst2 : Ind Unit) (s : State) : Except Stop State := do
  let (a1, a2, s1) ← indirectPair dst1 dst2 s
  let s2 ← storeWith [a2] a1 v1 s1
  let s3 ← storeSecond a1 a2 v2 s2
  pure (advance { s3 with elapsed := if busPort s a1 = busPort s a2 then s2.elapsed else s3.elapsed })

/-- STF||STF (R553). -/
def execStfStf (src2 src1 : FReg) (dst1 dst2 : Ind Unit) (s : State) : Host.Outcome State Fault Refusal :=
  outcome s (twoStores (fstore (readExt src1 s)) (fstore (readExt src2 s)) dst1 dst2 s)

/-- STI||STI (R554). -/
def execStiSti (src2 src1 : FReg) (dst1 dst2 : Ind Unit) (s : State) : Host.Outcome State Fault Refusal :=
  outcome s (twoStores (readInt src1 s) (readInt src2 s) dst1 dst2 s)

/-- LDF||LDF: dst1 is written first, so dst2's value remains where both are one register; no flags (R538). DESIGN CHOICE,
unsafe (log 11): `src1`, bits 15-8, is read before `src2`, in the cycles that R850 (b) gives the reads of a three-operand
instruction, where R850 and R520 give no order of these two reads. -/
def execLdfLdf (dst2 dst1 : FReg) (src1 src2 : Ind Unit) (s : State) : Host.Outcome State Fault Refusal :=
  outcome s do
    let (a1, a2, s1) ← indirectPair src1 src2 s
    let (m1, m2, s2) ← loadPair a1 a2 s1
    pure (advance (writeExt dst2 (fload m2) (writeExt dst1 (fload m1) s2)))

/-- LDI||LDI (R540). DESIGN CHOICE, unsafe (log 11): `src1`, bits 15-8, is read before `src2`, as in LDF||LDF. -/
def execLdiLdi (dst2 dst1 : FReg) (src1 src2 : Ind Unit) (s : State) : Host.Outcome State Fault Refusal :=
  outcome s do
    let (a1, a2, s1) ← indirectPair src1 src2 s
    let (m1, m2, s2) ← loadPair a1 a2 s1
    pure (advance (writeInt dst2 m2 (writeInt dst1 m1 s2)))

/-! ## An operation with a store -/

/-- ABSF||STF (R530). -/
def execAbsfStf (dst1 src3 : FReg) (dst2 src2 : Ind Unit) (s : State) : Host.Outcome State Fault Refusal :=
  outcome s (fltStf (fun m _ => absfEffect m) dst1 src3 dst2 src2 s)

/-- ABSI||STI (R531). -/
def execAbsiSti (dst1 src3 : FReg) (dst2 src2 : Ind Unit) (s : State) : Host.Outcome State Fault Refusal :=
  outcome s (intSti (fun m t => absEffect t.st m) dst1 src3 dst2 src2 s)

/-- ADDF3||STF (R532). -/
def execAddf3Stf (dst1 src1 src3 : FReg) (dst2 src2 : Ind Unit) (s : State) : Host.Outcome State Fault Refusal :=
  outcome s (fltStf (fun m t => floatEffect (fadd (readExt src1 t) m)) dst1 src3 dst2 src2 s)

/-- ADDI3||STI (R533). -/
def execAddi3Sti (dst1 src1 src3 : FReg) (dst2 src2 : Ind Unit) (s : State) : Host.Outcome State Fault Refusal :=
  outcome s (intSti (fun m t => addEffect t.st (readInt src1 t) m false) dst1 src3 dst2 src2 s)

/-- AND3||STI (R534). -/
def execAnd3Sti (dst1 src1 src3 : FReg) (dst2 src2 : Ind Unit) (s : State) : Host.Outcome State Fault Refusal :=
  outcome s (intSti (fun m t => logicEffect (readInt src1 t &&& m)) dst1 src3 dst2 src2 s)

/-- ASH3||STI: the memory word is shifted by the count in `src1` (R535). -/
def execAsh3Sti (dst1 src1 src3 : FReg) (dst2 src2 : Ind Unit) (s : State) : Host.Outcome State Fault Refusal :=
  outcome s (intSti (fun m t => ashEffect (readInt src1 t) m) dst1 src3 dst2 src2 s)

/-- FIX||STI (R536). -/
def execFixSti (dst1 src3 : FReg) (dst2 src2 : Ind Unit) (s : State) : Host.Outcome State Fault Refusal :=
  outcome s (intSti (fun m _ => fixEffect (fload m)) dst1 src3 dst2 src2 s)

/-- FLOAT||STF: the memory word is an integer (R537). -/
def execFloatStf (dst1 src3 : FReg) (dst2 src2 : Ind Unit) (s : State) : Host.Outcome State Fault Refusal :=
  outcome s
    (withStore (fun m t => (fstore (readExt src3 t), deliverFlt dst1 (floatEffect (ffloat m)))) dst2 src2 s)

/-- LDF||STF: no flags (R539). -/
def execLdfStf (dst1 src3 : FReg) (dst2 src2 : Ind Unit) (s : State) : Host.Outcome State Fault Refusal :=
  outcome s (withStore (fun m t => (fstore (readExt src3 t), writeExt dst1 (fload m))) dst2 src2 s)

/-- LDI||STI: no flags (R541). -/
def execLdiSti (dst1 src3 : FReg) (dst2 src2 : Ind Unit) (s : State) : Host.Outcome State Fault Refusal :=
  outcome s (withStore (fun m t => (readInt src3 t, writeInt dst1 m)) dst2 src2 s)

/-- LSH3||STI: the memory word is shifted by the count in `src1` (R542). -/
def execLsh3Sti (dst1 src1 src3 : FReg) (dst2 src2 : Ind Unit) (s : State) : Host.Outcome State Fault Refusal :=
  outcome s (intSti (fun m t => lshEffect (readInt src1 t) m) dst1 src3 dst2 src2 s)

/-- MPYF3||STF (R544). -/
def execMpyf3Stf (dst1 src1 src3 : FReg) (dst2 src2 : Ind Unit) (s : State) : Host.Outcome State Fault Refusal :=
  outcome s (fltStf (fun m t => floatEffect (fmul (readExt src1 t) m)) dst1 src3 dst2 src2 s)

/-- MPYI3||STI (R547). -/
def execMpyi3Sti (dst1 src1 src3 : FReg) (dst2 src2 : Ind Unit) (s : State) : Host.Outcome State Fault Refusal :=
  outcome s (intSti (fun m t => mpyEffect t.st (readInt src1 t) m) dst1 src3 dst2 src2 s)

/-- NEGF||STF (R549). -/
def execNegfStf (dst1 src3 : FReg) (dst2 src2 : Ind Unit) (s : State) : Host.Outcome State Fault Refusal :=
  outcome s (fltStf (fun m _ => floatEffect (fneg m)) dst1 src3 dst2 src2 s)

/-- NEGI||STI (R550). -/
def execNegiSti (dst1 src3 : FReg) (dst2 src2 : Ind Unit) (s : State) : Host.Outcome State Fault Refusal :=
  outcome s (intSti (fun m t => subEffect t.st 0#32 m false) dst1 src3 dst2 src2 s)

/-- NOT||STI (R551). -/
def execNotSti (dst1 src3 : FReg) (dst2 src2 : Ind Unit) (s : State) : Host.Outcome State Fault Refusal :=
  outcome s (intSti (fun m _ => logicEffect (~~~m)) dst1 src3 dst2 src2 s)

/-- OR3||STI (R552). -/
def execOr3Sti (dst1 src1 src3 : FReg) (dst2 src2 : Ind Unit) (s : State) : Host.Outcome State Fault Refusal :=
  outcome s (intSti (fun m t => logicEffect (readInt src1 t ||| m)) dst1 src3 dst2 src2 s)

/-- SUBF3||STF: memory minus register (R555). -/
def execSubf3Stf (dst1 src1 src3 : FReg) (dst2 src2 : Ind Unit) (s : State) : Host.Outcome State Fault Refusal :=
  outcome s (fltStf (fun m t => floatEffect (fsub m (readExt src1 t))) dst1 src3 dst2 src2 s)

/-- SUBI3||STI: memory minus register (R556). -/
def execSubi3Sti (dst1 src1 src3 : FReg) (dst2 src2 : Ind Unit) (s : State) : Host.Outcome State Fault Refusal :=
  outcome s (intSti (fun m t => subEffect t.st m (readInt src1 t) false) dst1 src3 dst2 src2 s)

/-- XOR3||STI (R557). -/
def execXor3Sti (dst1 src1 src3 : FReg) (dst2 src2 : Ind Unit) (s : State) : Host.Outcome State Fault Refusal :=
  outcome s (intSti (fun m t => logicEffect (readInt src1 t ^^^ m)) dst1 src3 dst2 src2 s)

end Sys2Proof.Machine
end

