-- ==== Sys2Proof/Machine/System.lean ====
section
/-! DEFINITION. Idle and low-power instructions, interrupt acknowledge, NOP and SWI (45_program_control.md). -/
namespace Sys2Proof.Machine

/-- GIE is set and the CPU goes idle after the instruction (R456, R470). -/
def goIdle (i : Idle) (s : State) : State := { setGie true (advance s) with idle := i }

/-- IDLE (R456). -/
def execIdle (s : State) : Host.Outcome State Fault Refusal := .next (goIdle .idle s)

/-- IDLE2, on the LC31 (R470, U11). -/
def execIdle2 (s : State) : Host.Outcome State Fault Refusal :=
  if s.device = .lc31 then .next (goIdle .idle2 s) else .refused .lowPowerAbsent

/-- LOPOWER, on the LC31: the clock is divided by 16 (R472, U11). -/
def execLopower (s : State) : Host.Outcome State Fault Refusal :=
  if s.device = .lc31 then .next { advance s with lowPower := true } else .refused .lowPowerAbsent

/-- MAXSPEED, on the LC31 (R473, U11). -/
def execMaxspeed (s : State) : Host.Outcome State Fault Refusal :=
  if s.device = .lc31 then .next { advance s with lowPower := false } else .refused .lowPowerAbsent

/-- SWI: the emulator interrupt sequence is nowhere described (R466, U15). -/
def execSwi (_ : State) : Host.Outcome State Fault Refusal := .refused .emulatorInterrupt

/-- The H1 cycle of a step in which a read of `a` that left `t` began. -/
def readStart (a : Addr) (t : State) : Nat :=
  match portOf (region t a) with
  | some p => ((portCycles t p).head?.map (·.start)).getD t.elapsed
  | none => t.elapsed

/-- IACK: a read that is discarded, and a pulse on the pin in the cycle in which the read begins, which a read of several
cycles does not extend. For an on-chip address the pulse is free (R453, N45-1; log 30). A read that never ends has begun. -/
def execIack (src : MemOp) (s : State) : Host.Outcome State Fault Refusal :=
  match memAddr src s with
  | .error e => stop s e
  | .ok (a, s1) =>
    match load a s1 with
    | .ok (_, t) =>
      .next { advance t with
        iack := if offChip s a || freeBit s 25 then some { start := readStart a t, addr := a } else none }
    | .error (.lockup p c) => stop { s with iack := some { start := c.start, addr := a } } (.lockup p c)
    | .error (.stall w) => stop s (.stall w)
    | .error (.refuse r) => stop s (.refuse r)

/-- NOP: an indirect operand updates its register and is read (R454). -/
def execNop (src : NopOp) (s : State) : Host.Outcome State Fault Refusal :=
  match src with
  | .none => .next (advance s)
  | .ind i => outcome s do
    let (_, s1) ← memSrc (.ind i) s
    pure (advance s1)

end Sys2Proof.Machine
end

