-- ==== Sys2Proof/Machine/ThreeOperand.lean ====
section
/-! DEFINITION. The three-operand instructions (44_three_operand.md). -/
namespace Sys2Proof.Machine

/-- ADDC3 (R401). -/
def execAddc3 (src1 src2 : Src3 Reg) (dst : Reg) (s : State) : Host.Outcome State Fault Refusal :=
  outcome s (threeInt (fun st a b => addEffect st a b (stC st)) src1 src2 dst s)

/-- ADDF3 (R402). -/
def execAddf3 (src1 src2 : Src3 FReg) (dst : FReg) (s : State) : Host.Outcome State Fault Refusal :=
  outcome s (threeFlt (fun a b => floatEffect (fadd a b)) src1 src2 dst s)

/-- ADDI3 (R403). -/
def execAddi3 (src1 src2 : Src3 Reg) (dst : Reg) (s : State) : Host.Outcome State Fault Refusal :=
  outcome s (threeInt (fun st a b => addEffect st a b false) src1 src2 dst s)

/-- AND3 (R404). -/
def execAnd3 (src1 src2 : Src3 Reg) (dst : Reg) (s : State) : Host.Outcome State Fault Refusal :=
  outcome s (threeInt (fun _ a b => logicEffect (a &&& b)) src1 src2 dst s)

/-- ANDN3: src2 is complemented (R405). -/
def execAndn3 (src1 src2 : Src3 Reg) (dst : Reg) (s : State) : Host.Outcome State Fault Refusal :=
  outcome s (threeInt (fun _ a b => logicEffect (a &&& ~~~b)) src1 src2 dst s)

/-- ASH3: src1 is shifted by the count in src2 (R406). -/
def execAsh3 (src1 src2 : Src3 Reg) (dst : Reg) (s : State) : Host.Outcome State Fault Refusal :=
  outcome s (threeInt (fun _ a b => ashEffect b a) src1 src2 dst s)

/-- CMPF3 (R407). -/
def execCmpf3 (src1 src2 : Src3 FReg) (s : State) : Host.Outcome State Fault Refusal :=
  outcome s do
    let (a, b, s1) ← srcPairFlt src1 src2 s
    pure (advance (applyFlags (floatFlags (fsub a b)) s1))

/-- CMPI3 (R408). -/
def execCmpi3 (src1 src2 : Src3 Reg) (s : State) : Host.Outcome State Fault Refusal :=
  outcome s do
    let (a, b, s1) ← srcPairInt src1 src2 s
    pure (advance (applyFlags (cmpFlags a b) s1))

/-- LSH3: src1 is shifted by the count in src2 (R409). -/
def execLsh3 (src1 src2 : Src3 Reg) (dst : Reg) (s : State) : Host.Outcome State Fault Refusal :=
  outcome s (threeInt (fun _ a b => lshEffect b a) src1 src2 dst s)

/-- MPYF3 (R410). -/
def execMpyf3 (src1 src2 : Src3 FReg) (dst : FReg) (s : State) : Host.Outcome State Fault Refusal :=
  outcome s (threeFlt (fun a b => floatEffect (fmul a b)) src1 src2 dst s)

/-- MPYI3 (R411). -/
def execMpyi3 (src1 src2 : Src3 Reg) (dst : Reg) (s : State) : Host.Outcome State Fault Refusal :=
  outcome s (threeInt (fun st a b => mpyEffect st a b) src1 src2 dst s)

/-- OR3 (R412). -/
def execOr3 (src1 src2 : Src3 Reg) (dst : Reg) (s : State) : Host.Outcome State Fault Refusal :=
  outcome s (threeInt (fun _ a b => logicEffect (a ||| b)) src1 src2 dst s)

/-- SUBB3 (R413). -/
def execSubb3 (src1 src2 : Src3 Reg) (dst : Reg) (s : State) : Host.Outcome State Fault Refusal :=
  outcome s (threeInt (fun st a b => subEffect st a b (stC st)) src1 src2 dst s)

/-- SUBF3 (R414). -/
def execSubf3 (src1 src2 : Src3 FReg) (dst : FReg) (s : State) : Host.Outcome State Fault Refusal :=
  outcome s (threeFlt (fun a b => floatEffect (fsub a b)) src1 src2 dst s)

/-- SUBI3 (R415). -/
def execSubi3 (src1 src2 : Src3 Reg) (dst : Reg) (s : State) : Host.Outcome State Fault Refusal :=
  outcome s (threeInt (fun st a b => subEffect st a b false) src1 src2 dst s)

/-- TSTB3 (R416). -/
def execTstb3 (src1 src2 : Src3 Reg) (s : State) : Host.Outcome State Fault Refusal :=
  outcome s do
    let (a, b, s1) ← srcPairInt src1 src2 s
    pure (advance (applyFlags (logicFlags (a &&& b)) s1))

/-- XOR3 (R417). -/
def execXor3 (src1 src2 : Src3 Reg) (dst : Reg) (s : State) : Host.Outcome State Fault Refusal :=
  outcome s (threeInt (fun _ a b => logicEffect (a ^^^ b)) src1 src2 dst s)

end Sys2Proof.Machine
end

