-- ==== Sys2Proof/Machine/Dispatch.lean ====
section
/-! DEFINITION. One arm for each instruction, each a call of its meaning. -/
namespace Sys2Proof.Machine

/-- The meaning of an instruction at a state whose PC is its address (R440). -/
def exec (i : Instr) (s : State) : Host.Outcome State Fault Refusal :=
  match i with
  | .absf src dst => Sys2Proof.Machine.execAbsf src dst s
  | .absi src dst => Sys2Proof.Machine.execAbsi src dst s
  | .addc src dst => Sys2Proof.Machine.execAddc src dst s
  | .addf src dst => Sys2Proof.Machine.execAddf src dst s
  | .addi src dst => Sys2Proof.Machine.execAddi src dst s
  | .and src dst => Sys2Proof.Machine.execAnd src dst s
  | .andn src dst => Sys2Proof.Machine.execAndn src dst s
  | .ash src dst => Sys2Proof.Machine.execAsh src dst s
  | .cmpf src dst => Sys2Proof.Machine.execCmpf src dst s
  | .cmpi src dst => Sys2Proof.Machine.execCmpi src dst s
  | .fix src dst => Sys2Proof.Machine.execFix src dst s
  | .float src dst => Sys2Proof.Machine.execFloat src dst s
  | .lde src dst => Sys2Proof.Machine.execLde src dst s
  | .ldf src dst => Sys2Proof.Machine.execLdf src dst s
  | .ldi src dst => Sys2Proof.Machine.execLdi src dst s
  | .ldm src dst => Sys2Proof.Machine.execLdm src dst s
  | .lsh src dst => Sys2Proof.Machine.execLsh src dst s
  | .mpyf src dst => Sys2Proof.Machine.execMpyf src dst s
  | .mpyi src dst => Sys2Proof.Machine.execMpyi src dst s
  | .negb src dst => Sys2Proof.Machine.execNegb src dst s
  | .negf src dst => Sys2Proof.Machine.execNegf src dst s
  | .negi src dst => Sys2Proof.Machine.execNegi src dst s
  | .norm src dst => Sys2Proof.Machine.execNorm src dst s
  | .not src dst => Sys2Proof.Machine.execNot src dst s
  | .or src dst => Sys2Proof.Machine.execOr src dst s
  | .rnd src dst => Sys2Proof.Machine.execRnd src dst s
  | .subb src dst => Sys2Proof.Machine.execSubb src dst s
  | .subc src dst => Sys2Proof.Machine.execSubc src dst s
  | .subf src dst => Sys2Proof.Machine.execSubf src dst s
  | .subi src dst => Sys2Proof.Machine.execSubi src dst s
  | .subrb src dst => Sys2Proof.Machine.execSubrb src dst s
  | .subrf src dst => Sys2Proof.Machine.execSubrf src dst s
  | .subri src dst => Sys2Proof.Machine.execSubri src dst s
  | .tstb src dst => Sys2Proof.Machine.execTstb src dst s
  | .xor src dst => Sys2Proof.Machine.execXor src dst s
  | .ldfi src dst => Sys2Proof.Machine.execLdfi src dst s
  | .ldii src dst => Sys2Proof.Machine.execLdii src dst s
  | .stf src dst => Sys2Proof.Machine.execStf src dst s
  | .stfi src dst => Sys2Proof.Machine.execStfi src dst s
  | .sti src dst => Sys2Proof.Machine.execSti src dst s
  | .stii src dst => Sys2Proof.Machine.execStii src dst s
  | .pop dst => Sys2Proof.Machine.execPop dst s
  | .popf dst => Sys2Proof.Machine.execPopf dst s
  | .push src => Sys2Proof.Machine.execPush src s
  | .pushf src => Sys2Proof.Machine.execPushf src s
  | .rol dst => Sys2Proof.Machine.execRol dst s
  | .rolc dst => Sys2Proof.Machine.execRolc dst s
  | .ror dst => Sys2Proof.Machine.execRor dst s
  | .rorc dst => Sys2Proof.Machine.execRorc dst s
  | .rpts src => Sys2Proof.Machine.execRpts src s
  | .iack src => Sys2Proof.Machine.execIack src s
  | .nop src => Sys2Proof.Machine.execNop src s
  | .ldp dst imm => Sys2Proof.Machine.execLdp dst imm s
  | .idle => Sys2Proof.Machine.execIdle s
  | .idle2 => Sys2Proof.Machine.execIdle2 s
  | .maxspeed => Sys2Proof.Machine.execMaxspeed s
  | .lopower => Sys2Proof.Machine.execLopower s
  | .sigi => Sys2Proof.Machine.execSigi s
  | .swi => Sys2Proof.Machine.execSwi s
  | .addc3 src1 src2 dst => Sys2Proof.Machine.execAddc3 src1 src2 dst s
  | .addf3 src1 src2 dst => Sys2Proof.Machine.execAddf3 src1 src2 dst s
  | .addi3 src1 src2 dst => Sys2Proof.Machine.execAddi3 src1 src2 dst s
  | .and3 src1 src2 dst => Sys2Proof.Machine.execAnd3 src1 src2 dst s
  | .andn3 src1 src2 dst => Sys2Proof.Machine.execAndn3 src1 src2 dst s
  | .ash3 src1 src2 dst => Sys2Proof.Machine.execAsh3 src1 src2 dst s
  | .cmpf3 src1 src2 => Sys2Proof.Machine.execCmpf3 src1 src2 s
  | .cmpi3 src1 src2 => Sys2Proof.Machine.execCmpi3 src1 src2 s
  | .lsh3 src1 src2 dst => Sys2Proof.Machine.execLsh3 src1 src2 dst s
  | .mpyf3 src1 src2 dst => Sys2Proof.Machine.execMpyf3 src1 src2 dst s
  | .mpyi3 src1 src2 dst => Sys2Proof.Machine.execMpyi3 src1 src2 dst s
  | .or3 src1 src2 dst => Sys2Proof.Machine.execOr3 src1 src2 dst s
  | .subb3 src1 src2 dst => Sys2Proof.Machine.execSubb3 src1 src2 dst s
  | .subf3 src1 src2 dst => Sys2Proof.Machine.execSubf3 src1 src2 dst s
  | .subi3 src1 src2 dst => Sys2Proof.Machine.execSubi3 src1 src2 dst s
  | .tstb3 src1 src2 => Sys2Proof.Machine.execTstb3 src1 src2 s
  | .xor3 src1 src2 dst => Sys2Proof.Machine.execXor3 src1 src2 dst s
  | .ldfCond c src dst => Sys2Proof.Machine.execLdfCond c src dst s
  | .ldiCond c src dst => Sys2Proof.Machine.execLdiCond c src dst s
  | .br target => Sys2Proof.Machine.execBr target s
  | .brd target => Sys2Proof.Machine.execBrd target s
  | .call target => Sys2Proof.Machine.execCall target s
  | .rptb target => Sys2Proof.Machine.execRptb target s
  | .bCond c target => Sys2Proof.Machine.execBCond c target s
  | .bCondD c target => Sys2Proof.Machine.execBCondD c target s
  | .dbCond n c target => Sys2Proof.Machine.execDbCond n c target s
  | .dbCondD n c target => Sys2Proof.Machine.execDbCondD n c target s
  | .callCond c target => Sys2Proof.Machine.execCallCond c target s
  | .trapCond c n => Sys2Proof.Machine.execTrapCond c n s
  | .retiCond c => Sys2Proof.Machine.execRetiCond c s
  | .retsCond c => Sys2Proof.Machine.execRetsCond c s
  | .mpyf3_addf3 p d1 d2 src1 src2 src3 src4 => Sys2Proof.Machine.execMpyf3Addf3 p d1 d2 src1 src2 src3 src4 s
  | .mpyf3_subf3 p d1 d2 src1 src2 src3 src4 => Sys2Proof.Machine.execMpyf3Subf3 p d1 d2 src1 src2 src3 src4 s
  | .mpyi3_addi3 p d1 d2 src1 src2 src3 src4 => Sys2Proof.Machine.execMpyi3Addi3 p d1 d2 src1 src2 src3 src4 s
  | .mpyi3_subi3 p d1 d2 src1 src2 src3 src4 => Sys2Proof.Machine.execMpyi3Subi3 p d1 d2 src1 src2 src3 src4 s
  | .stf_stf src2 src1 dst1 dst2 => Sys2Proof.Machine.execStfStf src2 src1 dst1 dst2 s
  | .sti_sti src2 src1 dst1 dst2 => Sys2Proof.Machine.execStiSti src2 src1 dst1 dst2 s
  | .ldf_ldf dst2 dst1 src1 src2 => Sys2Proof.Machine.execLdfLdf dst2 dst1 src1 src2 s
  | .ldi_ldi dst2 dst1 src1 src2 => Sys2Proof.Machine.execLdiLdi dst2 dst1 src1 src2 s
  | .absf_stf dst1 src3 dst2 src2 => Sys2Proof.Machine.execAbsfStf dst1 src3 dst2 src2 s
  | .absi_sti dst1 src3 dst2 src2 => Sys2Proof.Machine.execAbsiSti dst1 src3 dst2 src2 s
  | .addf3_stf dst1 src1 src3 dst2 src2 => Sys2Proof.Machine.execAddf3Stf dst1 src1 src3 dst2 src2 s
  | .addi3_sti dst1 src1 src3 dst2 src2 => Sys2Proof.Machine.execAddi3Sti dst1 src1 src3 dst2 src2 s
  | .and3_sti dst1 src1 src3 dst2 src2 => Sys2Proof.Machine.execAnd3Sti dst1 src1 src3 dst2 src2 s
  | .ash3_sti dst1 src1 src3 dst2 src2 => Sys2Proof.Machine.execAsh3Sti dst1 src1 src3 dst2 src2 s
  | .fix_sti dst1 src3 dst2 src2 => Sys2Proof.Machine.execFixSti dst1 src3 dst2 src2 s
  | .float_stf dst1 src3 dst2 src2 => Sys2Proof.Machine.execFloatStf dst1 src3 dst2 src2 s
  | .ldf_stf dst1 src3 dst2 src2 => Sys2Proof.Machine.execLdfStf dst1 src3 dst2 src2 s
  | .ldi_sti dst1 src3 dst2 src2 => Sys2Proof.Machine.execLdiSti dst1 src3 dst2 src2 s
  | .lsh3_sti dst1 src1 src3 dst2 src2 => Sys2Proof.Machine.execLsh3Sti dst1 src1 src3 dst2 src2 s
  | .mpyf3_stf dst1 src1 src3 dst2 src2 => Sys2Proof.Machine.execMpyf3Stf dst1 src1 src3 dst2 src2 s
  | .mpyi3_sti dst1 src1 src3 dst2 src2 => Sys2Proof.Machine.execMpyi3Sti dst1 src1 src3 dst2 src2 s
  | .negf_stf dst1 src3 dst2 src2 => Sys2Proof.Machine.execNegfStf dst1 src3 dst2 src2 s
  | .negi_sti dst1 src3 dst2 src2 => Sys2Proof.Machine.execNegiSti dst1 src3 dst2 src2 s
  | .not_sti dst1 src3 dst2 src2 => Sys2Proof.Machine.execNotSti dst1 src3 dst2 src2 s
  | .or3_sti dst1 src1 src3 dst2 src2 => Sys2Proof.Machine.execOr3Sti dst1 src1 src3 dst2 src2 s
  | .subf3_stf dst1 src1 src3 dst2 src2 => Sys2Proof.Machine.execSubf3Stf dst1 src1 src3 dst2 src2 s
  | .subi3_sti dst1 src1 src3 dst2 src2 => Sys2Proof.Machine.execSubi3Sti dst1 src1 src3 dst2 src2 s
  | .xor3_sti dst1 src1 src3 dst2 src2 => Sys2Proof.Machine.execXor3Sti dst1 src1 src3 dst2 src2 s

end Sys2Proof.Machine
end

