-- ==== Sys2Proof/Machine/Fetch.lean ====
section
/-! DEFINITION. Fetching an instruction word: the held word, the cache, memory, and stores just made (R98 to R108). -/
namespace Sys2Proof.Machine

/-- The segment address of an instruction address (R100). -/
def segmentOf (a : Addr) : BitVec 19 := a.extractLsb' 5 19

/-- The word index of an instruction address (R100). -/
def indexOf (a : Addr) : BitVec 5 := a.extractLsb' 0 5

/-- A segment holds the word at an address (R102). -/
def Segment.hits (g : Segment) (a : Addr) : Bool := g.ssa == segmentOf a && g.present.getLsbD (indexOf a).toNat

/-- The cached word at an address (R102). -/
def Segment.word (g : Segment) (a : Addr) : Word := g.words[(indexOf a).toNat]

/-- A word put into a segment that holds its part of memory (R103). -/
def Segment.put (g : Segment) (a : Addr) (w : Word) : Segment :=
  { g with present := setBit g.present (indexOf a).toNat true, words := g.words.set (indexOf a).toNat w }

/-- A segment taken over for another part of memory (R104). -/
def Segment.take (g : Segment) (a : Addr) : Segment := { g with ssa := segmentOf a, present := 0#32 }

/-- The cache finds the word at an address: segment 0 first (R102, D7). -/
def Cache.find (c : Cache) (a : Addr) : Option (Bool × Word) :=
  if c.seg0.hits a then some (false, c.seg0.word a)
  else if c.seg1.hits a then some (true, c.seg1.word a)
  else none

/-- The cache after a miss: into the segment that holds that part of memory, segment 0 first, else into the least
recently used one (R103, R104, D7). -/
def Cache.fill (c : Cache) (a : Addr) (w : Word) : Cache :=
  if c.seg0.ssa = segmentOf a then { c with seg0 := c.seg0.put a w, mru := false }
  else if c.seg1.ssa = segmentOf a then { c with seg1 := c.seg1.put a w, mru := true }
  else if c.mru then { c with seg0 := (c.seg0.take a).put a w, mru := false }
  else { c with seg1 := (c.seg1.take a).put a w, mru := true }

/-- A segment without the word at an address. -/
def Segment.drop (g : Segment) (a : Addr) : Segment := { g with present := setBit g.present (indexOf a).toNat false }

/-- A cache without the word at an address. -/
def Cache.drop (c : Cache) (a : Addr) : Cache := { c with seg0 := c.seg0.drop a, seg1 := c.seg1.drop a }

/-- The ROM with a word at an address, lengthened as far as that takes. -/
def romPut (rom : List Word) (a : Nat) (v : Word) : List Word := (rom ++ List.replicate (a + 1 - rom.length) 0#32).set a v

/-- ST.CE: the cache is enabled (R108). -/
def cacheEnabled (s : State) : Bool := s.st.getLsbD 11

/-- ST.CF: the cache is frozen (R108). -/
def cacheFrozen (s : State) : Bool := s.st.getLsbD 10

/-- Whether an address is on an external bus, so that its fetch uses the cache (R101). -/
def fetchExternal (s : State) (a : Addr) : Bool :=
  offChip s a

/-- The word a fetch sees at an address whose memory word is `w`: where one of the last three instructions stored
there, the fetch may have begun before the store (D6). `k` numbers the free bits. DESIGN CHOICE, unsafe (log 24): a store
of the DMA controller is seen by every fetch that the model makes after it (R98 (a), (b)), also where the device may have
begun that fetch before. -/
def fetchSees (s : State) (a : Addr) : Word → Nat → List RecentStore → Word
  | w, _, [] => w
  | w, k, e :: es =>
    if e.addr = a then (if freeBit s k then fetchSees s a e.old (k + 1) es else w)
    else fetchSees s a w k es

/-- A fetch from memory, for the CPU or one it does not need (R82, D5, D6). DESIGN CHOICE, unsafe (log 24): where MC/MP has risen
since one of the last three instructions stored to external memory at 0h to FFFh, the fetch of that address gives the word of
the ROM or, free, the word that was in external memory before that store; R131 asks that such addresses be left alone then. -/
def fetchMemory (k : Access) (a : Addr) (s : State) : Except Stop (Word × State) := do
  let (w, s1) ← loadFor k a s
  pure (fetchSees s a w 50 s.recentStores, s1)

/-- A fetch from an address, through the cache where it is enabled (R101 to R108). -/
def fetchAt (k : Access) (a : Addr) (s : State) : Except Stop (Word × State) :=
  if cacheEnabled s && fetchExternal s a then
    match s.cache.find a with
    | some (seg, w) => .ok (w, if cacheFrozen s then s else { s with cache := { s.cache with mru := seg } })
    | none => do
      let (w, s1) ← fetchMemory k a s
      pure (w, if cacheFrozen s then s1 else { s1 with cache := s1.cache.fill a w })
  else fetchMemory k a s

/-- Fetches that return nothing to the CPU, each at its distance from an address: refetches, and fetches of the words that
follow. They are accesses like any other, on their bus and in the cache; one that cannot be made is left out (R92, R832,
R854, D5). -/
def extraFetches (a : Addr) : List (Fin 4) → State → State
  | [], s => s
  | d :: ds, s =>
    match fetchAt .extra (a + BitVec.ofNat 24 d.val) s with
    | .ok (_, t) => extraFetches a ds t
    | .error _ => extraFetches a ds s

/-- The fetches beyond its own that the environment lets the fetch from an address bring (D5, log 24). -/
def fetchExtra (a : Addr) (s : State) : State :=
  extraFetches a (s.env.extraFetches.headD []) { s with env := { s.env with extraFetches := s.env.extraFetches.drop 1 } }

/-- The word to run: the held one where an instruction is repeated or waits, else the one at the PC (R643). -/
def fetch (s : State) : Except Stop (Word × State) :=
  match s.ir with
  | some w => .ok (w, s)
  | none => (fetchAt .fetch s.pc s).map fun x => (x.1, fetchExtra s.pc x.2)

/-- The pipeline is flushed: no store is still ahead of a fetch, and direct loads of the repeat registers have taken hold
(R832, R833, D6). -/
def flush (s : State) : State := { s with recentStores := [], loopLoad := 0 }

end Sys2Proof.Machine
end

