-- ==== Sys2Proof/Machine/Ticks.lean ====
section
/-! DEFINITION. What the pins, the peripherals and the DMA controller do in one H1 cycle (R602 step 2, R612, R613). -/
namespace Sys2Proof.Machine

/-- The pins take the next entry of their schedule (R686, log 5). -/
def pinCycle (s : State) : State :=
  match s.env.pinSchedule with
  | [] => s
  | p :: ps => { s with pins := p, env := { s.env with pinSchedule := ps } }

/-- One H1 cycle of an interrupt pin's synchroniser: the level shifts through three flip-flops. The flag is set in every
cycle the level comes out low, but for the second one of a run whose flag has been acknowledged meanwhile: a level that is
low for one or two cycles is one interrupt (R612, R615, R618; log 14). -/
def syncCycle (x : IntSync) (pin : Bool) : IntSync × Bool :=
  let run := if x.stages.getLsbD 2 then 0 else x.lowRun + 1
  ({ stages := x.stages.extractLsb' 0 2 ++ BitVec.ofBool pin, lowRun := run, acked := x.acked && 2 ≤ run },
    run == 1 || (run == 2 && !x.acked) || 3 ≤ run)

/-- One bit in an 11-bit set of interrupt flags. -/
def flagBit (i : Nat) (b : Bool) : BitVec 11 := if b then 1#11 <<< i else 0#11

/-- The four external interrupt pins (R612). -/
def intCycle (s : State) : State :=
  let a := syncCycle s.sync0 s.pins.int0
  let b := syncCycle s.sync1 s.pins.int1
  let c := syncCycle s.sync2 s.pins.int2
  let d := syncCycle s.sync3 s.pins.int3
  raiseFlags (flagBit 0 a.2 ||| flagBit 1 b.2 ||| flagBit 2 c.2 ||| flagBit 3 d.2)
    { s with sync0 := a.1, sync1 := b.1, sync2 := c.1, sync3 := d.1 }

/-- The two timers (R695). -/
def timersCycle (s : State) : State :=
  let a := timerCycle s.timer0 s.pins.tclk0
  let b := timerCycle s.timer1 s.pins.tclk1
  raiseFlags (flagBit 8 a.2 ||| flagBit 9 b.2) { s with timer0 := a.1, timer1 := b.1 }

/-- Serial port 0, and serial port 1 on a C30 (R743). -/
def portsCycle (s : State) : State :=
  let a := serialCycle s.port0 s.pins.port0
  let s1 := raiseFlags (flagBit 4 a.2.1 ||| flagBit 5 a.2.2) { s with port0 := a.1 }
  if s.device = .c30 then
    let b := serialCycle s.port1 s.pins.port1
    raiseFlags (flagBit 6 b.2.1 ||| flagBit 7 b.2.2) { s1 with port1 := b.1 }
  else s1

/-- An external interrupt pin is low (R471). -/
def anyIntLow (s : State) : Bool := !s.pins.int0 || !s.pins.int1 || !s.pins.int2 || !s.pins.int3

/-- Words that another bus master writes to the external memory of the primary bus, also behind the ROM (R97, R672; log 5). -/
def masterWrite (s : State) (m : List Host.Cell) : List (Addr × Word) → List Host.Cell
  | [] => m
  | (a, v) :: l => masterWrite s (if onPrimaryBus s a then memWriteWord m a v else m) l

/-- While the primary bus is held, and its last access is over, other masters write what the environment says (R97, R672,
R862). -/
def masterCycle (s : State) : State :=
  if holdState s then
    { s with
      mem := masterWrite s s.mem (s.env.masterWrites.headD [])
      env := { s.env with masterWrites := s.env.masterWrites.drop 1 } }
  else s

/-- One H1 cycle passes: what was due in it is past. -/
def TimedAddr.later (x : TimedAddr) : Option TimedAddr := if x.start = 0 then none else some { x with start := x.start - 1 }

/-- A write over STRB or MSTRB is over with this cycle (R681). -/
def writeEnds (s : State) (l : List BusCycle) : Bool := l.any fun c => memoryWrite s c && c.stop == some 1

/-- An H1 cycle is over: the accesses on the ports and what else is due is one cycle nearer, what the receivers did is past, and
the address lines hold what they carried (R470, R681). -/
def endCycle (s : State) : State :=
  { s with
    primary := ageCycles s.primary, expansion := ageCycles s.expansion
    primaryWrote := writeEnds s s.primary, expansionWrote := writeEnds s s.expansion
    lineAddr := (addressOn s.primary).map (·.addr)
    onChip := s.onChip.filterMap (·.later), iack := s.iack.bind (·.later), xf0Next := s.xf0Next.drop 1
    port0 := portEnded s.port0, port1 := portEnded s.port1 }

/-- One H1 cycle with the pins as they stand: everything that runs on the clock, then the pins move. `last` says that the
next instruction boundary follows. In IDLE2 the clock stands still; an interrupt pin restarts it for the next cycle (R470,
R471), and other masters may use a bus that is held (R672). -/
def tick (last : Bool) (s : State) : Except Stop State :=
  let s1 := { s with freeCount := s.freeCount + freeStride, shared := 0#11 }
  if s1.idle = .stopped then
    .ok (pinCycle (masterCycle (if anyIntLow s1 then { s1 with idle := .idle } else s1)))
  else (dmaCycle last (portsCycle (timersCycle (intCycle (masterCycle s1))))).map fun t => pinCycle (endCycle t)

/-- Several H1 cycles, ended by a low RESET (R602, R800). -/
def ticks : Nat → State → Except Stop State
  | 0, s => .ok s
  | n + 1, s =>
    if s.pins.reset then
      match tick (n == 0) s with
      | .ok t => ticks n t
      | .error e => .error e
    else .ok s

/-- The clocks stop once the cycles of an IDLE2 are over (R470; log 25). -/
def stopClocks (s : State) : State := if s.idle = .idle2 then { s with idle := .stopped } else s

/-- The cycles of the previous step pass, and a new account of time begins (R602 step 2). -/
def passTime (s : State) : Except Stop State :=
  (ticks s.elapsed { s with elapsed := 0, ifSet := 0#11 }).map fun t => stopClocks { t with ifWritten := false }

end Sys2Proof.Machine
end

