-- ==== Sys2Proof/Machine/Reset.lean ====
section
/-! DEFINITION. The RESET pin: what its falling does, how long it is low, and the reset vector (R800 to R816). -/
namespace Sys2Proof.Machine

/-- The first word of on-chip RAM (R82). -/
def ramBase : Nat := 0x809800

/-- The number of words of on-chip RAM (R82). -/
def ramWords : Nat := 2048

/-- Memory whose first `n` words of on-chip RAM are free values (D29, U1). -/
def freeRam (s : State) : Nat → List Host.Cell → List Host.Cell
  | 0, m => m
  | n + 1, m => freeRam s n (memWriteWord m (BitVec.ofNat 24 (ramBase + n)) (freeWord s (1000 + n)))

/-- External memory with the writes that are still in progress when RESET falls, the latest first: each may have been
completed or not, and a port completes its writes in order (R815, U28). -/
def inFlight (s : State) : Nat → List BusCycle → List Host.Cell → List Host.Cell
  | _, [], m => m
  | k, c :: cs, m =>
    if c.write then (if freeBit s k then inFlight s (k + 1) cs (memWriteWord m c.addr c.old) else m)
    else inFlight s k cs m

/-- Eight free extended-precision values. -/
def freeExts (s : State) : Vector Ext 8 := Vector.ofFn fun i => Config.freeExt (s.freeCount + i.val)

/-- Eight free words. -/
def freeWords (s : State) (k : Nat) : Vector Word 8 := Vector.ofFn fun i => freeWord s (k + i.val)

/-- A serial port after RESET: DXR and DRR are free (R806). The environment keeps its frames (D27). -/
def resetPort (p : SerialPort) (dxr drr : Word) : SerialPort :=
  { SerialPort.reset with dxr := dxr, drr := drr, rxQueue := p.rxQueue, txDelays := p.txDelays, sent := p.sent }

/-- A segment after RESET: no word present, its address and its words, from free value `k` on, are free (R65, R803). -/
def resetSegment (s : State) (k : Nat) (ssa : Word) : Segment :=
  { ssa := ssa.extractLsb' 0 19, present := 0#32, words := Vector.ofFn fun i => freeWord s (k + i.val) }

/-- RESET falls: everything reset loads is loaded; the registers, the on-chip RAM and the other state it does not name
are free (R800 to R807, R815, D29). The pins, the device and the external memory stay. -/
def resetState (s : State) : State :=
  { State.reset with
    device := s.device, pins := s.pins, env := s.env, rom := s.rom
    r := freeExts s, ar := freeWords s 100, dp := freeWord s 110, ir0 := freeWord s 111, ir1 := freeWord s 112
    bk := freeWord s 113, sp := freeWord s 114, rs := freeWord s 115, re := freeWord s 116, rc := freeWord s 117
    mem := freeRam s ramWords (inFlight s 400 s.expansion (inFlight s 200 s.primary s.mem))
    cache := { seg0 := resetSegment s 3100 (freeWord s 118), seg1 := resetSegment s 3200 (freeWord s 119), mru := false }
    port0 := resetPort s.port0 (freeWord s 120) (freeWord s 121)
    port1 := resetPort s.port1 (freeWord s 122) (freeWord s 123)
    sync0 := s.sync0, sync1 := s.sync1, sync2 := s.sync2, sync3 := s.sync3
    pc := s.pc, freeCount := s.freeCount }

/-- The pins as the next H1 cycle has them. -/
def nextPins (s : State) : State :=
  { s with pins := s.env.pinSchedule.headD s.pins, env := { s.env with pinSchedule := s.env.pinSchedule.drop 1 } }

/-- One H1 cycle with RESET low: the first resets the machine; the interrupt synchronisers follow their pins, and IF stays 0
(R800, R802, R804, log 17). Reset has no effect on a hold, nor on what other masters do with the bus then (R672, R801). -/
def resetCycle (s : State) : State :=
  let u := masterCycle { s with elapsed := 0 }
  let t := if s.resetLow = 0 then resetState u else u
  nextPins { t with
    resetLow := s.resetLow + 1, freeCount := s.freeCount + freeStride
    sync0 := (syncCycle t.sync0 s.pins.int0).1, sync1 := (syncCycle t.sync1 s.pins.int1).1
    sync2 := (syncCycle t.sync2 s.pins.int2).1, sync3 := (syncCycle t.sync3 s.pins.int3).1 }

/-- RESET is high again: the reset vector is due. -/
def boot (s : State) : State := { s with resetLow := 0, booting := true }

/-- The PC is loaded from location 0, with the wait states of that read (R664, R808). -/
def loadReset (s : State) : Except Stop State := do
  let (a, s1) ← vector 0#24 s
  pure { s1 with pc := a, booting := false, elapsed := s1.elapsed + 1, stalled := none }

end Sys2Proof.Machine
end

