-- ==== Sys2Proof/Machine/Cycle.lean ====
section
/-! DEFINITION. What surrounds an instruction in a step: hazards, repeat modes, delayed branches, the account of time,
interrupts (R602, R621, R626, R642 to R645, R447). -/
namespace Sys2Proof.Machine

/-! ## Kinds of control flow -/

/-- How an instruction bears on the PC, as the rules on delay slots, repeats and time tell them apart; with the condition
under which it does, and the register a decrementing branch counts in. -/
inductive Flow where
  | plain
  | nop
  | branch (c : Cond)
  | countBranch (n : BitVec 3) (c : Cond)
  | longCall (c : Cond)
  | trap (c : Cond)
  | delayed
  | repeats
  | idles
  deriving DecidableEq, Repr

/-- The kind of an instruction (R447, R645, R832). -/
def flowOf : Instr → Flow
  | .nop .. => .nop
  | .br .. | .call .. => .branch .u
  | .bCond c _ => .branch c
  | .retiCond c => .branch c
  | .retsCond c => .branch c
  | .dbCond n c _ => .countBranch n c
  | .callCond c _ => .longCall c
  | .trapCond c _ => .trap c
  | .brd .. | .bCondD .. | .dbCondD .. => .delayed
  | .rptb .. | .rpts .. => .repeats
  | .idle | .idle2 => .idles
  | .absf .. | .absi .. | .addc .. | .addf .. | .addi .. | .and .. | .andn .. | .ash .. | .cmpf .. | .cmpi ..
  | .fix .. | .float .. | .lde .. | .ldf .. | .ldi .. | .ldm .. | .lsh .. | .mpyf .. | .mpyi .. | .negb ..
  | .negf .. | .negi .. | .norm .. | .not .. | .or .. | .rnd .. | .subb .. | .subc .. | .subf .. | .subi ..
  | .subrb .. | .subrf .. | .subri .. | .tstb .. | .xor .. | .ldfi .. | .ldii .. | .stf .. | .stfi .. | .sti ..
  | .stii .. | .pop .. | .popf .. | .push .. | .pushf .. | .rol .. | .rolc .. | .ror .. | .rorc .. | .iack ..
  | .ldp .. | .maxspeed | .lopower | .sigi | .swi | .addc3 .. | .addf3 .. | .addi3 .. | .and3 .. | .andn3 ..
  | .ash3 .. | .cmpf3 .. | .cmpi3 .. | .lsh3 .. | .mpyf3 .. | .mpyi3 .. | .or3 .. | .subb3 .. | .subf3 ..
  | .subi3 .. | .tstb3 .. | .xor3 .. | .ldfCond .. | .ldiCond .. | .mpyf3_addf3 .. | .mpyf3_subf3 ..
  | .mpyi3_addi3 .. | .mpyi3_subi3 .. | .stf_stf .. | .sti_sti .. | .ldf_ldf .. | .ldi_ldi .. | .absf_stf ..
  | .absi_sti .. | .addf3_stf .. | .addi3_sti .. | .and3_sti .. | .ash3_sti .. | .fix_sti .. | .float_stf ..
  | .ldf_stf .. | .ldi_sti .. | .lsh3_sti .. | .mpyf3_stf .. | .mpyi3_sti .. | .negf_stf .. | .negi_sti ..
  | .not_sti .. | .or3_sti .. | .subf3_stf .. | .subi3_sti .. | .xor3_sti .. => .plain

/-- The "Cycles" figure of an instruction (R855). For IDLE it is the 1 of its page (R456), which the environment's extra
cycles may bring to the 4 that R855 lists. DESIGN CHOICE, safe (log 19). -/
def figure : Flow → Nat
  | .plain => 1
  | .nop => 1
  | .branch _ => 4
  | .countBranch _ _ => 4
  | .longCall _ => 5
  | .trap _ => 5
  | .delayed => 1
  | .repeats => 4
  | .idles => 1

/-- Whether an instruction is one of those that may not stand in a delay slot or end a repeat block (R447, R645). -/
def transfers : Flow → Bool
  | .plain => false
  | .nop => false
  | .branch _ => true
  | .countBranch _ _ => true
  | .longCall _ => true
  | .trap _ => true
  | .delayed => true
  | .repeats => true
  | .idles => true

/-! ## Hazards -/

/-- Bits 23-0 of RE (R55). -/
def reAddr (s : State) : Addr := s.re.extractLsb' 0 24

/-- The refusals of R447, R645 and R833, decided before an instruction runs (U10, U20; log 15, log 22). -/
def hazard (i : Instr) (s : State) : Option Refusal :=
  if s.delay.isSome && transfers (flowOf i) then some .branchInDelaySlot
  else if s.st.getLsbD 8 then
    if s.repS then (if transfers (flowOf i) then some .branchAtRepeatEnd else none)
    else if s.loopLoad ≠ 0 ∧ (s.pc = reAddr s ∨ s.pc ∈ s.loopOldRes) then some .repeatRegistersUnflushed
    else if s.pc = reAddr s ∧ transfers (flowOf i) = true then some .branchAtRepeatEnd
    else if flowOf i = .delayed ∧ (reAddr s - s.pc).toNat ≤ 3 then some .branchAtRepeatEnd
    else none
  else none

/-! ## After an instruction -/

/-- A repeat mode ends by count: RM and S are 0 and execution goes on after `a`. -/
def leaveRepeat (a : Addr) (rc : Word) (s : State) : State := { setRm false s with rc := rc, repS := false, pc := a + 1 }

/-- What RC holds after a decrement to `count`: where that ends the repeat it is 0 or -1, whatever the count (R56, R644, U22;
log 18). -/
def rcAfter (count : Word) (s : State) : Word :=
  if count.msb then (if freeBit s 17 then 0#32 else 0xFFFFFFFF#32) else count

/-- One pass over the end of a repeat: `count` is RC decremented, by which the repeat goes on, and `rc` what RC holds then.
It goes on as `again` (R642). -/
def countPass (a : Addr) (count rc : Word) (again s : State) : State :=
  if count.msb then leaveRepeat a rc s else { again with rc := rc }

/-- The decrement of RC at the end of a repeat, and what follows from it. Where the instruction has loaded RC, either the
load precedes the decrement (R642, R643), or it falls together with the decrement of the old RC and has priority (R833):
which is free (log 15). -/
def decrementRc (a : Addr) (again s : State) : State :=
  match s.rcBefore with
  | none => countPass a (s.rc - 1) (rcAfter (s.rc - 1) s) again s
  | some old =>
    if freeBit s 41 then countPass a (old - 1) s.rc again s
    else countPass a (s.rc - 1) (rcAfter (s.rc - 1) s) again s

/-- The repeat-mode update after the instruction `w` at `a` (R642, R643). RPTB and RPTS are not subject to it. -/
def repeatUpdate (f : Flow) (a : Addr) (w : Word) (s : State) : State :=
  let t := { s with ir := none }
  if f = .repeats then t
  else if s.st.getLsbD 8 then
    if s.repS then decrementRc a { t with pc := a, ir := some w } t
    else if a = reAddr s then decrementRc a { t with pc := s.rs.extractLsb' 0 24 } t
    else t
  else t

/-- A delayed branch that was pending before the instruction comes one slot nearer, or takes place (R447). -/
def delayUpdate (before : Option Delayed) (s : State) : State :=
  match before with
  | none => s
  | some d =>
    if d.left ≤ 1 then { s with delay := none, pc := d.target.getD s.pc }
    else { s with delay := some { d with left := d.left - 1 } }

/-- Whether an instruction run at a state flushes the pipeline: repeats and idles always, branches where they are taken
(R832, D6). -/
def flushes (f : Flow) (s : State) : Bool :=
  match f with
  | .plain => false
  | .nop => false
  | .delayed => false
  | .branch c => condHolds s.st c
  | .countBranch n c => dbTaken n c s
  | .longCall c => condHolds s.st c
  | .trap c => condHolds s.st c
  | .repeats => true
  | .idles => true

/-- The bookkeeping at the end of every step that did something: the time it took, and what ages with instructions. -/
def account (cycles : Nat) (s : State) : State :=
  { s with
    elapsed := s.elapsed + cycles + s.env.extraCycles.headD 0
    env := { s.env with extraCycles := s.env.extraCycles.drop 1 }
    freeCount := s.freeCount + freeStride
    loopLoad := s.loopLoad - 1
    outBefore := s.outNow
    outNow := 0
    recentStores := (s.recentStores.map fun e => { e with age := e.age + 1 }).filter fun e => e.age ≤ 3
    rcBefore := none
    abandon := false }

/-- A step that only waited one H1 cycle (R93, R672). What the environment would have let fall before its access has not
(R96). -/
def waiting (s : State) : State :=
  { s with
    elapsed := s.elapsed + 1, freeCount := s.freeCount + freeStride, abandon := false
    env := { s.env with dmaWithin := s.env.dmaWithin.drop 1 } }

/-- An instruction run at `s` is a TRAPcond that is taken (R621). -/
def takesTrap (f : Flow) (s : State) : Bool :=
  match f with
  | .trap c => condHolds s.st c
  | .plain => false
  | .nop => false
  | .branch _ => false
  | .countBranch _ _ => false
  | .longCall _ => false
  | .delayed => false
  | .repeats => false
  | .idles => false

/-- NOPs executed in a row (R627). -/
def nopsAfter (f : Flow) (n : Nat) : Nat := if f = .nop then n + 1 else 0

/-- A completed instruction `w` of kind `f`, run at `s`, that left `t` (R602 steps 6 and 7). -/
def complete (f : Flow) (w : Word) (s t : State) : State :=
  let u := delayUpdate s.delay (repeatUpdate f s.pc w t)
  account (figure f)
    { (if flushes f s then flush u else u) with nopRun := nopsAfter f s.nopRun, trapped := takesTrap f s }

/-- What a step makes of an instruction's next state: an instruction that waits is held and done again (R93, R501; log 21). -/
def retire (f : Flow) (w : Word) (s t : State) : State :=
  if t.stalled.isSome || t.lockWait != 0 then { waiting t with ir := some w } else complete f w s t

/-! ## One instruction -/

/-- The state an instruction runs in: what the last step waited for is over. -/
def ready (s : State) : State := { s with stalled := none }

/-- An outcome of a step that only waited. -/
def waited : Host.Outcome State Fault Refusal → Host.Outcome State Fault Refusal
  | .next t => .next (waiting t)
  | .fault e => .fault e
  | .refused r => .refused r

/-- A result that is not an instruction's own, as an outcome: an access that cannot be made makes the step wait. -/
def conclude (s : State) : Except Stop State → Host.Outcome State Fault Refusal
  | .ok t => .next t
  | .error e => waited (stop (ready s) e)

/-- An instruction's outcome within a step. -/
def retired (f : Flow) (w : Word) (s : State) : Host.Outcome State Fault Refusal → Host.Outcome State Fault Refusal
  | .next t => .next (retire f w s t)
  | .fault e => .fault e
  | .refused r => .refused r

/-- Run the decoded instruction `i`, of word `w` (R602 step 5). -/
def runInstr (i : Instr) (w : Word) (s : State) : Host.Outcome State Fault Refusal :=
  match hazard i s with
  | some r => .refused r
  | none => retired (flowOf i) w s (exec i s)

/-- Fetch, decode and run (R602 step 5). -/
def instruction (s : State) : Host.Outcome State Fault Refusal :=
  match fetch (ready s) with
  | .error e => conclude s (.error e)
  | .ok (w, t) =>
    match decode w with
    | .ok i => runInstr i w t
    | .error e => .refused (.notAnInstruction e)

/-! ## Interrupts -/

/-- The flags the CPU sees: those of IF, and one that the DMA controller has acknowledged in the cycle of this very
boundary, which the CPU may still see (R616): free. -/
def flagsSeen (s : State) : BitVec 11 :=
  if s.shared ≠ 0#11 ∧ freeBit s 40 = true then s.ifr.extractLsb' 0 11 ||| s.shared else s.ifr.extractLsb' 0 11

/-- The interrupts flagged and enabled for the CPU (R617). -/
def pendingInts (s : State) : BitVec 11 := flagsSeen s &&& s.ie.extractLsb' 0 11

/-- An interrupt is requested: a flag is set and enabled, and GIE is 1 (R617). -/
def requested (s : State) : Bool := s.st.getLsbD 13 && pendingInts s != 0#11

/-- Whether the instruction boundary may be used: an instruction that waits for a bus in hold has not begun, one whose
access is in progress has (R93, R504, R672). -/
def mayBreak : Option Wait → Bool
  | none => true
  | some .held => true
  | some .heldStore => false
  | some .primary => false
  | some .expansion => false

/-- No interrupt is taken after what has just run: a delayed branch is pending, a single instruction is being repeated, or
the last instruction was a TRAPcond that was taken (R621). -/
def barred (s : State) : Bool := s.delay.isSome || inRepeatSingle s || s.trapped

/-- The instructions that still run before a delayed branch or a repeated instruction stops barring interrupts, 0 where none does;
3 stands for three or more (R621, R642). -/
def barLeft (s : State) : Nat :=
  match s.delay with
  | some d => max 1 d.left
  | none => if !inRepeatSingle s then 0 else if (s.rc - 1).msb then 1 else if (s.rc - 2).msb then 2 else 3

/-- The instruction at hand has waited in the step before. -/
def retrying (s : State) : Bool := s.stalled.isSome || s.lockWait != 0

/-- An interrupt may be taken here: nothing bars it, and no access is in progress (R93, R621). -/
def boundary (s : State) : Bool := !barred s && mayBreak s.stalled

/-- Interrupt entry (R620, R607). Where ST was written with GIE = 1 after the recognition, GIE is free (R626, U19). An
instruction that waited is fetched again after the return. -/
def enterInterrupt (i : Nat) (s : State) : Except Stop State := do
  let t ← takeInterrupt i s
  let u := if s.windowGie then setGie (freeBit s 26) t else t
  pure (account 4 { flush u with
    intWindow := none, windowGie := false, nopRun := 0, trapped := false, stalled := none, ir := none })

/-- The entry of a recognised interrupt; where its accesses cannot be made it waits for them, and nothing else runs. -/
def enterStep (i : Nat) (s : State) : Host.Outcome State Fault Refusal :=
  conclude { s with intWindow := some { index := i, left := 0, entering := true } } (enterInterrupt i s)

/-- What follows an interlocked instruction that an interrupt has made give up its wait: the entry, with the address of the
following instruction pushed (R506). It has not given up while its bus is not ready. -/
def afterAbandoned (i : Nat) : Host.Outcome State Fault Refusal → Host.Outcome State Fault Refusal
  | .next t => if t.lockWait != 0 || t.stalled.isSome then .next t else enterStep i t
  | .fault e => .fault e
  | .refused r => .refused r

/-- A recognised interrupt is entered at a boundary; an interlocked instruction that waits for XF1 is given up first
(R506, R620). -/
def enterHere (i : Nat) (s : State) : Host.Outcome State Fault Refusal :=
  if s.lockWait ≠ 0 then afterAbandoned i (instruction { s with abandon := true }) else enterStep i s

/-- An instruction runs between the recognition of an interrupt and its entry, and `left` more may. Where the interrupt could be
entered before it, one that would put the entry off beyond these, or that would idle, does not run: the interrupt is entered,
so that whatever runs in between is one of the last two instructions before the entry (R621, R626; log 10). -/
def windowStep (i left : Nat) (s : State) : Host.Outcome State Fault Refusal :=
  match instruction { s with intWindow := some { index := i, left := left, entering := false } } with
  | .next t => if boundary s && (decide (left < barLeft t) || t.trapped || t.idle != .running) then enterHere i s else .next t
  | .fault e => .fault e
  | .refused r => .refused r

/-- An interrupt is recognised: the environment lets up to two more instructions run before its entry, which follows
whatever they do (R626, D24; log 10). -/
def recognise (s : State) : Host.Outcome State Fault Refusal :=
  let i := lowestFlag (pendingInts s)
  match s.env.intLatency with
  | [] => enterHere i s
  | 0 :: ns => enterHere i { s with env := { s.env with intLatency := ns } }
  | (n + 1) :: ns => windowStep i (min n 1) { s with env := { s.env with intLatency := ns } }

/-- The instructions that run before an interrupt requested here can be entered: those under a bar, or the one whose access is in
progress (R93, R621). -/
def untilEntry (s : State) : Nat := max (barLeft s) (if mayBreak s.stalled then 0 else 1)

/-- An interrupt is requested and cannot be entered here. Within two instructions of the place where it can, the environment may
have it recognised here, so that the slots of a delayed branch and the passes of a repeated instruction are among the last two
instructions before the entry too (R621, R626, U19; log 10). -/
def heldBack (s : State) : Host.Outcome State Fault Refusal :=
  match s.env.intLatency with
  | [] => instruction { s with windowGie := false }
  | n :: ns =>
    let u := { s with env := { s.env with intLatency := ns } }
    if untilEntry s = 0 ∨ 2 < untilEntry s then instruction { s with windowGie := false }
    else if untilEntry s ≤ n then windowStep (lowestFlag (pendingInts s)) (min n 2 - 1) u
    else instruction { u with windowGie := false }

/-- What the CPU does where no interrupt has been recognised: it recognises one that is requested, or runs an instruction. -/
def unrecognised (s : State) : Host.Outcome State Fault Refusal :=
  if !requested s then instruction { s with windowGie := false }
  else if boundary s then recognise s
  else heldBack s

/-- An interrupt has been recognised before: its entry, or one of the instructions that run before it (R626). Where the entry is
barred beyond them, by a taken trap or by what an instruction did that was in progress at the recognition, it is not recognised
yet (R621). DESIGN CHOICE, unsafe (log 10): the DMA controller may acknowledge and clear the flag of a recognised interrupt before
its entry, and the CPU still enters, so that both see it at different boundaries, where R616 says that the one that responds
first clears it for the other and not whether recognition is such a response. -/
def recognised (p : Recognised) (s : State) : Host.Outcome State Fault Refusal :=
  if p.entering then enterStep p.index s
  else if p.left = 0 ∧ boundary s = true then enterHere p.index s
  else if s.trapped ∨ p.left + (if retrying s then 1 else 0) < barLeft s then
    unrecognised { s with intWindow := none, windowGie := false }
  else windowStep p.index (if barred s && retrying s then p.left else p.left - 1) s

/-- A cycle in which the CPU does nothing. -/
def idleCycle (s : State) : State := { s with elapsed := s.elapsed + 1, freeCount := s.freeCount + freeStride }

/-- The CPU idles: in IDLE an interrupt whose entry waits for a bus, or an enabled flag, ends it, else a cycle passes; while
the clocks stand still nothing does (R602 step 3, R456, R470, R651; log 25). -/
def idling (s : State) : Host.Outcome State Fault Refusal :=
  if s.idle ≠ .idle then .next (idleCycle s)
  else
    match s.intWindow with
    | some p => enterStep p.index s
    | none =>
      if pendingInts s ≠ 0#11 then enterStep (lowestFlag (pendingInts s)) s else .next (idleCycle s)

/-- The CPU's part of a step (R602 steps 3 to 7). -/
def cpu (s : State) : Host.Outcome State Fault Refusal :=
  if s.idle ≠ .running then idling s
  else
    match s.intWindow with
    | some p => recognised p s
    | none => unrecognised s

/-- What one step does (R602): reset, or the cycles the last step took and then the reset vector, an interrupt or an
instruction. RESET low for fewer than ten H1 cycles is no reset (R800, U27). -/
def machineStep (s : State) : Host.Outcome State Fault Refusal :=
  if !s.pins.reset then .next (resetCycle s)
  else if s.resetLow ≠ 0 ∧ s.resetLow < 10 then .refused .shortReset
  else
    match passTime s with
    | .error e => conclude s (.error e)
    | .ok t =>
      if !t.pins.reset then .next t
      else if t.resetLow ≠ 0 ∨ t.booting = true then conclude (boot t) (loadReset (boot t))
      else cpu t

end Sys2Proof.Machine
end

