-- ==== Sys2Proof/Machine/Step.lean ====
section
/-! DEFINITION. One step of the machine, and the host's way of placing an instruction. -/
namespace Sys2Proof.Machine

/-- The instruction of `nbits` bits stored where the next fetch looks: in the held word where there is one, else at
the PC, in memory or in ROM, with no cached or older copy of it. -/
def State.withFetchWord (s : State) (nbits w : Nat) : State :=
  let v : Word := BitVec.ofNat 32 (w % 2 ^ nbits)
  match s.ir with
  | some _ => { s with ir := some v }
  | none =>
    { s with
      mem := if region s s.pc = .rom then s.mem else memWriteWord s.mem s.pc v
      rom := if region s s.pc = .rom then romPut s.rom s.pc.toNat v else s.rom
      env := { s.env with extReads := [] }
      cache := s.cache.drop s.pc
      recentStores := s.recentStores.filter fun e => e.addr != s.pc }

/-- One step (R602). -/
def step (s : State) : Host.Outcome State Fault Refusal := machineStep s

end Sys2Proof.Machine
end

