-- ==== Sys2Proof/Machine/Pins.lean ====
section
/-! DEFINITION. The levels of the output pins in the H1 cycle that follows a state (R686, R801; log 30). -/
namespace Sys2Proof.Machine

/-- The level of an output pin in an H1 cycle: low, high, the clock's own alternation, high impedance, a level the spec does not
state, or no such pin on the device. -/
inductive Level where
  | low | high | clock | hiZ | unstated | absent
  deriving DecidableEq, Repr

/-- What a set of bus pins carries: a value, high impedance, a value the spec does not state (R684), or no such pins. -/
inductive BusLevel where
  | driven (w : Word)
  | hiZ
  | unstated
  | absent
  deriving DecidableEq, Repr

/-- An active-low signal. -/
def activeLow (active : Bool) : Level := if active then .low else .high

/-- A level the device drives. -/
def driven (b : Bool) : Level := if b then .high else .low

/-- The strobe of an access to memory is low: all the time but for the last cycle of a write (R681; log 30). -/
def strobed (c : BusCycle) : Bool := !(c.write && c.stop == some 1)

/-- IOSTRB is low in reads and writes alike: all the time but for the last cycle (R683; log 30). -/
def ioStrobed (c : BusCycle) : Bool := c.stop != some 1

/-- The clocks stand still, so the bus is idle (R470). -/
def stopped (s : State) : Bool := s.idle == .stopped

/-- The primary bus is given away: held, and its last access is over (R672). -/
def granted (s : State) : Bool := holdState { s with elapsed := 0 }

/-- RESET is low. -/
def inReset (s : State) : Bool := !s.pins.reset

/-! ## Primary bus -/

/-- HOLDA: low while the bus is held, and not for a HOLD that NOHOLD overrides (R662, R672). Reset has no effect on it. -/
def holdaPin (s : State) : Level := activeLow (granted s)

/-- STRB: high-impedance in hold, high in reset and in IDLE2 (R470, R686, R801). -/
def strbPin (s : State) : Level :=
  if granted s then .hiZ
  else if inReset s || stopped s then .high
  else activeLow (((nowOn s.primary).map strobed).getD false)

/-- R/W: low for a write, high otherwise; high-impedance in hold and in reset (R470, R680, R684, R686, C36). -/
def rwPin (s : State) : Level :=
  if granted s || inReset s then .hiZ
  else if stopped s then .high
  else driven (!((nowOn s.primary).map (·.write)).getD false)

/-- An address on its pins, none where the bus is inactive (R684). -/
def addressLevel : Option Word → BusLevel
  | some a => .driven a
  | none => .unstated

/-- A23-A0: undefined while the bus is inactive; in IDLE2 as they were (R470, R676, R684, R686). -/
def addressPins (s : State) : BusLevel :=
  if granted s || inReset s then .hiZ
  else if stopped s then addressLevel (s.lineAddr.map (·.setWidth 32))
  else addressLevel ((addressOn s.primary).map fun c => c.addr.setWidth 32)

/-- What a port puts on its data pins: the word of a write, else nothing; nothing in IDLE2 (R470, R681, R686). DESIGN CHOICE,
unsafe (log 30): they are high-impedance while the bus is inactive too, where R684 names strobes, R/W, address and ready alone. -/
def writtenWord (s : State) (l : List BusCycle) : BusLevel :=
  if stopped s then .hiZ
  else
    match nowOn l with
    | some c => if c.write then .driven c.word else .hiZ
    | none => .hiZ

/-- D31-D0 (R686). -/
def dataPins (s : State) : BusLevel := if granted s || inReset s then .hiZ else writtenWord s s.primary

/-! ## Expansion bus -/

/-- A strobe of the expansion bus, on a C30: high in reset (R686, R801). IDLE2 is for the LC31 alone (R470). -/
def expansionStrobe (low : BusCycle → Bool) (r : Region) (s : State) : Level :=
  if s.device ≠ .c30 then .absent
  else if inReset s then .high
  else activeLow (((nowOn s.expansion).map fun c => low c && region s c.addr = r).getD false)

/-- MSTRB. -/
def mstrbPin (s : State) : Level := expansionStrobe strobed .mstrb s

/-- IOSTRB (R683). -/
def iostrbPin (s : State) : Level := expansionStrobe ioStrobed .iostrb s

/-- XR/W: high-impedance in reset (R686, R801). -/
def xrwPin (s : State) : Level :=
  if s.device ≠ .c30 then .absent
  else if inReset s then .hiZ
  else driven (!((nowOn s.expansion).map (·.write)).getD false)

/-- XA12-XA0: the low 13 bits of the address (R86, R684, R686). -/
def xaPins (s : State) : BusLevel :=
  if s.device ≠ .c30 then .absent
  else if inReset s then .hiZ
  else addressLevel ((addressOn s.expansion).map fun c => (c.addr.extractLsb' 0 13).setWidth 32)

/-- XD31-XD0 (R686). -/
def xdPins (s : State) : BusLevel :=
  if s.device ≠ .c30 then .absent else if inReset s then .hiZ else writtenWord s s.expansion

/-! ## Other outputs -/

/-- IACK: low for the first H1 cycle of the read of an IACK instruction (R453, C33; log 30). -/
def iackPin (s : State) : Level := if inReset s then .high else activeLow (s.iack.any fun x => x.start == 0)

/-- XF0: what an interlocked instruction, which runs with XF0 as an output, still keeps on it, then its output latch while it is
an output (R52, R500 to R504, R507). -/
def xf0Pin (s : State) : Level :=
  if inReset s then .hiZ
  else
    match s.xf0Next with
    | b :: _ => driven b
    | [] => if s.iof[1] then driven s.iof[2] else .hiZ

/-- XF1 (R52). -/
def xf1Pin (s : State) : Level := if inReset s || !s.iof[5] then .hiZ else driven s.iof[6]

/-- H1: it runs, but in IDLE2 it stands high (R470, R686, R688). -/
def h1Pin (s : State) : Level := if stopped s && !inReset s then .high else .clock

/-- H3: it runs, in opposite phase, but in IDLE2 it stands low (R470, R686, R688). -/
def h3Pin (s : State) : Level := if stopped s && !inReset s then .low else .clock

/-- A TCLK pin: the output of its timer, or DATOUT, or an input (R696). DESIGN CHOICE, unsafe (log 28): a write of INV while
HLD = 0 changes at once a pin that the timer drives, where R691 says that HLD = 0 holds the state of TCLK too. -/
def tclkPin (t : Timer) (s : State) : Level :=
  if inReset s then .hiZ
  else if t.control[0] then (if t.control[9] then driven (t.control[11] != t.control[10]) else .hiZ)
  else if t.control[1] then driven t.control[2]
  else .hiZ

/-- A pin of a serial port: DATOUT where it is a general-purpose output, `port` where it is a serial-port pin, else an input
(R723, R724, R750). `at0` is the pin's lowest control bit. -/
def serialOut (control : Word) (at0 : Nat) (port : Level) : Level :=
  if control.getLsbD at0 then port
  else if control.getLsbD (at0 + 1) then driven (control.getLsbD (at0 + 2))
  else .hiZ

/-- A clock that its timer drives, or an input (R727). -/
def ownClock (own level : Bool) : Level := if own then driven level else .hiZ

/-- DX as a serial-port pin: the bit that is out, else high impedance, or driven with what is not stated (R722, R732, R734). -/
def dxLevel (p : SerialPort) (pins : SerialPins) : Level :=
  match dxOut p with
  | some b => driven b
  | none => if dxUnstated p pins then .unstated else .hiZ

/-- FSX as a serial-port pin, an input where the port makes no frame syncs (R722, R733, R742). -/
def fsxLevel (p : SerialPort) : Level := ((fsxOut p).map driven).getD .hiZ

/-- The levels of the six pins of a serial port, as outputs. -/
structure SerialLevels where
  clkx : Level
  dx : Level
  fsx : Level
  clkr : Level
  dr : Level
  fsr : Level
  deriving DecidableEq, Repr

/-- All six pins at one level. -/
def SerialLevels.all (l : Level) : SerialLevels := { clkx := l, dx := l, fsx := l, clkr := l, dr := l, fsr := l }

/-- The pins of a serial port; DR and FSR as serial-port pins are inputs (R686, R724, R740). -/
def serialLevels (p : SerialPort) (pins : SerialPins) : SerialLevels :=
  { clkx := serialOut p.txPins 0 (ownClock p.global[6] (p.timerCtl[5] != p.global[12]))
    dx := serialOut p.txPins 4 (dxLevel p pins)
    fsx := serialOut p.txPins 8 (fsxLevel p)
    clkr := serialOut p.rxPins 0 (ownClock p.global[7] (p.timerCtl[11] != p.global[13]))
    dr := serialOut p.rxPins 4 .hiZ
    fsr := serialOut p.rxPins 8 .hiZ }

/-- The pins of serial port 0: high-impedance in reset (R686, R801). -/
def port0Pins (s : State) : SerialLevels := if inReset s then .all .hiZ else serialLevels s.port0 s.pins.port0

/-- The pins of serial port 1, which the C30 alone has (R686, R720, R801). -/
def port1Pins (s : State) : SerialLevels :=
  if s.device ≠ .c30 then .all .absent else if inReset s then .all .hiZ else serialLevels s.port1 s.pins.port1

end Sys2Proof.Machine
end

