-- ==== Sys2Proof/Safety.lean ====
section
/-! DEFINITION. The terms the claims use: the invariant of the machine, what an instruction keeps, and what the rules say
an operation gives, written from the rules and not from the meanings. -/
namespace Sys2Proof.Machine

/-! ## The invariant -/

/-- What every step keeps: memory in its canonical form (log 3); the bits of ST, IE, IF and IOF that hold nothing are 0
(R34, R50, R51, R52; for bits 31-16 of ST and the reserved bits of IE and IF decision D1, log 11); so are those of the
bus-control registers (R662, R663); a pending delayed branch has one to three slots left (R447); the window of a direct
load of the repeat registers is at most four (R833, log 15). -/
structure State.Inv (s : State) : Prop where
  mem : MemWf s.mem
  st : s.st &&& ~~~stMask = 0#32
  ie : s.ie &&& ~~~ieMask = 0#32
  ifr : s.ifr &&& ~~~ifMask = 0#32
  iof : s.iof &&& ~~~iofMask = 0#32
  primary : s.primaryCtl &&& ~~~primaryMask = 0#32
  expansion : s.expansionCtl &&& ~~~expansionMask = 0#32
  delay : ∀ d, s.delay = some d → 1 ≤ d.left ∧ d.left ≤ 3
  loop : s.loopLoad ≤ 4

/-! ## What is kept -/

/-- The contents of a register as it is stored, R0-R7 with all 40 bits. -/
def held : Reg → State → Ext
  | .r n, s => readExt n s
  | .ar n, s => (s.ar[n.toNat]).setWidth 40
  | .dp, s => s.dp.setWidth 40
  | .ir0, s => s.ir0.setWidth 40
  | .ir1, s => s.ir1.setWidth 40
  | .bk, s => s.bk.setWidth 40
  | .sp, s => s.sp.setWidth 40
  | .st, s => s.st.setWidth 40
  | .ie, s => s.ie.setWidth 40
  | .ifr, s => s.ifr.setWidth 40
  | .iof, s => s.iof.setWidth 40
  | .rs, s => s.rs.setWidth 40
  | .re, s => s.re.setWidth 40
  | .rc, s => s.rc.setWidth 40

/-- Every register but those of a list is unchanged. -/
def KeepsRegs (written : List Reg) (s t : State) : Prop := ∀ q, q ∉ written → held q t = held q s

/-- The bits of ST outside a mask are unchanged. -/
def KeepsSt (mask : Word) (s t : State) : Prop := t.st &&& ~~~mask = s.st &&& ~~~mask

/-- Every byte of memory outside the words at the given addresses is unchanged. -/
def KeepsBytes (stored : List Addr) (s t : State) : Prop :=
  ∀ k : Nat, (∀ a ∈ stored, k / 4 ≠ a.toNat) → memByte t.mem k = memByte s.mem k

/-- The device, its ROM, the pins, the timers, the DMA controller and the bus-control registers are unchanged. -/
def KeepsUnits (s t : State) : Prop :=
  t.device = s.device ∧ t.rom = s.rom ∧ t.pins = s.pins ∧ t.timer0 = s.timer0 ∧ t.timer1 = s.timer1 ∧
    t.dma = s.dma ∧ t.primaryCtl = s.primaryCtl ∧ t.expansionCtl = s.expansionCtl

/-- The idle state, the clock, a pending delayed branch and the repeat-single mode are unchanged. -/
def KeepsMode (s t : State) : Prop :=
  t.idle = s.idle ∧ t.lowPower = s.lowPower ∧ t.delay = s.delay ∧ t.repS = s.repS

/-- The frame of an instruction, where no cycle of the DMA controller falls within it (R96, log 12): registers outside
`written` and ST outside `mask` stay, memory outside the words stored to stays, the machine's mode stays; the units and IF
stay unless a word is stored to the peripheral bus, where a serial port may raise its flag (R722). -/
def Frame (i : Instr) (written : List Reg) (mask : Word) (stored : State → List Addr) : Prop :=
  ∀ s t, s.env.dmaWithin = [] → exec i s = .next t →
    KeepsRegs (.st :: .ifr :: written) s t ∧ KeepsSt mask s t ∧ KeepsBytes (stored s) s t ∧ KeepsMode s t ∧
      ((∀ a ∈ stored s, region s a ≠ .peripheral) → KeepsUnits s t ∧ (.ifr ∉ written → t.ifr = s.ifr))

/-- An instruction stores nothing. -/
def nowhere (_ : State) : List Addr := []

/-- The bits of ST an integer destination lets change: all where it is ST itself, the flags of the instruction where it
is one of R0-R7, none else (R33, R40). -/
def stBits (dst : Reg) (flags : Word) : Word :=
  if dst = .st then 0xFFFFFFFF#32 else if setsFlags dst then flags else 0#32

/-- The seven condition flags (R40). -/
def allFlags : Word := 0x7F#32

/-- The flags but C and LV, what NORM writes (R352). -/
def flagsNorm : Word := 0x5E#32

/-- The flags but C. -/
def flagsNotC : Word := 0x7E#32

/-- The flags but C and LUF. -/
def flagsNotCLuf : Word := 0x3E#32

/-- The flags but LUF. -/
def flagsNotLuf : Word := 0x3F#32

/-- V, Z, N and UF, what a logical operation writes. -/
def flagsLogic : Word := 0x1E#32

/-- V, Z, N, UF and C, what a logical shift writes. -/
def flagsShift : Word := 0x1F#32

end Sys2Proof.Machine

namespace Sys2Proof

/-- The auxiliary register an indirect operand updates, none where its mode only reads (R251 to R262). -/
def Ind.updated {δ : Type} : Ind δ → List Reg
  | .idx .preAdd _ _ => []
  | .idx .preSub _ _ => []
  | .idx .preAddMod _ n => [.ar n]
  | .idx .preSubMod _ n => [.ar n]
  | .idx .postAdd _ n => [.ar n]
  | .idx .postSub _ n => [.ar n]
  | .idx .postAddCirc _ n => [.ar n]
  | .idx .postSubCirc _ n => [.ar n]
  | .plain _ => []
  | .bitrev n => [.ar n]

/-- The auxiliary register a source updates. -/
def Src.updated {ρ : Type} : Src ρ → List Reg
  | .reg _ => []
  | .dir _ => []
  | .ind i => Ind.updated i
  | .imm _ => []

/-- The auxiliary register a memory operand updates. -/
def MemOp.updated : MemOp → List Reg
  | .dir _ => []
  | .ind i => Ind.updated i

/-- The auxiliary register NOP's operand updates. -/
def NopOp.updated : NopOp → List Reg
  | .none => []
  | .ind i => Ind.updated i

/-- The auxiliary register a three-operand source updates. -/
def Src3.updated {ρ : Type} : Src3 ρ → List Reg
  | .reg _ => []
  | .ind i => Ind.updated i

end Sys2Proof

namespace Sys2Proof.Machine

/-- The address a memory operand of the general form stores to. -/
def memTarget (m : MemOp) (s : State) : List Addr :=
  match memAddr m s with
  | .ok (a, _) => [a]
  | .error _ => []

/-- The addresses two parallel indirect operands name, that of bits 15-8 first. -/
def pairTargets (hi lo : Ind Unit) (s : State) : List Addr :=
  match indirectPair hi lo s with
  | .ok (a, b, _) => [a, b]
  | .error _ => []

/-- The address the operand in bits 15-8 names. -/
def hiTarget (hi lo : Ind Unit) (s : State) : List Addr := (pairTargets hi lo s).take 1

/-- The stack slot a push writes: bits 23-0 of SP + 1 (R290). -/
def pushTarget (s : State) : List Addr := [(s.sp + 1).extractLsb' 0 24]

/-! ## What the rules say an operation gives -/

/-- An output and the flags; `none` leaves a flag as it was. LV and LUF follow V and UF (R41, R42). -/
structure Expected (α : Type) where
  out : α
  c : Option Bool
  v : Bool
  uf : Bool
  n : Bool
  z : Option Bool

/-- ST after an operation, bit by bit (R40 to R47): C, V, Z, N, UF written, LV and LUF latched, the rest unchanged. -/
def FlagsAre {α : Type} (x : Expected α) (old new : Word) : Prop :=
  ∀ k < 32, new.getLsbD k =
    match k with
    | 0 => x.c.getD (old.getLsbD 0)
    | 1 => x.v
    | 2 => x.z.getD (old.getLsbD 2)
    | 3 => x.n
    | 4 => x.uf
    | 5 => old.getLsbD 5 || x.v
    | 6 => old.getLsbD 6 || x.uf
    | k => old.getLsbD k

/-- An exact integer result does not fit in 32 bits (R46). -/
def tooBig (x : Int) : Bool := x < -2 ^ 31 || 2 ^ 31 ≤ x

/-- The 32-bit output of an exact result: the nearest number of 32 bits with OVM, the low 32 bits without (R35, R331). -/
def clamp (ovm : Bool) (x : Int) : Word := BitVec.ofInt 32 (if ovm then max (-2 ^ 31) (min (2 ^ 31 - 1) x) else x)

/-- An integer addition or subtraction with exact result `x` (R332). -/
def sumIs (st : Word) (x : Int) (carry : Bool) : Expected Word :=
  { out := clamp (st.getLsbD 7) x, c := some carry, v := tooBig x, uf := false, n := x < 0
    z := some (clamp (st.getLsbD 7) x = 0#32) }

/-- An absolute value: N is 0 and C stays (R335). -/
def absIs (st : Word) (x : Int) : Expected Word :=
  { out := clamp (st.getLsbD 7) x, c := none, v := tooBig x, uf := false, n := false
    z := some (clamp (st.getLsbD 7) x = 0#32) }

/-- A product: N is the sign of the output and C stays (R348). -/
def productIs (st : Word) (x : Int) : Expected Word :=
  { out := clamp (st.getLsbD 7) x, c := none, v := tooBig x, uf := false, n := (clamp (st.getLsbD 7) x).msb
    z := some (clamp (st.getLsbD 7) x = 0#32) }

/-- A comparison: nothing is written, so Z says that the exact difference is 0 (R343). -/
def compareIs (a b : Word) : Expected Unit :=
  { out := (), c := some (a.toNat < b.toNat), v := tooBig (a.toInt - b.toInt), uf := false, n := a.toInt < b.toInt
    z := some (a = b) }

/-- A logical output (R44 to R47). -/
def logicIs (r : Word) : Expected Word :=
  { out := r, c := none, v := false, uf := false, n := r.msb, z := some (r = 0#32) }

/-- A shifted or rotated output with its carry and overflow. -/
def shiftIs (r : Word) (c v : Bool) : Expected Word :=
  { out := r, c := some c, v := v, uf := false, n := r.msb, z := some (r = 0#32) }

/-- The count of a shift, the seven low bits with their sign (R341). -/
def countOf (w : Word) : Int := (w.extractLsb' 0 7).toInt

/-- An arithmetic shift by the rule's arithmetic: multiplication or floored division by a power of two (R341). -/
def ashIs (count v : Word) : Expected Word :=
  let c := countOf count
  if 0 < c then
    shiftIs (BitVec.ofInt 32 (v.toInt * 2 ^ c.toNat)) (c ≤ 32 && v.getLsbD (32 - c.toNat)) (tooBig (v.toInt * 2 ^ c.toNat))
  else if c < 0 then
    shiftIs (BitVec.ofInt 32 (v.toInt / 2 ^ (-c).toNat)) (if -c ≤ 32 then v.getLsbD ((-c).toNat - 1) else v.msb) false
  else shiftIs v false false

/-- A logical shift by the rule's arithmetic (R346). -/
def lshIs (count v : Word) : Expected Word :=
  let c := countOf count
  if 0 < c then shiftIs (BitVec.ofNat 32 (v.toNat * 2 ^ c.toNat)) (c ≤ 32 && v.getLsbD (32 - c.toNat)) false
  else if c < 0 then
    shiftIs (BitVec.ofNat 32 (v.toNat / 2 ^ (-c).toNat)) (-c ≤ 32 && v.getLsbD ((-c).toNat - 1)) false
  else shiftIs v false false

/-- The product of the low 24 bits, signed (R348). -/
def product24 (a b : Word) : Int := (a.setWidth 24).toInt * (b.setWidth 24).toInt

/-- A floating-point result: all flags but C (R333). -/
def floatIs (r : FResult) : Expected Ext :=
  { out := r.val, c := none, v := r.ovf, uf := r.unf, n := r.neg, z := some r.zero }

/-- A floating-point value that is loaded (R302). -/
def loadIs (v : Ext) : Expected Ext :=
  { out := v, c := none, v := false, uf := false, n := v.getLsbD 31, z := some (isZero v) }

/-- RND's result: Z is left as it was (R355). -/
def roundIs (r : FResult) : Expected Ext :=
  { out := r.val, c := none, v := r.ovf, uf := r.unf, n := r.neg, z := none }

/-- ABSF's result: UF and N are 0 (R334). -/
def absfIs (r : FResult) : Expected Ext :=
  { out := r.val, c := none, v := r.ovf, uf := false, n := false, z := some r.zero }

/-- FIX's result (R344). -/
def fixIs (v : Ext) : Expected Word :=
  { out := (ffix v).val, c := none, v := (ffix v).ovf, uf := false, n := (ffix v).neg, z := some ((ffix v).val = 0#32) }

/-- The flags of a parallel multiply with addition: V and UF of either half, N and Z 0 (R523). -/
def parallelIs (v uf : Bool) : Expected Unit := { out := (), c := none, v := v, uf := uf, n := false, z := some false }

/-- The multiplier's operands, then the adder's, by the P field (the table of R523). -/
def byP {α : Type} (p : BitVec 2) (src1 src2 src3 src4 : α) : (α × α) × (α × α) :=
  match p.toNat with
  | 0 => ((src3, src4), (src1, src2))
  | 1 => ((src3, src1), (src4, src2))
  | 2 => ((src1, src2), (src3, src4))
  | _ => ((src3, src1), (src2, src4))

/-- The value a 40-bit register stands for (R196). -/
def fval (v : Ext) : ℚ := if isZero v then 0 else mant33 (manOf v) * 2 ^ (expOf v - 31)

/-! ## How an instruction completes -/

/-- The instruction completes with an integer result in `dst`, from the state `s₁` after its operands were read: the
register takes it by its own rule, the flags follow where it is one of R0-R7, the PC is the next (R23, R33, R40). -/
def GivesInt (i : Instr) (s s₁ : State) (dst : Reg) (x : Expected Word) : Prop :=
  ∀ s₂, writeReg dst x.out s₁ = .ok s₂ →
    ∃ st, exec i s = .next { s₂ with pc := s.pc + 1, st := st } ∧
      if setsFlags dst then FlagsAre x s₂.st st else st = s₂.st

/-- The instruction completes with a 40-bit result in one of R0-R7 and its flags. -/
def GivesFlt (i : Instr) (s s₁ : State) (dst : FReg) (x : Expected Ext) : Prop :=
  ∃ st, exec i s = .next { writeExt dst x.out s₁ with pc := s.pc + 1, st := st } ∧ FlagsAre x s₁.st st

/-- The instruction completes with flags only. -/
def GivesFlags {α : Type} (i : Instr) (s s₁ : State) (x : Expected α) : Prop :=
  ∃ st, exec i s = .next { s₁ with pc := s.pc + 1, st := st } ∧ FlagsAre x s₁.st st

/-- Nothing but the instruction itself happens in this step: no reset, no idle state, no interrupt that is recognised here or
waits for its entry, and `t` is the machine once the cycles of the previous step have passed (R602). -/
def Undisturbed (s t : State) : Prop :=
  s.pins.reset = true ∧ s.resetLow = 0 ∧ passTime s = .ok t ∧ t.pins.reset = true ∧ t.resetLow = 0 ∧ t.booting = false ∧
    t.idle = .running ∧ t.intWindow = none ∧
    (requested t = false ∨ boundary t = false ∧ t.env.intLatency = [])

/-- The instruction comes to nothing, for the reason one of its accesses gives: it waits and the machine is as it was, but for
saying what it waits for (R93, R672; log 21); or the machine is locked up with a read on a port that never ends (R93, R682);
or the access is refused. -/
def Waits (i : Instr) (s : State) (e : Stop) : Prop :=
  exec i s = match e with
    | .stall w => .next { s with stalled := some w }
    | .lockup .primary c => .next { s with stalled := some .primary, primary := c :: s.primary }
    | .lockup .expansion c => .next { s with stalled := some .expansion, expansion := c :: s.expansion }
    | .refuse r => .refused r

/-! ## Addresses and pins -/

/-- The addresses of the peripheral bus that hold a register, on a device (R88). -/
def peripheralRegisters (d : Device) : List Addr :=
  [0x808000, 0x808004, 0x808006, 0x808008, 0x808020, 0x808024, 0x808028, 0x808030, 0x808034, 0x808038, 0x808040, 0x808042,
    0x808043, 0x808044, 0x808045, 0x808046, 0x808048, 0x80804C, 0x808064] ++
  if d = .c30 then
    [0x808050, 0x808052, 0x808053, 0x808054, 0x808055, 0x808056, 0x808058, 0x80805C, 0x808060]
  else []

/-- An access is refused because nothing is at the address (R83, U2). -/
def NotThere {α : Type} (a : Addr) (x : Except Stop α) : Prop := x = .error (.refuse (.reservedAccess a))

/-- The pins `n` H1 cycles from now (log 5). -/
def pinsIn (s : State) (n : Nat) : Pins := (pinsAfter n s.pins s.env.pinSchedule).1

/-- HOLD and HIZ as R672 has them: HOLD low without NOHOLD, or HIZ. -/
def holdsBus (p : Pins) (ctl : Word) : Bool := (!p.hold && !ctl.getLsbD 1) || ctl.getLsbD 2

/-- The ready condition of R668 by the SWW field: the ready pin low, WTCNT cycles counted, either, or both. `answered` is
the ready signal, `counted` the counter. -/
def readyBy (sww : Nat) (answered counted : Bool) : Bool :=
  match sww with
  | 0 => answered
  | 1 => counted
  | 2 => answered || counted
  | _ => answered && counted

end Sys2Proof.Machine
end

