-- ==== Sys2Proof/Certificates/Slice0/Obligations.lean ====
section
/-! DEFINITION. The statements for the provers. Each docstring names the rules it formalises. -/

open Sys2Proof Sys2Proof.Machine

/-! ## Encoding -/

/-- Decoding the word of a well-formed instruction gives the instruction back, whatever its operands (R141 to R168). -/
def Obligations.RoundTrip : Prop := ∀ i : Instr, i.wellFormed = true → decode (encode i) = .ok i

/-- Words printed in the spec decode to the instructions it prints beside them (95_test_vectors.md section 9), the first to
LDP of RC, as log 7 reads LDI of an immediate with G = 11 in its opcode's row. Words that match no row are no instructions
(R168). General knowledge (log 27, PRESUMED) are the low bits of the TRAPcond and PUSH words, bit 24 of the RPTB word 64809C05h
and so the refusals of 63000000h and 65000000h (bit 24 of CALL and RPTB), and the bits below 23 for which 06000002h and
0C810000h are no instructions. -/
def Obligations.DecodeWords : Prop :=
  decode 0x087B0009#32 = .ok (.ldp .rc 9#16) ∧
  decode 0x02000001#32 = .ok (.addi (.reg (.r 1#3)) (.r 0#3)) ∧
  decode 0x15209800#32 = .ok (.sti (.r 0#3) (.dir 0x9800#16)) ∧
  decode 0x64809C05#32 = .ok (.rptb 0x809C05#24) ∧
  decode 0x6E06FFFE#32 = .ok (.dbCond 0#3 .ne (.rel 0xFFFE#16)) ∧
  decode 0x24E0C1C0#32 = .ok (.mpyf3 (.ind (.plain 1#3)) (.ind (.plain 0#3)) 0#3) ∧
  decode 0x80021011#32 =
    .ok (.mpyf3_addf3 0#2 0#1 0#1 0#3 2#3 (.idx .preAddMod (.disp ()) 0#3) (.idx .preAddMod (.disp ()) 1#3)) ∧
  decode 0x74000023#32 = .ok (.trapCond .u 3#5) ∧
  decode 0x0F350000#32 = .ok (.push .st) ∧
  ∀ w ∈ [0x0C810000#32, 0x06000002#32, 0x68400000#32, 0x70200000#32, 0x63000000#32, 0x65000000#32, 0x7F800000#32],
    decode w = .error .illegalOpcode

/-! ## The step -/

/-- Where nothing else happens in a step, the word the fetch gives is decoded and run: `exec` of the instruction at the
fetched state, with the account of time, the repeat modes and the delayed branches around it (R602). -/
def Obligations.StepRunsDecoded : Prop :=
  ∀ (s t u : State) (w : Word) (i : Instr), Undisturbed s t → fetch (ready { t with windowGie := false }) = .ok (w, u) →
    decode w = .ok i → hazard i u = none → step s = retired (flowOf i) w u (exec i u)

/-- An instruction that neither waits nor bears on the PC makes a step whose next state is that of `exec`, then of the
repeat mode, which decrements RC and may load the PC from RS, then of a delayed branch that was pending, which comes nearer or
takes place, and then of the account of time and what ages with instructions (R602, R642, R643, R447). Outside repeat modes
and delay slots only the account is left. The time a step is given is the model's choice (log 19). -/
def Obligations.PlainInstructionCompletes : Prop :=
  ∀ (i : Instr) (w : Word) (s t : State), flowOf i = .plain → hazard i s = none →
    exec i s = .next t → t.stalled = none → t.lockWait = 0 →
    runInstr i w s = .next (account 1 { delayUpdate s.delay (repeatUpdate .plain s.pc w t) with
      nopRun := 0, trapped := false }) ∧
    (s.delay = none → t.st.getLsbD 8 = false →
      runInstr i w s = .next (account 1 { t with ir := none, nopRun := 0, trapped := false }))

/-! ## Reset and the invariant -/

/-- After reset ST, IE, IF and IOF are 0, no word is in the cache, no branch is pending, the timers, the DMA controller
and the bus controls hold their reset values (R72, R802 to R807). That the clock is then at full speed is decision D28
(log 11). -/
def Obligations.ResetValues : Prop :=
  State.reset.st = 0#32 ∧ State.reset.ie = 0#32 ∧ State.reset.ifr = 0#32 ∧ State.reset.iof = 0#32 ∧
  State.reset.cache.seg0.present = 0#32 ∧ State.reset.cache.seg1.present = 0#32 ∧ State.reset.cache.mru = false ∧
  State.reset.delay = none ∧ State.reset.idle = .running ∧ State.reset.lowPower = false ∧
  State.reset.timer0.control = 0#32 ∧ State.reset.timer0.period = 0#32 ∧ State.reset.timer1.control = 0#32 ∧
  State.reset.dma.control = 0#32 ∧ State.reset.dma.count = 0#24 ∧
  State.reset.primaryCtl = 0x10F8#32 ∧ State.reset.expansionCtl = 0xF8#32 ∧ State.reset.port0.global = 2#32 ∧
  (∀ v s', vector 0#24 State.reset = .ok (v, s') → State.reset.pc = v)

/-- The invariant holds right after reset. -/
def Obligations.InvReset : Prop := State.reset.Inv

/-- Every step keeps the invariant, from every state that has it: canonical memory, the reserved bits of the special
registers 0, a pending branch in its range. The bits of ST 31-16 and the reserved ones of IE and IF rest on decision D1
(log 11), the bound on the window of the repeat registers on log 15. -/
def Obligations.InvStep : Prop := ∀ s t : State, s.Inv → step s = .next t → t.Inv

/-- No step changes the device or the contents of its ROM (R7, R84). -/
def Obligations.RomNeverChanges : Prop :=
  ∀ s t : State, step s = .next t → t.device = s.device ∧ t.rom = s.rom

/-- The first H1 cycle with RESET low loads everything reset loads, whatever the machine was doing. When RESET has
been low for ten H1 cycles and is high again, the PC is bits 23-0 of the word at location 0, once that read can be made
(R800, R802 to R808, R664). That it all happens in the first cycle is the model's choice (log 17; D30, log 11); so are S = 0
(D4, log 11) and the zeros in the parts of the timers and the DMA controller that no program reads (log 2). -/
def Obligations.ResetSequence : Prop :=
  (∀ s : State, s.pins.reset = false → s.resetLow = 0 →
    ∃ t, step s = .next t ∧ t.st = 0#32 ∧ t.ie = 0#32 ∧ t.ifr = 0#32 ∧ t.iof = 0#32 ∧ t.delay = none ∧
      t.idle = .running ∧ t.repS = false ∧ t.lockWait = 0 ∧
      t.cache.seg0.present = 0#32 ∧ t.cache.seg1.present = 0#32 ∧ t.cache.mru = false ∧
      t.timer0 = .reset ∧ t.timer1 = .reset ∧ t.dma = .reset ∧
      t.primaryCtl = 0x10F8#32 ∧ t.expansionCtl = 0xF8#32 ∧ t.rom = s.rom ∧ t.resetLow = 1) ∧
  ∀ s u : State, s.pins.reset = true → s.resetLow = 0 ∨ 10 ≤ s.resetLow → passTime s = .ok u → u.pins.reset = true →
    u.resetLow ≠ 0 ∨ u.booting = true →
    (∀ w s₁, loadFor .vector 0#24 { u with resetLow := 0, booting := true } = .ok (w, s₁) →
      ∃ t, step s = .next t ∧ t.pc = w.extractLsb' 0 24 ∧ t.resetLow = 0 ∧ t.booting = false ∧ t.st = u.st ∧ t.ie = u.ie ∧
        t.sp = u.sp ∧ t.mem = u.mem ∧ s₁.elapsed < t.elapsed) ∧
    ∀ w e, loadFor .vector 0#24 { u with resetLow := 0, booting := true } = .error e →
      e = .stall w ∨ (∃ p c, e = .lockup p c ∧ w = p.wait) →
      ∃ t, step s = .next t ∧ t.booting = true ∧ t.stalled = some w ∧ t.pc = u.pc ∧ t.mem = u.mem ∧ KeepsRegs [] u t

/-! ## Memory -/

/-- A word written to memory is read back, and every byte outside it reads as before; canonical memories that read alike
are equal, so writing back the word that is there changes nothing (R80, R90; the list is the model's, log 3). -/
def Obligations.MemoryReadWrite : Prop :=
  (∀ (m : List Host.Cell) (a : Addr) (v : Word),
    memWord (memWriteWord m a v) a = v ∧
    ∀ k : Nat, k / 4 ≠ a.toNat → memByte (memWriteWord m a v) k = memByte m k) ∧
  (∀ m n : List Host.Cell, MemWf m → MemWf n → (∀ k, memByte m k = memByte n k) → m = n) ∧
  ∀ (m : List Host.Cell) (a : Addr), MemWf m → memWriteWord m a (memWord m a) = m

/-- A store to on-chip RAM, or over the primary bus while that bus is free, not held and answers ready, completes at once
and changes that word and no register; a load of it then gives the word, over the bus once the write is over, which takes two
H1 cycles, and then, as it follows a write, with one cycle before its own (R82, R90, R93, R94, R95, R681). On-chip accesses take no time of their own (R90). That external locations behave as memory where the
environment says nothing is the model's choice (log 8), and so is the time (log 19). -/
def Obligations.StoreThenLoad : Prop :=
  ∀ (s : State) (a : Addr) (v : Word), s.env.dmaWithin = [] →
    region s a = .ram ∨
      region s a = .primary ∧ s.env.extReads = [] ∧ s.env.extWrites = [] ∧ s.env.pinSchedule = [] ∧ s.pins.reset = true ∧
        portIdle s .primary = true ∧ holdsBus s.pins s.primaryCtl = false ∧
        (s.pins.rdy = false ∨ s.primaryCtl.extractLsb' 3 2 = 1#2 ∨ s.primaryCtl.extractLsb' 3 2 = 2#2) →
    ∃ t u, store a v s = .ok t ∧ load a t = .ok (v, u) ∧ KeepsBytes [a] s t ∧ u.mem = t.mem ∧ KeepsRegs [] s u ∧
      u.pc = s.pc ∧ t.elapsed = s.elapsed ∧ (region s a = .ram → u.elapsed = s.elapsed) ∧
      (region s a = .primary → s.elapsed + 3 ≤ u.elapsed)

/-- What makes an access over the primary bus wait. While the bus is held, by HOLD without NOHOLD or by HIZ, no access
begins (R672), and HOLDA is low (R662). An access that has begun ends in the first cycle in which SWW, WTCNT and the ready
pin are satisfied (R668), and never where RESET comes first or they never are (R93): then the read stays on the bus and the
CPU is locked up (R682). A read of another bank than the last begins one cycle later (R676), and so does one that comes
directly after a write (R681); a store takes none of the CPU's
time (R95). An instruction of any kind whose operand, store, stack word or vector cannot be accessed leaves the machine as it
was but for waiting, and for the IACK pulse of an IACK whose read has begun and never ends; so does an LDFI or LDII whose port
is not free; while a store of STFI or STII waits for a bus in hold no
interrupt is taken (R504). That the whole instruction is done again is the model's choice (log 21), and so are the place of
each access in its step, one cycle for another bank and a write together (log 19), and HOLDA low in the very cycle of the hold (log 30). -/
def Obligations.BusNotReadyWaits : Prop :=
  (∀ (s : State) (a : Addr) (v : Word), region s a = .primary → s.env.dmaWithin = [] → portIdle s .primary = true →
    let afterWrite : Bool := match s.primary with
      | [] => s.elapsed == 0 && s.primaryWrote
      | c :: _ => c.write && region s c.addr != .iostrb && c.stop == some s.elapsed
    let lead := if afterWrite = true then 1 else bankGap s .primary a
    let t := s.elapsed + lead
    let wait := portWait s .primary (nextRead s).waits t
    let word := (nextRead s).word.getD (memWord s.mem a)
    (holdsBus (pinsIn s s.elapsed) s.primaryCtl = true →
      load a s = .error (.stall .held) ∧ store a v s = .error (.stall .held)) ∧
    (holdsBus (pinsIn s s.elapsed) s.primaryCtl = false →
      (∃ u, store a v s = .ok u ∧ u.elapsed = s.elapsed) ∧
      (∀ n, wait = some n → ∃ x u, load a s = .ok (x, u) ∧ u.elapsed = t + n) ∧
      (wait = none → load a s = .error (.lockup .primary
        { addr := a, write := false, word := word, old := word, waits := (nextRead s).waits
          lead := lead, start := t, stop := none })))) ∧
  (∀ (s : State) (p : PortName) (waits t n : Nat),
    let ready (j : Nat) : Bool := readyBy ((portCtl s p).extractLsb' 3 2).toNat
      (!p.pin (pinsIn s (t + j)) && decide (waits ≤ j)) (decide (((portCtl s p).extractLsb' 5 3).toNat ≤ j))
    portWait s p waits t = some n ↔
      ready n = true ∧ (∀ j < n, ready j = false) ∧ ∀ j ≤ n, (pinsIn s (t + j)).reset = true) ∧
  (∀ s : State, portIdle { s with elapsed := 0 } .primary = true → s.stalled ≠ some .primary →
    holdaPin s = if holdsBus s.pins s.primaryCtl then .low else .high) ∧
  ∀ (s : State) (w : Stop) (src : Src Reg) (dst r : Reg) (fsrc : Src FReg) (f g h : FReg) (m : MemOp) (c : Cond)
    (x y : Src3 Reg) (fx fy : Src3 FReg) (p : BitVec 2) (d1 d2 : BitVec 1) (hi lo : Ind Unit) (k : BitVec 5) (t : Target)
    (a a1 a2 : Addr) (v : Word) (s₁ s₂ : State),
    (srcInt src s = .error w → ∀ i ∈ [Instr.absi src dst, .addc src dst, .addi src dst, .ash src dst,
        .cmpi src dst, .ldi src dst, .lsh src dst, .mpyi src dst, .negb src dst, .negi src dst, .subb src dst,
        .subi src dst, .subrb src dst, .subri src dst, .float src f, .ldiCond c src dst], Waits i s w) ∧
    (srcUns src s = .error w → ∀ i ∈ [Instr.and src dst, .andn src dst, .not src dst, .or src dst, .subc src dst,
        .tstb src dst, .xor src dst, .rpts src], Waits i s w) ∧
    (srcFlt fsrc s = .error w → ∀ i ∈ [Instr.absf fsrc f, .addf fsrc f, .cmpf fsrc f, .fix fsrc dst, .lde fsrc f,
        .ldf fsrc f, .mpyf fsrc f, .negf fsrc f, .norm fsrc f, .rnd fsrc f, .subf fsrc f, .subrf fsrc f,
        .ldfCond c fsrc f], Waits i s w) ∧
    (srcMan fsrc s = .error w → Waits (.ldm fsrc f) s w) ∧
    (srcPairInt x y s = .error w → ∀ i ∈ [Instr.addc3 x y dst, .addi3 x y dst, .and3 x y dst, .andn3 x y dst,
        .ash3 x y dst, .cmpi3 x y, .lsh3 x y dst, .mpyi3 x y dst, .or3 x y dst, .subb3 x y dst, .subi3 x y dst, .tstb3 x y,
        .xor3 x y dst], Waits i s w) ∧
    (srcPairFlt fx fy s = .error w → ∀ i ∈ [Instr.addf3 fx fy f, .cmpf3 fx fy, .mpyf3 fx fy f, .subf3 fx fy f],
        Waits i s w) ∧
    (load (s.sp.extractLsb' 0 24) s = .error w →
      Waits (.pop dst) s w ∧ Waits (.popf f) s w ∧
      (condHolds s.st c = true → Waits (.retsCond c) s w ∧ Waits (.retiCond c) s w)) ∧
    (store ((s.sp + 1).extractLsb' 0 24) (readReg r { s with sp := s.sp + 1 }) { s with sp := s.sp + 1 } =
      .error w → Waits (.push r) s w) ∧
    (store ((s.sp + 1).extractLsb' 0 24) ((readExt f s).extractLsb' 8 32) { s with sp := s.sp + 1 } = .error w →
      Waits (.pushf f) s w) ∧
    (store ((s.sp + 1).extractLsb' 0 24) ((s.pc + 1).setWidth 32) { s with sp := s.sp + 1 } = .error w →
      Waits (.call a) s w ∧ (condHolds s.st c = true → Waits (.callCond c t) s w)) ∧
    (condHolds s.st c = true →
      store ((s.sp + 1).extractLsb' 0 24) ((s.pc + 1).setWidth 32)
        { s with sp := s.sp + 1, st := s.st &&& ~~~0x2000#32 } = .error w ∨
      store ((s.sp + 1).extractLsb' 0 24) ((s.pc + 1).setWidth 32)
        { s with sp := s.sp + 1, st := s.st &&& ~~~0x2000#32 } = .ok s₁ ∧
        loadFor .vector (BitVec.ofNat 24 (0x20 + k.toNat)) s₁ = .error w →
      Waits (.trapCond c k) s w) ∧
    (memAddr m s = .ok (a, s₁) →
      (load a s₁ = .error w →
        (∀ i, m = .ind i → Waits (.nop (.ind i)) s w) ∧ ((∀ n c, w ≠ .lockup n c) → Waits (.iack m) s w) ∧
        (∀ n c, w = .lockup n c → exec (.iack m) s = .next (addCycle c { s with
          stalled := some n.wait, iack := some { start := c.start, addr := a } } n)) ∧
        (region s a = .ram ∨ region s a = .rom ∧ s.lockWait = 0 → Waits (.ldfi m f) s w ∧ Waits (.ldii m dst) s w)) ∧
      (store a (readReg r s₁) s₁ = .error w → Waits (.sti r m) s w) ∧
      (store a ((readExt f s₁).extractLsb' 8 32) s₁ = .error w → Waits (.stf f m) s w) ∧
      (interlocked s a = true → s.iof.getLsbD 1 = true → s.iof.getLsbD 5 = false →
        (∀ n, s.lockWait = 0 → portOf (region s a) = some n →
          portStart s n = .error w ∨ (∃ d, portStart s n = .ok d ∧ d ≠ s.elapsed) ∧ w = .stall n.wait →
          Waits (.ldfi m f) s w ∧ Waits (.ldii m dst) s w) ∧
        (store a (readReg r { s₁ with iof := setBit s₁.iof 2 true }) { s₁ with iof := setBit s₁.iof 2 true } =
          .error w → Waits (.stii r m) s (if w = .stall .held then .stall .heldStore else w)) ∧
        (store a ((readExt f s₁).extractLsb' 8 32) { s₁ with iof := setBit s₁.iof 2 true } = .error w →
          Waits (.stfi f m) s (if w = .stall .held then .stall .heldStore else w)))) ∧
    (indirectPair hi lo s = .ok (a1, a2, s₁) →
      (readFirst (offChip s₁ a1) a2 a1 s₁ = .error w ∨
          readFirst (offChip s₁ a1) a2 a1 s₁ = .ok (v, s₂) ∧ readOperand [] a2 s₂ = .error w →
        Waits (.ldf_ldf f g hi lo) s w ∧ Waits (.ldi_ldi f g hi lo) s w) ∧
      ((if offChip s₁ a1 && !offChip s₁ a2 then
          readFirst true a1 a2 s₁ = .error w ∨ readFirst true a1 a2 s₁ = .ok (v, s₂) ∧ readOperand [] a1 s₂ = .error w
        else readFirst (offChip s₁ a1) a2 a1 s₁ = .error w ∨
          readFirst (offChip s₁ a1) a2 a1 s₁ = .ok (v, s₂) ∧ readOperand [] a2 s₂ = .error w) →
        ∀ i ∈ [Instr.mpyf3_addf3 p d1 d2 f g hi lo, .mpyf3_subf3 p d1 d2 f g hi lo, .mpyi3_addi3 p d1 d2 f g hi lo,
          .mpyi3_subi3 p d1 d2 f g hi lo], Waits i s w) ∧
      (storeWith [a2] a1 ((readExt g s).extractLsb' 8 32) s₁ = .error w ∨
        storeWith [a2] a1 ((readExt g s).extractLsb' 8 32) s₁ = .ok s₂ ∧
          storeSecond a1 a2 ((readExt f s).extractLsb' 8 32) s₂ = .error w →
        Waits (.stf_stf f g hi lo) s w) ∧
      (storeWith [a2] a1 (readInt g s) s₁ = .error w ∨
        storeWith [a2] a1 (readInt g s) s₁ = .ok s₂ ∧ storeSecond a1 a2 (readInt f s) s₂ = .error w →
        Waits (.sti_sti f g hi lo) s w) ∧
      (readOperand [] a2 s₁ = .error w ∨
        readOperand [] a2 s₁ = .ok (v, s₂) ∧ storeLater a1 ((readExt h s).extractLsb' 8 32) s₂ = .error w →
        ∀ i ∈ [Instr.absf_stf f h hi lo, .addf3_stf f g h hi lo, .float_stf f h hi lo, .ldf_stf f h hi lo,
          .mpyf3_stf f g h hi lo, .negf_stf f h hi lo, .subf3_stf f g h hi lo], Waits i s w) ∧
      (readOperand [] a2 s₁ = .error w ∨ readOperand [] a2 s₁ = .ok (v, s₂) ∧ storeLater a1 (readInt h s) s₂ = .error w →
        ∀ i ∈ [Instr.absi_sti f h hi lo, .addi3_sti f g h hi lo, .and3_sti f g h hi lo, .ash3_sti f g h hi lo,
          .fix_sti f h hi lo, .ldi_sti f h hi lo, .lsh3_sti f g h hi lo, .mpyi3_sti f g h hi lo, .negi_sti f h hi lo,
          .not_sti f h hi lo, .or3_sti f g h hi lo, .subi3_sti f g h hi lo, .xor3_sti f g h hi lo], Waits i s w))

/-- The routing of every address by device and mode pin (the table of R82). -/
def Obligations.AddressMap : Prop :=
  ∀ (s : State) (a : Addr),
    (a.toNat ≤ 0xFFF → region s a = if s.pins.mcmp then .rom else .primary) ∧
    (0x1000 ≤ a.toNat → a.toNat ≤ 0x7FFFFF → region s a = .primary) ∧
    (0x800000 ≤ a.toNat → a.toNat ≤ 0x801FFF → region s a = if s.device = .c30 then .mstrb else .reserved) ∧
    (0x802000 ≤ a.toNat → a.toNat ≤ 0x803FFF → region s a = .reserved) ∧
    (0x804000 ≤ a.toNat → a.toNat ≤ 0x805FFF → region s a = if s.device = .c30 then .iostrb else .reserved) ∧
    (0x806000 ≤ a.toNat → a.toNat ≤ 0x807FFF → region s a = .reserved) ∧
    (0x808000 ≤ a.toNat → a.toNat ≤ 0x8097FF → region s a = .peripheral) ∧
    (0x809800 ≤ a.toNat → a.toNat ≤ 0x809FFF → region s a = .ram) ∧
    (0x80A000 ≤ a.toNat → region s a = .primary)

/-- An access of any kind, of the CPU or of the DMA controller, to a reserved address, on the peripheral bus as well, and a
write of either to the ROM are refused under the address; a C31's ROM is read by fetches and vector reads only, and nothing is
fetched from the peripheral bus (R83, R84, R88, R89). The refusals are the treatment of file 93 (U2, U3; log 22, log 23). -/
def Obligations.ReservedAccessRefused : Prop :=
  ∀ (s : State) (a : Addr) (v : Word) (k : Access), s.env.dmaWithin = [] →
    (region s a = .reserved → NotThere a (load a s) ∧ NotThere a (store a v s) ∧ NotThere a (loadFor k a s) ∧
      ∀ dma, NotThere a (storeFor dma a v s)) ∧
    (region s a = .peripheral → a ∉ peripheralRegisters s.device → portIdle s .expansion = true →
      NotThere a (load a s) ∧ NotThere a (store a v s) ∧ NotThere a (loadFor .vector a s) ∧ NotThere a (loadFor .dma a s) ∧
      ∀ dma, NotThere a (storeFor dma a v s)) ∧
    (region s a = .peripheral → loadFor .fetch a s = .error (.refuse .fetchFromPeripheral)) ∧
    (region s a = .rom → store a v s = .error (.refuse (.romWrite a)) ∧
      (∀ dma, storeFor dma a v s = .error (.refuse (.romWrite a))) ∧
      (s.device ≠ .c30 → NotThere a (load a s) ∧ NotThere a (loadFor .dma a s)) ∧
      ∃ t u, loadFor .fetch a s = .ok (s.rom.getD a.toNat 0#32, t) ∧
        loadFor .vector a s = .ok (s.rom.getD a.toNat 0#32, u) ∧ t.mem = s.mem ∧ u.mem = s.mem)

/-! ## Registers -/

/-- Every register but IE of a C31 takes any word; R0-R7 keep bits 39-32; DP, IR0, IR1, BK, SP, AR, RS, RE and RC hold all
32 bits, and read back so, but for RC in a repeat mode (R644); no other register changes (R20 to R27, R55). -/
def Obligations.RegisterWrite : Prop :=
  ∀ (q : Reg) (v : Word) (s : State),
    (q ≠ .ie → ∃ t, writeReg q v s = .ok t) ∧
    ∀ t, writeReg q v s = .ok t →
      KeepsRegs [q] s t ∧ t.pc = s.pc ∧ t.mem = s.mem ∧
      (∀ n, q = .r n → readExt n t = (readExt n s).extractLsb' 32 8 ++ v) ∧
      (q = .rc → t.rc = v) ∧
      (q ≠ .st → q ≠ .ie → q ≠ .ifr → q ≠ .iof → q ≠ .rc ∨ s.st.getLsbD 8 = false → readReg q t = v)

/-- A load of ST: bits 9, 12, 14, 15 and 31-16 read as 0, the rest is the operand, but RM is not set while RC is 0 or -1;
a 1 in bit 12 clears every present flag of the cache (R33, R34, R38, R107). Bits 31-16 rest on decision D1 (log 11). That the
clause on RM takes RC exactly as R642 counts it, also inside a repeat block, where RC as an instruction reads it is inexact
(R644), is the model's choice (log 18, unsafe). -/
def Obligations.StatusRegisterLoad : Prop :=
  ∀ (v : Word) (s : State), ∃ t, writeReg .st v s = .ok t ∧
    t.st.getLsbD 8 = (v.getLsbD 8 && !(s.rc == 0#32 || s.rc == 0xFFFFFFFF#32)) ∧
    (∀ k < 14, k ≠ 8 → k ≠ 9 → k ≠ 12 → t.st.getLsbD k = v.getLsbD k) ∧
    t.st.getLsbD 9 = false ∧ t.st.getLsbD 12 = false ∧ (∀ k, 14 ≤ k → t.st.getLsbD k = false) ∧
    (v.getLsbD 12 = true → t.cache.seg0.present = 0#32 ∧ t.cache.seg1.present = 0#32) ∧
    (v.getLsbD 12 = false → t.cache = s.cache)

/-- RM cannot be loaded with 1 while RC is 0 or -1 (R646); RPTB and RPTS set it whatever RC is, which R646 derives from
R460. That the first clause takes RC exactly as R642 counts it, also inside a repeat block, where RC as an instruction reads it
is inexact (R644), is the model's choice (log 18, unsafe for a write of ST that sets RM in a block). -/
def Obligations.RepeatModeBit : Prop :=
  ∀ (s : State) (v : Word),
    (∃ t, writeReg .st v s = .ok t ∧
      t.st.getLsbD 8 = (v.getLsbD 8 && !(s.rc == 0#32 || s.rc == 0xFFFFFFFF#32))) ∧
    (∀ a, ∃ t, exec (.rptb a) s = .next t ∧ t.st.getLsbD 8 = true) ∧
    (∀ src w s₁, srcUns src s = .ok (w, s₁) → ∃ t, exec (.rpts src) s = .next t ∧ t.st.getLsbD 8 = true)

/-- Loads of IE, IF and IOF: each keeps its own bits and reads 0 elsewhere; a 1 in a serial-port-1 enable stops a C31;
IOF reads the pin levels in bits 3 and 7 (R50, R51, R52). The reserved bits rest on decision D1, the level that INXF0 and
INXF1 read while the pin is an output on D2, and bits 6 and 7 of IF on a C31 are the model's choice (log 11); the refusal is
the treatment of U7 in file 93 (log 22). -/
def Obligations.InterruptAndFlagRegisters : Prop :=
  ∀ (v : Word) (s : State),
    (s.device = .c30 ∨ v &&& 0x00C000C0#32 = 0#32 →
      ∃ t, writeReg .ie v s = .ok t ∧ readReg .ie t = v &&& 0x07FF07FF#32) ∧
    (s.device ≠ .c30 → v &&& 0x00C000C0#32 ≠ 0#32 → writeReg .ie v s = .error (.refuse .serialPort1Enable)) ∧
    (s.ifSet = 0#11 → ∃ t, writeReg .ifr v s = .ok t ∧ readReg .ifr t = v &&& 0x7FF#32) ∧
    (∃ t, writeReg .iof v s = .ok t ∧ (∀ k, k ≠ 3 → k ≠ 7 →
        (readReg .iof t).getLsbD k = (v.getLsbD k && (k == 1 || k == 2 || k == 5 || k == 6))) ∧
      (readReg .iof t).getLsbD 3 = (if v.getLsbD 1 then v.getLsbD 2 else s.pins.xf0) ∧
      (readReg .iof t).getLsbD 7 = (if v.getLsbD 5 then v.getLsbD 6 else s.pins.xf1))

/-! ## Addressing -/

/-- A direct address is the low 8 bits of DP followed by the 16 of the instruction; DP is not changed (R244). -/
def Obligations.DirectAddress : Prop :=
  ∀ (a : BitVec 16) (s : State),
    memAddr (.dir a) s = .ok (directAddr a s, s) ∧
    (directAddr a s).toNat = s.dp.toNat % 256 * 65536 + a.toNat

/-- The six indirect modes with a displacement that are not circular, and the plain one: address and update, modulo
2^24; bits 31-24 of the auxiliary register stay (R250 to R256, R261). -/
def Obligations.DisplacementModes : Prop :=
  ∀ (n : BitVec 3) (d : BitVec 8) (s : State),
    let low : Addr := (s.ar[n.toNat]).setWidth 24
    let moved (a : Addr) : State := { s with ar := s.ar.set n.toNat ((s.ar[n.toNat]).extractLsb' 24 8 ++ a) }
    indirect (.idx .preAdd (.disp d) n) s = .ok (low + d.setWidth 24, s) ∧
    indirect (.idx .preSub (.disp d) n) s = .ok (low - d.setWidth 24, s) ∧
    indirect (.idx .preAddMod (.disp d) n) s = .ok (low + d.setWidth 24, moved (low + d.setWidth 24)) ∧
    indirect (.idx .preSubMod (.disp d) n) s = .ok (low - d.setWidth 24, moved (low - d.setWidth 24)) ∧
    indirect (.idx .postAdd (.disp d) n) s = .ok (low, moved (low + d.setWidth 24)) ∧
    indirect (.idx .postSub (.disp d) n) s = .ok (low, moved (low - d.setWidth 24)) ∧
    indirect (.plain n) s = .ok (low, s)

/-- The six indirect modes with an index register that are not circular take its low 24 bits as their step, of any size, in
address and update, modulo 2^24 (R259, R260; the circular ones are in CircularAddressing); in the short form the displacement
is 1 (R265), and two fields that give addresses together give what each gives alone (R263). The bit-reversed mode adds IR0 with
the carry running down from bit 23 (R262, R270). The bit-reversed mode outside its usual conditions rests on decision D23
(log 11). -/
def Obligations.IndexModes : Prop :=
  ∀ (n : BitVec 3) (s : State),
    let low : Addr := (s.ar[n.toNat]).setWidth 24
    let moved (a : Addr) : State := { s with ar := s.ar.set n.toNat ((s.ar[n.toNat]).extractLsb' 24 8 ++ a) }
    (∀ (x : Step (BitVec 8)) (d : Addr), x = .ir0 ∧ d = s.ir0.setWidth 24 ∨ x = .ir1 ∧ d = s.ir1.setWidth 24 →
      indirect (.idx .preAdd x n) s = .ok (low + d, s) ∧
      indirect (.idx .preSub x n) s = .ok (low - d, s) ∧
      indirect (.idx .preAddMod x n) s = .ok (low + d, moved (low + d)) ∧
      indirect (.idx .preSubMod x n) s = .ok (low - d, moved (low - d)) ∧
      indirect (.idx .postAdd x n) s = .ok (low, moved (low + d)) ∧
      indirect (.idx .postSub x n) s = .ok (low, moved (low - d))) ∧
    (∀ op : IndOp, indirect3 (.idx op (.disp ()) n) s = indirect (.idx op (.disp 1#8) n) s ∧
      indirect3 (.idx op .ir0 n) s = indirect (.idx op .ir0 n) s ∧
      indirect3 (.idx op .ir1 n) s = indirect (.idx op .ir1 n) s) ∧
    indirect3 (.plain n) s = indirect (.plain n) s ∧ indirect3 (.bitrev n) s = indirect (.bitrev n) s ∧
    (∀ (i : Ind Unit) (a : Addr) (u : Option Addr), generate disp1 i s = .ok (a, u) →
      ∃ t, indirect3 i s = .ok (a, t) ∧ KeepsRegs [.ar i.arCode] s t ∧ arAddr i.arCode t = u.getD (arAddr i.arCode s)) ∧
    ∃ t, indirect (.bitrev n) s = .ok (low, t) ∧ KeepsRegs [.ar n] s t ∧
      (t.ar[n.toNat]).extractLsb' 24 8 = (s.ar[n.toNat]).extractLsb' 24 8 ∧
      ∀ k < 24, (arAddr n t).getLsbD k = (low.reverse + (s.ir0.setWidth 24).reverse).getLsbD (23 - k)

/-- Circular addressing within its conditions: the address is ARn, the bits above the block's highest stay, and the index
moves by the step modulo the block size and stays within the block. Outside its conditions it is refused (R257, R258, R266,
R267, U17). The refusal is the treatment of file 93 (log 22). -/
def Obligations.CircularAddressing : Prop :=
  (∀ (bk : Word) (a : Addr) (step : Nat) (forward : Bool),
    let block := 2 ^ (bk.toNat.log2 + 1)
    (0 < bk.toNat → bk.toNat < 2 ^ 16 → step ≤ bk.toNat → a.toNat % block < bk.toNat →
      ∃ b, circ bk a step forward = .ok b ∧ b.toNat / block = a.toNat / block ∧ b.toNat % block < bk.toNat ∧
        ((b.toNat % block : Nat) : Int) % bk.toNat =
          ((a.toNat % block : Nat) + (if forward then (step : Int) else -step)) % bk.toNat) ∧
    (bk.toNat = 0 ∨ 2 ^ 16 ≤ bk.toNat ∨ bk.toNat < step ∨ bk.toNat ≤ a.toNat % block →
      circ bk a step forward = .error (.refuse .circularConditions))) ∧
  ∀ (forward : Bool) (d : BitVec 8) (n : BitVec 3) (s : State),
    let op : IndOp := if forward then .postAddCirc else .postSubCirc
    let low : Addr := (s.ar[n.toNat]).setWidth 24
    let gives (x : Except Stop (Addr × State)) (step : Nat) : Prop :=
      (∀ b, circ s.bk low step forward = .ok b →
        x = .ok (low, { s with ar := s.ar.set n.toNat ((s.ar[n.toNat]).extractLsb' 24 8 ++ b) })) ∧
      ∀ e, circ s.bk low step forward = .error e → x = .error e
    gives (indirect (.idx op (.disp d) n) s) d.toNat ∧ gives (indirect (.idx op .ir0 n) s) (s.ir0.setWidth 24).toNat ∧
    gives (indirect (.idx op .ir1 n) s) (s.ir1.setWidth 24).toNat ∧ gives (indirect3 (.idx op (.disp ()) n) s) 1

/-- Sources by their form: a register, an immediate widened by the kind, a word of memory at a direct or an indirect address
(the table of R330, R198, R206, R307); both sources of the three-operand forms, and the two addresses of the parallel forms,
both from the registers before the instruction; of two updates of one auxiliary register only that of the field in bits
15-8 is kept (R263, R400, R521, R523). The read of src1 first, and of src2 in the cycle after it where src1 is off-chip, is R850.
On-chip, or where the instruction does not directly
follow a single external store, the operand of a three-operand or parallel form is read as any other (R852). The register
updated twice rests on decision D11, a register read after the auxiliary register's update on D9, an exponent of -8 with a
mantissa on D18 (log 11). -/
def Obligations.OperandFetch : Prop :=
  (∀ (s s₁ s₂ : State) (r : Reg) (f : FReg) (d v : BitVec 16) (i : Ind (BitVec 8)) (a : Addr) (w : Word),
    srcInt (.reg r) s = .ok (readReg r s, s) ∧ srcInt (.imm v) s = .ok (BitVec.ofInt 32 v.toInt, s) ∧
    srcUns (.reg r) s = .ok (readReg r s, s) ∧ srcUns (.imm v) s = .ok (BitVec.ofNat 32 v.toNat, s) ∧
    srcFlt (.reg f) s = .ok (readExt f s, s) ∧ srcMan (.reg f) s = .ok (readExt f s, s) ∧
    srcMan (.imm v) s = .ok (0#8 ++ v.extractLsb' 0 12 ++ 0#20, s) ∧
    (∃ x, srcFlt (.imm v) s = .ok (x, s) ∧ (v.extractLsb' 12 4 = 8#4 → x = 0x8000000000#40) ∧
      (v.extractLsb' 12 4 ≠ 8#4 → expOf x = (v.extractLsb' 12 4).toInt ∧ manOf x = v.extractLsb' 0 12 ++ 0#20)) ∧
    (region s a = .ram → s.env.dmaWithin = [] → ∃ t, load a s = .ok (memWord s.mem a, t) ∧ KeepsRegs [] s t ∧ t.mem = s.mem) ∧
    (load (directAddr d s) s = .ok (w, s₁) →
      srcInt (.dir d) s = .ok (w, s₁) ∧ srcUns (.dir d) s = .ok (w, s₁) ∧ srcFlt (.dir d) s = .ok (w ++ 0#8, s₁) ∧
      srcMan (.dir d) s = .ok (w.setWidth 40, s₁)) ∧
    (indirect i s = .ok (a, s₁) → load a s₁ = .ok (w, s₂) →
      srcInt (.ind i) s = .ok (w, s₂) ∧ srcUns (.ind i) s = .ok (w, s₂) ∧ srcFlt (.ind i) s = .ok (w ++ 0#8, s₂) ∧
      srcMan (.ind i) s = .ok (w.setWidth 40, s₂))) ∧
  (∀ (s s₁ s₂ s₃ : State) (q r : Reg) (f g : FReg) (i j : Ind Unit) (a b : Addr) (x y : Word),
    srcPairInt (.reg q) (.reg r) s = .ok (readReg q s, readReg r s, s) ∧
    srcPairFlt (.reg f) (.reg g) s = .ok (readExt f s, readExt g s, s) ∧
    (s.env.dmaWithin = [] → (offChip s a && s.outBefore == 1) = false →
      readOperand [] a s = load a s ∧ readOperand [b] a s = load a s) ∧
    (indirect3 i s = .ok (a, s₁) → readOperand [] a s₁ = .ok (x, s₂) →
      srcPairInt (.ind i) (.reg r) s = .ok (x, readReg r s₂, s₂) ∧
      srcPairInt (.reg r) (.ind i) s = .ok (readReg r s₂, x, s₂) ∧
      srcPairFlt (.ind i) (.reg g) s = .ok (x ++ 0#8, readExt g s₂, s₂) ∧
      srcPairFlt (.reg g) (.ind i) s = .ok (readExt g s₂, x ++ 0#8, s₂)) ∧
    (∀ apart, readOperand (if apart then [] else [b]) a s = .ok (x, s₁) →
      readFirst apart b a s = .ok (x, if apart then { s₁ with elapsed := s₁.elapsed + 1 } else s₁)) ∧
    (indirectPair i j s = .ok (a, b, s₁) → readFirst (offChip s₁ a) b a s₁ = .ok (x, s₂) →
        readOperand [] b s₂ = .ok (y, s₃) →
      srcPairInt (.ind i) (.ind j) s = .ok (x, y, s₃) ∧ srcPairFlt (.ind i) (.ind j) s = .ok (x ++ 0#8, y ++ 0#8, s₃))) ∧
  ∀ (s : State) (hi lo : Ind Unit) (a b : Addr) (u v : Option Addr),
    generate disp1 hi s = .ok (a, u) → generate disp1 lo s = .ok (b, v) →
    ∃ t, indirectPair hi lo s = .ok (a, b, t) ∧ KeepsRegs [.ar hi.arCode, .ar lo.arCode] s t ∧ t.mem = s.mem ∧
      arAddr hi.arCode t = u.getD (arAddr hi.arCode s) ∧
      (lo.arCode ≠ hi.arCode → arAddr lo.arCode t = v.getD (arAddr lo.arCode s)) ∧
      ∀ n : BitVec 3, (t.ar[n.toNat]).extractLsb' 24 8 = (s.ar[n.toNat]).extractLsb' 24 8

/-! ## Results: integers -/

/-- ABSI, ADDC, ADDI, NEGB, NEGI, SUBB, SUBI, SUBRB, SUBRI and MPYI (of the low 24 bits) complete with the exact
result, saturated where OVM is 1, in any destination register (R331, R332, R335, R336, R338, R348, R349, R351, R360,
R363, R364, R366). N of MPYI rests on decision D14, the order in which a source's update of an auxiliary register and the
read or write of the same register fall on D9 (log 11). -/
def Obligations.IntegerArithmeticResults : Prop :=
  ∀ (src : Src Reg) (dst : Reg) (s s₁ : State) (b : Word), srcInt src s = .ok (b, s₁) →
    let d := readReg dst s₁
    let c : Nat := (s₁.st.getLsbD 0).toNat
    GivesInt (.absi src dst) s s₁ dst (absIs s₁.st |b.toInt|) ∧
    GivesInt (.addi src dst) s s₁ dst (sumIs s₁.st (d.toInt + b.toInt) (2 ^ 32 ≤ d.toNat + b.toNat)) ∧
    GivesInt (.addc src dst) s s₁ dst (sumIs s₁.st (d.toInt + b.toInt + c) (2 ^ 32 ≤ d.toNat + b.toNat + c)) ∧
    GivesInt (.negi src dst) s s₁ dst (sumIs s₁.st (-b.toInt) (b ≠ 0#32)) ∧
    GivesInt (.negb src dst) s s₁ dst (sumIs s₁.st (-b.toInt - c) (0 < b.toNat + c)) ∧
    GivesInt (.subi src dst) s s₁ dst (sumIs s₁.st (d.toInt - b.toInt) (d.toNat < b.toNat)) ∧
    GivesInt (.subb src dst) s s₁ dst (sumIs s₁.st (d.toInt - b.toInt - c) (d.toNat < b.toNat + c)) ∧
    GivesInt (.subri src dst) s s₁ dst (sumIs s₁.st (b.toInt - d.toInt) (b.toNat < d.toNat)) ∧
    GivesInt (.subrb src dst) s s₁ dst (sumIs s₁.st (b.toInt - d.toInt - c) (b.toNat < d.toNat + c)) ∧
    GivesInt (.mpyi src dst) s s₁ dst (productIs s₁.st (product24 d b))

/-- AND, ANDN, NOT, OR and XOR take a zero-filled immediate; so does SUBC, one step of an unsigned division without flags;
LDI takes a sign-extended one; LDP is LDI of its immediate (R305, R308, R339, R340, R353, R354, R361, R368). The order of
an auxiliary register's update against its read or write is decision D9 (log 11). -/
def Obligations.LogicAndLoadResults : Prop :=
  ∀ (src : Src Reg) (dst : Reg) (s s₁ : State) (b : Word) (imm : BitVec 16),
    (srcUns src s = .ok (b, s₁) →
      let d := readReg dst s₁
      GivesInt (.and src dst) s s₁ dst (logicIs (d &&& b)) ∧
      GivesInt (.andn src dst) s s₁ dst (logicIs (d &&& ~~~b)) ∧
      GivesInt (.or src dst) s s₁ dst (logicIs (d ||| b)) ∧
      GivesInt (.xor src dst) s s₁ dst (logicIs (d ^^^ b)) ∧
      GivesInt (.not src dst) s s₁ dst (logicIs (~~~b)) ∧
      ∀ s₂, writeReg dst (BitVec.ofNat 32 (if b.toNat ≤ d.toNat then 2 * (d.toNat - b.toNat) + 1 else 2 * d.toNat)) s₁ =
          .ok s₂ → exec (.subc src dst) s = .next { s₂ with pc := s.pc + 1 }) ∧
    (srcInt src s = .ok (b, s₁) → GivesInt (.ldi src dst) s s₁ dst (logicIs b)) ∧
    GivesInt (.ldp dst imm) s s dst (logicIs (imm.signExtend 32))

/-- ASH and LSH by the signed count in the seven low bits of the source; ROL, ROLC, ROR and RORC move every bit one
place, the last bit out going to C, and through C in two of them (R341, R346, R356 to R359). Counts beyond 32 rest
on decision D8, the order of an auxiliary register's update against its read or write on D9 (log 11). -/
def Obligations.ShiftAndRotateResults : Prop :=
  ∀ (src : Src Reg) (dst : Reg) (s s₁ : State) (b : Word),
    (srcInt src s = .ok (b, s₁) →
      GivesInt (.ash src dst) s s₁ dst (ashIs b (readReg dst s₁)) ∧
      GivesInt (.lsh src dst) s s₁ dst (lshIs b (readReg dst s₁))) ∧
    let x := readReg dst s
    GivesInt (.rol dst) s s dst (shiftIs (x.rotateLeft 1) (x.getLsbD 31) false) ∧
    GivesInt (.ror dst) s s dst (shiftIs (x.rotateRight 1) (x.getLsbD 0) false) ∧
    GivesInt (.rolc dst) s s dst
      (shiftIs (BitVec.ofNat 32 (2 * x.toNat + (s.st.getLsbD 0).toNat)) (x.getLsbD 31) false) ∧
    GivesInt (.rorc dst) s s dst
      (shiftIs (BitVec.ofNat 32 (x.toNat / 2 + 2 ^ 31 * (s.st.getLsbD 0).toNat)) (x.getLsbD 0) false)

/-- CMPI and TSTB write flags only, whatever the register they name (R343, R367); so do CMPI3 and TSTB3 (R408, R416). The
order of an auxiliary register's update against its read is decision D9 (log 11). -/
def Obligations.IntegerCompareResults : Prop :=
  ∀ (src : Src Reg) (dst : Reg) (x y : Src3 Reg) (s s₁ : State) (a b : Word),
    (srcInt src s = .ok (b, s₁) → GivesFlags (.cmpi src dst) s s₁ (compareIs (readReg dst s₁) b)) ∧
    (srcUns src s = .ok (b, s₁) → GivesFlags (.tstb src dst) s s₁ (logicIs (readReg dst s₁ &&& b))) ∧
    (srcPairInt x y s = .ok (a, b, s₁) →
      GivesFlags (.cmpi3 x y) s s₁ (compareIs a b) ∧ GivesFlags (.tstb3 x y) s s₁ (logicIs (a &&& b)))

/-- The three-operand integer and logical instructions, `a` from src1 and `b` from src2; src1 is shifted by the
count in src2 (R400, R401, R403 to R406, R409, R411 to R413, R415, R417). N of MPYI3 and counts beyond 32 rest on
decisions D14 and D8, the order of an auxiliary register's update against its read or write on D9 (log 11). -/
def Obligations.ThreeOperandResults : Prop :=
  ∀ (x y : Src3 Reg) (dst : Reg) (s s₁ : State) (a b : Word), srcPairInt x y s = .ok (a, b, s₁) →
    let c : Nat := (s₁.st.getLsbD 0).toNat
    GivesInt (.addi3 x y dst) s s₁ dst (sumIs s₁.st (a.toInt + b.toInt) (2 ^ 32 ≤ a.toNat + b.toNat)) ∧
    GivesInt (.addc3 x y dst) s s₁ dst (sumIs s₁.st (a.toInt + b.toInt + c) (2 ^ 32 ≤ a.toNat + b.toNat + c)) ∧
    GivesInt (.subi3 x y dst) s s₁ dst (sumIs s₁.st (a.toInt - b.toInt) (a.toNat < b.toNat)) ∧
    GivesInt (.subb3 x y dst) s s₁ dst (sumIs s₁.st (a.toInt - b.toInt - c) (a.toNat < b.toNat + c)) ∧
    GivesInt (.mpyi3 x y dst) s s₁ dst (productIs s₁.st (product24 a b)) ∧
    GivesInt (.and3 x y dst) s s₁ dst (logicIs (a &&& b)) ∧
    GivesInt (.andn3 x y dst) s s₁ dst (logicIs (a &&& ~~~b)) ∧
    GivesInt (.or3 x y dst) s s₁ dst (logicIs (a ||| b)) ∧
    GivesInt (.xor3 x y dst) s s₁ dst (logicIs (a ^^^ b)) ∧
    GivesInt (.ash3 x y dst) s s₁ dst (ashIs b a) ∧
    GivesInt (.lsh3 x y dst) s s₁ dst (lshIs b a)

/-! ## Results: floating point -/

/-- The floating-point instructions on one or two general operands complete with the 40-bit result of their
operation and its flags; FIX writes any register and FLOAT reads any (R302, R333, R334, R337, R344, R345, R347,
R350, R352, R355, R362, R365). Zero inputs, truncation, Z on underflow and LUF of RND rest on decisions D15 and D18
to D21, the order of an auxiliary register's update against its read or write on D9 (log 11). -/
def Obligations.FloatResults : Prop :=
  (∀ (src : Src Reg) (dst : FReg) (s s₁ : State) (i : Word), srcInt src s = .ok (i, s₁) →
    GivesFlt (.float src dst) s s₁ dst (floatIs (ffloat i))) ∧
  ∀ (src : Src FReg) (dst : FReg) (s s₁ : State) (b : Ext), srcFlt src s = .ok (b, s₁) →
    let d := readExt dst s₁
    (∀ idst, GivesInt (.fix src idst) s s₁ idst (fixIs b)) ∧
    GivesFlt (.ldf src dst) s s₁ dst (loadIs b) ∧
    GivesFlt (.absf src dst) s s₁ dst (absfIs (fabs b)) ∧
    GivesFlt (.addf src dst) s s₁ dst (floatIs (fadd d b)) ∧
    GivesFlt (.subf src dst) s s₁ dst (floatIs (fsub d b)) ∧
    GivesFlt (.subrf src dst) s s₁ dst (floatIs (fsub b d)) ∧
    GivesFlt (.mpyf src dst) s s₁ dst (floatIs (fmul d b)) ∧
    GivesFlt (.negf src dst) s s₁ dst (floatIs (fneg b)) ∧
    GivesFlt (.norm src dst) s s₁ dst (floatIs (fnormalize b)) ∧
    GivesFlt (.rnd src dst) s s₁ dst (roundIs (fround b)) ∧
    GivesFlags (.cmpf src dst) s s₁ (floatIs (fsub d b))

/-- ADDF3, SUBF3, MPYF3 and CMPF3, `a` from src1 and `b` from src2 (R400, R402, R407, R410, R414). The values rest
on decisions D18 to D20, as in FloatResults (log 11). -/
def Obligations.ThreeOperandFloat : Prop :=
  ∀ (x y : Src3 FReg) (dst : FReg) (s s₁ : State) (a b : Ext), srcPairFlt x y s = .ok (a, b, s₁) →
    GivesFlt (.addf3 x y dst) s s₁ dst (floatIs (fadd a b)) ∧
    GivesFlt (.subf3 x y dst) s s₁ dst (floatIs (fsub a b)) ∧
    GivesFlt (.mpyf3 x y dst) s s₁ dst (floatIs (fmul a b)) ∧
    GivesFlags (.cmpf3 x y) s s₁ (floatIs (fsub a b))

/-- LDE and LDM load a part of a register, LDFcond and LDIcond load where their condition holds; none changes a flag, and
the operand is read in any case (R301, R304, R306, R307). The order of an auxiliary register's update against its read or
write is decision D9 (log 11). -/
def Obligations.PartialAndConditionalLoads : Prop :=
  ∀ (src : Src FReg) (dst : FReg) (isrc : Src Reg) (idst : Reg) (c : Cond) (s s₁ : State) (b : Ext) (w : Word),
    (srcFlt src s = .ok (b, s₁) →
      exec (.lde src dst) s = .next { writeExt dst (if b.extractLsb' 32 8 = 0x80#8 then 0x8000000000#40
        else b.extractLsb' 32 8 ++ (readExt dst s₁).extractLsb' 0 32) s₁ with pc := s₁.pc + 1 } ∧
      exec (.ldfCond c src dst) s =
        .next { (if condHolds s.st c then writeExt dst b s₁ else s₁) with pc := s₁.pc + 1 }) ∧
    (srcMan src s = .ok (b, s₁) →
      exec (.ldm src dst) s = .next { writeExt dst ((readExt dst s₁).extractLsb' 32 8 ++ b.extractLsb' 0 32) s₁ with
        pc := s₁.pc + 1 }) ∧
    (srcInt isrc s = .ok (w, s₁) →
      (condHolds s.st c = false → exec (.ldiCond c isrc idst) s = .next { s₁ with pc := s₁.pc + 1 }) ∧
      (condHolds s.st c = true → ∀ s₂, writeReg idst w s₁ = .ok s₂ →
        exec (.ldiCond c isrc idst) s = .next { s₂ with pc := s₂.pc + 1 }))

/-- The twenty conditions on the flags (the table of R441). -/
def Obligations.ConditionTable : Prop :=
  ∀ st : Word,
    let c := st.getLsbD 0
    let v := st.getLsbD 1
    let z := st.getLsbD 2
    let n := st.getLsbD 3
    let uf := st.getLsbD 4
    let lv := st.getLsbD 5
    let luf := st.getLsbD 6
    (∀ k : BitVec 5, ∀ x, Cond.ofCode k = .ok x →
      condHolds st x = match k.toNat with
        | 0 => true | 1 => c | 2 => c || z | 3 => !c && !z | 4 => !c | 5 => z | 6 => !z | 7 => n | 8 => n || z
        | 9 => !n && !z | 10 => !n | 12 => !v | 13 => v | 14 => !uf | 15 => uf | 16 => !lv | 17 => lv | 18 => !luf
        | 19 => luf | _ => z || uf) ∧
    (∀ k : BitVec 5, (∃ x, Cond.ofCode k = .ok x) ↔ k.toNat ≠ 11 ∧ k.toNat ≤ 20)

/-- Normalisation of any mantissa and exponent: it overflows exactly outside the range of the format, to its most positive
or most negative value, underflows exactly where a value that is not 0 is too near to 0, to 0; N and Z are those of the exact
value (R43, R46, R207). Else it gives a number within one unit of the last place below the exact value, or the value itself
where 32 significant bits hold it (R196, R207). Truncation is decision D19, Z = 0 on underflow D15 (log 11). -/
def Obligations.NormalisationValue : Prop :=
  ∀ m e : Int,
    let v : ℚ := m * 2 ^ (e - 31)
    ((fnorm m e).ovf = true ↔ v < -2 ^ (128 : Int) ∨ 2 ^ (128 : Int) ≤ v) ∧
    ((fnorm m e).unf = true ↔ m ≠ 0 ∧ -2 ^ (-127 : Int) ≤ v ∧ v < 2 ^ (-127 : Int)) ∧
    (fnorm m e).neg = decide (m < 0) ∧ (fnorm m e).zero = decide (m = 0) ∧
    ((fnorm m e).ovf = true → (fnorm m e).val = if m < 0 then 0x7F80000000#40 else 0x7F7FFFFFFF#40) ∧
    (m = 0 ∨ (fnorm m e).unf = true → (fnorm m e).val = 0x8000000000#40) ∧
    (m ≠ 0 → (fnorm m e).ovf = false → (fnorm m e).unf = false →
      isZero (fnorm m e).val = false ∧ fval (fnorm m e).val ≤ v ∧
      v < fval (fnorm m e).val + 2 ^ (expOf (fnorm m e).val - 31) ∧
      (-2 ^ 32 ≤ m → m < 2 ^ 32 → fval (fnorm m e).val = v))

/-- FLOAT is exact for every integer and FIX takes its result back (R211). FIX overflows exactly where the largest integer not
above its operand is below -2^31 or at least 2^31, and then gives 80000000h or 7FFFFFFFh; in range it gives that integer; N is
the sign of the operand (R210, R344). RND, where the result is in range, is the nearest value whose mantissa has 24 bits, upward
from half way; its flags are those of the mantissa with half a unit added; 0 gives 0 with UF, and so does an underflow (R209,
R355). NORM takes the mantissa as a plain signed integer, exactly, and never overflows (R208). NORM and RND of an exponent of
-128 rest on decisions D18 and D21, and that a value that is not 0 and underflows to 0 leaves Z = 0 on D15 (log 11). -/
def Obligations.ConversionValue : Prop :=
  (∀ i : Word, fval (ffloat i).val = i.toInt ∧ (ffix (ffloat i).val).val = i ∧ (ffix (ffloat i).val).ovf = false) ∧
  (∀ a : Ext,
    ((ffix a).ovf = true ↔ ⌊fval a⌋ < -2 ^ 31 ∨ 2 ^ 31 ≤ ⌊fval a⌋) ∧ (ffix a).neg = decide (fval a < 0) ∧
    (ffix a).val = if ⌊fval a⌋ < -2 ^ 31 then 0x80000000#32 else if 2 ^ 31 ≤ ⌊fval a⌋ then 0x7FFFFFFF#32
      else BitVec.ofInt 32 ⌊fval a⌋) ∧
  (∀ a : Ext, isZero a = true → fround a = { val := 0x8000000000#40, ovf := false, unf := true, neg := false, zero := true }) ∧
  (∀ a : Ext, isZero a = false →
    let r := fnorm (⌊fval a / 2 ^ (expOf a - 31)⌋ + 128) (expOf a)
    (fround a).ovf = r.ovf ∧ (fround a).unf = r.unf ∧ (fround a).neg = r.neg ∧ (fround a).zero = r.zero ∧
    (r.ovf = true → (fround a).val = 0x7F7FFFFFFF#40) ∧ (r.unf = true → (fround a).val = 0x8000000000#40) ∧
    (r.ovf = false → r.unf = false → (fround a).val.extractLsb' 0 8 = 0#8 ∧
      fval (fround a).val ≤ fval a + 2 ^ (expOf a - 24) ∧ fval a < fval (fround a).val + 2 ^ (expOf a - 24))) ∧
  (∀ a : Ext, isZero a = true → fnormalize a =
    { val := 0x8000000000#40, ovf := false, unf := decide (manOf a ≠ 0#32), neg := (manOf a).msb
      zero := decide (manOf a = 0#32) }) ∧
  ∀ a : Ext, isZero a = false →
    let v : ℚ := (manOf a).toInt * 2 ^ (expOf a - 31)
    (fnormalize a).ovf = false ∧ (fnormalize a).neg = (manOf a).msb ∧ (fnormalize a).zero = decide (manOf a = 0#32) ∧
    ((fnormalize a).unf = true ↔ manOf a ≠ 0#32 ∧ -2 ^ (-127 : Int) ≤ v ∧ v < 2 ^ (-127 : Int)) ∧
    ((fnormalize a).unf = false → fval (fnormalize a).val = v) ∧
    ((fnormalize a).unf = true → (fnormalize a).val = 0x8000000000#40)

/-- Addition and subtraction align the mantissas at the larger exponent, add or subtract, and normalise: so every output
and flag is that of the normalisation (R203, R43, R46). Without overflow or underflow they are exact but for bits below the
last place of the larger exponent. Negation and absolute value are exact but where the result leaves the range (R204, R334).
The loss of the bits shifted out is decision D20, that of the last bit at a carry-out D19, Z of a result that underflows D15,
operands of exponent -128 are D18 (log 11). -/
def Obligations.AdditionValue : Prop :=
  (∀ a b : Ext,
    let e := max (expOf a) (expOf b)
    let unit : ℚ := 2 ^ (e - 31)
    fadd a b = fnorm (⌊fval a / unit⌋ + ⌊fval b / unit⌋) e ∧ fsub a b = fnorm (⌊fval a / unit⌋ - ⌊fval b / unit⌋) e ∧
    ((fadd a b).ovf = false → (fadd a b).unf = false →
      fval (fadd a b).val ≤ fval a + fval b ∧ fval a + fval b < fval (fadd a b).val + 2 * unit) ∧
    ((fsub a b).ovf = false → (fsub a b).unf = false →
      fval (fsub a b).val < fval a - fval b + unit ∧ fval a - fval b < fval (fsub a b).val + 2 * unit)) ∧
  ∀ a : Ext,
    ((fneg a).ovf = true ↔ fval a = -2 ^ (128 : Int)) ∧ ((fneg a).unf = true ↔ fval a = 2 ^ (-127 : Int)) ∧
    (fneg a).neg = decide (0 < fval a) ∧ (fneg a).zero = isZero a ∧
    ((fneg a).ovf = true → (fneg a).val = 0x7F7FFFFFFF#40) ∧ ((fneg a).unf = true → (fneg a).val = 0x8000000000#40) ∧
    ((fneg a).ovf = false → (fneg a).unf = false → fval (fneg a).val = -fval a) ∧
    ((fabs a).ovf = true ↔ fval a = -2 ^ (128 : Int)) ∧ (fabs a).unf = false ∧ (fabs a).neg = false ∧
    (fabs a).zero = isZero a ∧ ((fabs a).ovf = true → (fabs a).val = 0x7F7FFFFFFF#40) ∧
    ((fabs a).ovf = false → fval (fabs a).val = |fval a|)

/-- Multiplication is the normalised product of the operands cut to single precision: overflow, underflow, N and Z are those
of the exact product; on overflow the output is the most positive or most negative value, on underflow 0, and in range the
product is cut to 32 bits of mantissa (R202, R207, R43, R46). Truncation is decision D19, Z = 0 on underflow D15, an operand
of exponent -128 D18 (log 11). -/
def Obligations.MultiplicationValue : Prop :=
  ∀ a b : Ext,
    let v : ℚ := fval (single a) * fval (single b)
    (isZero a = true ∨ isZero b = true →
      fmul a b = { val := 0x8000000000#40, ovf := false, unf := false, neg := false, zero := true }) ∧
    (isZero a = false → isZero b = false →
      ((fmul a b).ovf = true ↔ v < -2 ^ (128 : Int) ∨ 2 ^ (128 : Int) ≤ v) ∧
      ((fmul a b).unf = true ↔ -2 ^ (-127 : Int) ≤ v ∧ v < 2 ^ (-127 : Int)) ∧
      (fmul a b).neg = decide (v < 0) ∧ (fmul a b).zero = false ∧
      ((fmul a b).ovf = true → (fmul a b).val = if v < 0 then 0x7F80000000#40 else 0x7F7FFFFFFF#40) ∧
      ((fmul a b).unf = true → (fmul a b).val = 0x8000000000#40) ∧
      ((fmul a b).ovf = false → (fmul a b).unf = false →
        fval (fmul a b).val ≤ v ∧ v < fval (fmul a b).val + 2 ^ (expOf (fmul a b).val - 31)))

/-! ## Results: stores, the stack, parallel forms -/

/-- STF and STI store at the address of their operand, after its update of an auxiliary register; PUSH and PUSHF
store at the incremented SP; POP and POPF load and decrement it (R290, R309 to R314). The order of updates and PUSH
of SP rest on decisions D9 and D17 (log 11); the flags of POP and POPF are general knowledge (log 27, PRESUMED). -/
def Obligations.StoreAndStackResults : Prop :=
  ∀ (r : Reg) (f : FReg) (m : MemOp) (a : Addr) (w : Word) (s s₁ s₂ : State),
    (memAddr m s = .ok (a, s₁) →
      (store a (readReg r s₁) s₁ = .ok s₂ → exec (.sti r m) s = .next { s₂ with pc := s₂.pc + 1 }) ∧
      (store a ((readExt f s₁).extractLsb' 8 32) s₁ = .ok s₂ →
        exec (.stf f m) s = .next { s₂ with pc := s₂.pc + 1 })) ∧
    (store ((s.sp + 1).extractLsb' 0 24) (if r = .sp then s.sp + 1 else readReg r s) { s with sp := s.sp + 1 } = .ok s₂ →
      exec (.push r) s = .next { s₂ with pc := s₂.pc + 1 }) ∧
    (store ((s.sp + 1).extractLsb' 0 24) ((readExt f s).extractLsb' 8 32) { s with sp := s.sp + 1 } = .ok s₂ →
      exec (.pushf f) s = .next { s₂ with pc := s₂.pc + 1 }) ∧
    (load (s.sp.extractLsb' 0 24) s = .ok (w, s₁) →
      GivesInt (.pop r) s { s₁ with sp := s₁.sp - 1 } r (logicIs w) ∧
      GivesFlt (.popf f) s { s₁ with sp := s₁.sp - 1 } f (loadIs (w ++ 0#8)))

/-- A parallel multiply with an addition or subtraction reads both memory operands, src3 first but where it is off-chip and src4
on-chip, the second in the cycle after the first where that is off-chip or src3 alone is (R850), chooses the four operands by P,
writes R0 or R1 and R2 or R3, and clears N and Z (R523, R543, R545, R546, R548). That N is 0 also where an integer product
overflows is the model's choice, as R523 has it, against decision D14 (log 11). -/
def Obligations.ParallelMultiplyResults : Prop :=
  ∀ (p : BitVec 2) (d1 d2 : BitVec 1) (src1 src2 : FReg) (src3 src4 : Ind Unit) (a3 a4 : Addr) (m3 m4 : Word)
    (s s₁ s₂ s₃ : State),
    indirectPair src3 src4 s = .ok (a3, a4, s₁) →
    (if offChip s₁ a3 && !offChip s₁ a4 then readFirst true a3 a4 s₁ = .ok (m4, s₂) ∧ readOperand [] a3 s₂ = .ok (m3, s₃)
      else readFirst (offChip s₁ a3) a4 a3 s₁ = .ok (m3, s₂) ∧ readOperand [] a4 s₂ = .ok (m4, s₃)) →
    let mul : FReg := if d1 = 0#1 then 0#3 else 1#3
    let acc : FReg := if d2 = 0#1 then 2#3 else 3#3
    let x := byP p (readExt src1 s₃) (readExt src2 s₃) (m3 ++ 0#8) (m4 ++ 0#8)
    let i := byP p (readInt src1 s₃) (readInt src2 s₃) m3 m4
    let ovm := s₃.st.getLsbD 7
    let prod := product24 i.1.1 i.1.2
    let flt (op : Ext → Ext → FResult) (k : Instr) : Prop :=
      ∃ st, exec k s = .next { writeExt acc (op x.2.1 x.2.2).val (writeExt mul (fmul x.1.1 x.1.2).val s₃) with
          pc := s.pc + 1, st := st } ∧
        FlagsAre (parallelIs ((fmul x.1.1 x.1.2).ovf || (op x.2.1 x.2.2).ovf)
          ((fmul x.1.1 x.1.2).unf || (op x.2.1 x.2.2).unf)) s₃.st st
    let int (sum : Int) (k : Instr) : Prop :=
      ∃ st, exec k s = .next { writeInt acc (clamp ovm sum) (writeInt mul (clamp ovm prod) s₃) with
          pc := s.pc + 1, st := st } ∧
        FlagsAre (parallelIs (tooBig prod || tooBig sum) false) s₃.st st
    flt fadd (.mpyf3_addf3 p d1 d2 src1 src2 src3 src4) ∧
    flt fsub (.mpyf3_subf3 p d1 d2 src1 src2 src3 src4) ∧
    int (i.2.1.toInt + i.2.2.toInt) (.mpyi3_addi3 p d1 d2 src1 src2 src3 src4) ∧
    int (i.2.1.toInt - i.2.2.toInt) (.mpyi3_subi3 p d1 d2 src1 src2 src3 src4)

/-- An operation with a parallel STF: the memory operand is read, the old value of the stored register goes to memory, the
result and its flags to R0-R7; LDF changes no flag (R520, R530, R532, R537, R539, R544, R549, R555). The store is made two
cycles after the read (R850 (c); the cycles are the model's, log 19). -/
def Obligations.FloatWithStoreResults : Prop :=
  ∀ (dst1 src1 src3 : FReg) (dst2 src2 : Ind Unit) (a1 a2 : Addr) (m : Word) (s s₁ s₂ s₃ : State),
    indirectPair dst2 src2 s = .ok (a1, a2, s₁) → readOperand [] a2 s₁ = .ok (m, s₂) →
    storeLater a1 ((readExt src3 s).extractLsb' 8 32) s₂ = .ok s₃ →
    let x := readExt src1 s
    GivesFlt (.absf_stf dst1 src3 dst2 src2) s s₃ dst1 (absfIs (fabs (m ++ 0#8))) ∧
    GivesFlt (.addf3_stf dst1 src1 src3 dst2 src2) s s₃ dst1 (floatIs (fadd x (m ++ 0#8))) ∧
    GivesFlt (.float_stf dst1 src3 dst2 src2) s s₃ dst1 (floatIs (ffloat m)) ∧
    GivesFlt (.mpyf3_stf dst1 src1 src3 dst2 src2) s s₃ dst1 (floatIs (fmul x (m ++ 0#8))) ∧
    GivesFlt (.negf_stf dst1 src3 dst2 src2) s s₃ dst1 (floatIs (fneg (m ++ 0#8))) ∧
    GivesFlt (.subf3_stf dst1 src1 src3 dst2 src2) s s₃ dst1 (floatIs (fsub (m ++ 0#8) x)) ∧
    exec (.ldf_stf dst1 src3 dst2 src2) s = .next { writeExt dst1 (m ++ 0#8) s₃ with pc := s.pc + 1 }

/-- An operation with a parallel STI (R520, R531, R533 to R536, R541, R542, R547, R550 to R552, R556, R557). N of MPYI3||STI
rests on decision D14, counts beyond 32 of ASH3||STI and LSH3||STI on D8 (log 11). The store is made two cycles after the read
(R850 (c); the cycles are the model's, log 19). -/
def Obligations.IntegerWithStoreResults : Prop :=
  ∀ (dst1 src1 src3 : FReg) (dst2 src2 : Ind Unit) (a1 a2 : Addr) (m : Word) (s s₁ s₂ s₃ : State),
    indirectPair dst2 src2 s = .ok (a1, a2, s₁) → readOperand [] a2 s₁ = .ok (m, s₂) →
    storeLater a1 (readInt src3 s) s₂ = .ok s₃ →
    let x := readInt src1 s
    let gives (i : Instr) (e : Expected Word) : Prop := GivesInt i s s₃ (.r dst1) e
    gives (.absi_sti dst1 src3 dst2 src2) (absIs s.st |m.toInt|) ∧
    gives (.addi3_sti dst1 src1 src3 dst2 src2) (sumIs s.st (x.toInt + m.toInt) (2 ^ 32 ≤ x.toNat + m.toNat)) ∧
    gives (.and3_sti dst1 src1 src3 dst2 src2) (logicIs (x &&& m)) ∧
    gives (.ash3_sti dst1 src1 src3 dst2 src2) (ashIs x m) ∧
    gives (.fix_sti dst1 src3 dst2 src2) (fixIs (m ++ 0#8)) ∧
    gives (.lsh3_sti dst1 src1 src3 dst2 src2) (lshIs x m) ∧
    gives (.mpyi3_sti dst1 src1 src3 dst2 src2) (productIs s.st (product24 x m)) ∧
    gives (.negi_sti dst1 src3 dst2 src2) (sumIs s.st (-m.toInt) (m ≠ 0#32)) ∧
    gives (.not_sti dst1 src3 dst2 src2) (logicIs (~~~m)) ∧
    gives (.or3_sti dst1 src1 src3 dst2 src2) (logicIs (x ||| m)) ∧
    gives (.subi3_sti dst1 src1 src3 dst2 src2) (sumIs s.st (m.toInt - x.toInt) (m.toNat < x.toNat)) ∧
    gives (.xor3_sti dst1 src1 src3 dst2 src2) (logicIs (x ^^^ m)) ∧
    exec (.ldi_sti dst1 src3 dst2 src2) s = .next { writeInt dst1 m s₃ with pc := s.pc + 1 }

/-- Two loads in one instruction, src2's value remaining where both name one register; two stores, src2's remaining where
both go to one address; no flags (R538, R540, R553, R554, R560: the last is decision D22, log 11). That src1 is read before
src2 is the model's choice (log 11), and so is that the store of the field in bits 15-8 is handed over first, also where the two
addresses differ (log 11: as R94 has dst1 written before dst2, against the order printed in R553 and R850 (d)). Of two stores to
one port the second takes none of the CPU's time, to two ports each waits for its own (R850, R863; the time is the model's, log
19, and so are the cycles of the two loads, log 11). -/
def Obligations.DoubleLoadAndStoreResults : Prop :=
  ∀ (f2 f1 : FReg) (hi lo : Ind Unit) (a1 a2 : Addr) (m1 m2 : Word) (s s₁ s₂ s₃ : State),
    indirectPair hi lo s = .ok (a1, a2, s₁) →
    (readFirst (offChip s₁ a1) a2 a1 s₁ = .ok (m1, s₂) → readOperand [] a2 s₂ = .ok (m2, s₃) →
      exec (.ldf_ldf f2 f1 hi lo) s =
        .next { writeExt f2 (m2 ++ 0#8) (writeExt f1 (m1 ++ 0#8) s₃) with pc := s.pc + 1 } ∧
      exec (.ldi_ldi f2 f1 hi lo) s = .next { writeInt f2 m2 (writeInt f1 m1 s₃) with pc := s.pc + 1 }) ∧
    (storeWith [a2] a1 ((readExt f1 s).extractLsb' 8 32) s₁ = .ok s₂ →
        storeSecond a1 a2 ((readExt f2 s).extractLsb' 8 32) s₂ = .ok s₃ →
      exec (.stf_stf f2 f1 hi lo) s =
        .next { s₃ with pc := s.pc + 1, elapsed := if busPort s a1 = busPort s a2 then s₂.elapsed else s₃.elapsed }) ∧
    (storeWith [a2] a1 (readInt f1 s) s₁ = .ok s₂ → storeSecond a1 a2 (readInt f2 s) s₂ = .ok s₃ →
      exec (.sti_sti f2 f1 hi lo) s =
        .next { s₃ with pc := s.pc + 1, elapsed := if busPort s a1 = busPort s a2 then s₂.elapsed else s₃.elapsed })

/-! ## Results: interlocked instructions -/

/-- On-chip memory: LDFI, LDII, STFI and STII are LDF, LDI, STF and STI. Elsewhere, with XF0 an output and XF1 an input, a
load begins its read once its port is free, after the extra cycle of another bank or of a write before it (R676, R681), and with
it XF0 goes low; it ends in the first cycle in which the bus is ready and XF1 is low, or by an interrupt any time after the bus
was ready, and goes on where not; XF0 is low until the read is over, also where IOF is the destination, and the load leaves it
low; a store leaves it high from the cycle of its write on, SIGI leaves it high, or low where an interrupt
ends its wait. A SIGI waits with XF0 low while XF1 is high; one that need not wait puts a pulse on XF0 (R500 to R507, R668; the
latch is decision D12, the end of a wait by an interrupt D13, and what LDII of IOF leaves and STII of IOF stores is the model's
choice, log 11; so is the route of a load of 0h to FFFh that waits, log 1). The cycles of waits, that the bus is ready and XF1 low in the same cycle, and that a SIGI with XF1 low
completes with XF0 high though an interrupt is requested, are the model's (log 21). -/
def Obligations.InterlockedResults : Prop :=
  ∀ (m : MemOp) (f : FReg) (r : Reg) (a : Addr) (w : Word) (s s₁ s₂ : State),
    let now := pinsIn s s.elapsed
    let before (n : Nat) : List Bool := List.replicate n (s.iof.getLsbD 2)
    let low : Word := setBit s.iof 2 false
    let route : Region := if s.lockWait ≠ 0 ∧ a.toNat < 0x1000 then .primary else region s a
    let done (word : Word) (u : State) : Prop :=
      GivesFlt (.ldfi m f) s u f (loadIs (word ++ 0#8)) ∧ GivesInt (.ldii m r) s u r (logicIs word)
    let waits (iof : Word) (n : Nat) (seen : Bool) (o : Option Wait) (xf0 : List Bool) : Prop :=
      ∃ t, exec (.ldfi m f) s = .next t ∧ exec (.ldii m r) s = .next t ∧ t.iof = iof ∧ t.lockWait = n ∧ t.lockReady = seen ∧
        t.stalled = o ∧ t.xf0Next = xf0 ∧ t.pc = s.pc ∧ t.mem = s.mem ∧ KeepsRegs [.iof] s t
    let cycle (p : PortName) (age : Nat) (word : Word) (late : Nat) (old : Bool) : Prop :=
      let ready : Bool := readyBy ((portCtl s p).extractLsb' 3 2).toNat (!p.pin now && decide (late ≤ age))
        (decide (((portCtl s p).extractLsb' 5 3).toNat ≤ age))
      let ends : Bool := ready && !now.xf1 || s.abandon && (ready || old)
      (ends = true → ∃ u, u.ar = s₁.ar ∧ u.iof = low ∧ u.lockWait = 0 ∧ u.mem = s.mem ∧
        u.xf0Next = before s.elapsed ++ List.replicate (ioCycle (region s a) + 1) false ∧
        u.elapsed = s.elapsed + ioCycle (region s a) ∧ KeepsRegs (.iof :: m.updated) s u ∧ done word u ∧
        ∀ t, s.elapsed = 0 → s.pins.reset = true → exec (.ldii m r) s = .next t →
          xf0Pin t = .low ∧ (region s a = .iostrb → xf0Pin (endCycle t) = .low)) ∧
      (ends = false →
        waits low (age + 2) (ready || old) (if ready || old then none else some p.wait) (before s.elapsed))
    (memAddr m s = .ok (a, s₁) →
      (route = .ram ∨ route = .rom → load a s₁ = .ok (w, s₂) → done w s₂) ∧
      (region s a = .ram → store a (readReg r s₁) s₁ = .ok s₂ →
        exec (.stii r m) s = .next { s₂ with pc := s.pc + 1 }) ∧
      (region s a = .ram → store a ((readExt f s₁).extractLsb' 8 32) s₁ = .ok s₂ →
        exec (.stfi f m) s = .next { s₂ with pc := s.pc + 1 }) ∧
      (s.iof.getLsbD 1 = true → s.iof.getLsbD 5 = false →
        (∀ p, portOf route = some p →
          (s.lockWait = 0 → portStart s p = .ok s.elapsed →
            (readLead s p a s.elapsed ≠ 0 → waits s.iof 1 false (some p.wait) s.xf0Next) ∧
            (readLead s p a s.elapsed = 0 → cycle p 0 ((nextRead s).word.getD (memWord s.mem a)) (nextRead s).waits false)) ∧
          ∀ c l, s.lockWait ≠ 0 → portCycles s p = c :: l → cycle p (s.lockWait - 1) c.word c.waits s.lockReady) ∧
        (route = .peripheral → portStart s .expansion = .ok s.elapsed →
          (now.xf1 = false ∨ s.abandon = true → loadFor .data a { s with iof := low } = .ok (w, s₂) →
            done w { s₂ with lockWait := 0, xf0Next := before s.elapsed ++ [false], ar := s₁.ar }) ∧
          (now.xf1 = true → s.abandon = false → waits low (s.lockWait + 1) s.lockReady s.stalled (before s.elapsed)))) ∧
      (interlocked s a = true → s.iof.getLsbD 1 = true → s.iof.getLsbD 5 = false →
        (store a (readReg r { s₁ with iof := setBit s₁.iof 2 true }) { s₁ with iof := setBit s₁.iof 2 true } = .ok s₂ →
          exec (.stii r m) s = .next { s₂ with pc := s.pc + 1, xf0Next := before s₂.elapsed } ∧ s₂.iof.getLsbD 2 = true) ∧
        (store a ((readExt f s₁).extractLsb' 8 32) { s₁ with iof := setBit s₁.iof 2 true } = .ok s₂ →
          exec (.stfi f m) s = .next { s₂ with pc := s.pc + 1, xf0Next := before s₂.elapsed } ∧ s₂.iof.getLsbD 2 = true))) ∧
    (s.iof.getLsbD 1 = true → s.iof.getLsbD 5 = false →
      (now.xf1 = false →
        ∃ t, exec .sigi s = .next t ∧ t = { s with
          pc := s.pc + 1, iof := setBit s.iof 2 true, lockWait := 0
          xf0Next := before s.elapsed ++ if s.lockWait = 0 then [false] else [] } ∧
        (s.lockWait = 0 → s.elapsed = 0 → s.pins.reset = true → xf0Pin t = .low)) ∧
      (now.xf1 = true → s.abandon = true →
        exec .sigi s = .next { s with pc := s.pc + 1, iof := low, lockWait := 0, xf0Next := before s.elapsed }) ∧
      (now.xf1 = true → s.abandon = false →
        exec .sigi s = .next { s with iof := low, lockWait := s.lockWait + 1, xf0Next := before s.elapsed }))

/-! ## Results: program control -/

/-- BR, Bcond and DBcond load the PC where they are taken, and advance it by 1 where not; DBcond decrements the low
24 bits of its auxiliary register and also asks for a result that is not negative. The delayed forms leave the target
pending for three instructions (R284, R440, R443 to R447, R451, R452). That a target in the very register that DBcond or
DBcondD decrements is read after the decrement is decision D9, where R451 with R12 would read it before; when a delayed branch
reads its register is D10, and that sums and targets are 24 bits wide is D3 (log 11). -/
def Obligations.BranchResults : Prop :=
  ∀ (c : Cond) (n : BitVec 3) (r : Reg) (d : BitVec 16) (a : Addr) (s : State),
    let holds := condHolds s.st c
    let low : Addr := arAddr n s - 1
    let s₁ : State := { s with ar := s.ar.set n.toNat ((s.ar[n.toNat]).extractLsb' 24 8 ++ low) }
    let pending (taken : Bool) (target : Addr) (u : State) : State :=
      { u with pc := s.pc + 1, delay := some { target := if taken then some target else none, left := 3 } }
    let go (t : Target) (base : Addr) (u : State) : Addr :=
      match t with
      | .reg q => (readReg q u).extractLsb' 0 24
      | .rel e => base + BitVec.ofInt 24 e.toInt
    exec (.br a) s = .next { s with pc := a } ∧
    exec (.brd a) s = .next (pending true a s) ∧
    ∀ t, t = .reg r ∨ t = .rel d →
      exec (.bCond c t) s = .next { s with pc := if holds then go t (s.pc + 1) s else s.pc + 1 } ∧
      exec (.bCondD c t) s = .next (pending holds (go t (s.pc + 3) s) s) ∧
      exec (.dbCond n c t) s =
        .next { s₁ with pc := if holds && 0 ≤ low.toInt then go t (s.pc + 1) s₁ else s.pc + 1 } ∧
      exec (.dbCondD n c t) s = .next (pending (holds && 0 ≤ low.toInt) (go t (s.pc + 3) s₁) s₁)

/-- CALL and CALLcond push the address of the next instruction and go to the target; RETScond pops the PC; where the
condition is false the PC advances and nothing else happens (R448, R449, R468, R469). That the push precedes the
read of the target register is decision D9 (log 11); that RETIcond between the recognition of an interrupt and its entry may
leave GIE set is the model's choice (log 24). -/
def Obligations.CallAndReturnResults : Prop :=
  ∀ (c : Cond) (t : Target) (a : Addr) (w : Word) (s s₁ : State),
    (store ((s.sp + 1).extractLsb' 0 24) ((s.pc + 1).setWidth 32) { s with sp := s.sp + 1 } = .ok s₁ →
      exec (.call a) s = .next { s₁ with pc := a } ∧
      (condHolds s.st c = true → exec (.callCond c t) s = .next { s₁ with pc := match t with
        | .reg q => (readReg q s₁).extractLsb' 0 24
        | .rel e => s.pc + 1 + BitVec.ofInt 24 e.toInt })) ∧
    (condHolds s.st c = true → load (s.sp.extractLsb' 0 24) s = .ok (w, s₁) →
      exec (.retsCond c) s = .next { s₁ with sp := s.sp - 1, pc := w.extractLsb' 0 24 } ∧
      exec (.retiCond c) s =
        .next { s₁ with sp := s.sp - 1, pc := w.extractLsb' 0 24, st := s.st ||| 0x2000#32
                        windowGie := s.windowGie || s.intWindow.isSome }) ∧
    (condHolds s.st c = false →
      exec (.callCond c t) s = .next { s with pc := s.pc + 1 } ∧
      exec (.retsCond c) s = .next { s with pc := s.pc + 1 } ∧ exec (.retiCond c) s = .next { s with pc := s.pc + 1 })

/-- A taken TRAPcond clears GIE, pushes the address of the next instruction and loads the PC from vector 20h + N; ST is
otherwise kept and no flag of IF changes. Where the condition is false only the PC advances (R462, R608, R632); on a C30
without two NOPs before it GIE may be lost (R627), which the last clause leaves out. -/
def Obligations.TrapResults : Prop :=
  ∀ (c : Cond) (n : BitVec 5) (w : Word) (s s₁ s₂ : State),
    (condHolds s.st c = true →
      store ((s.sp + 1).extractLsb' 0 24) ((s.pc + 1).setWidth 32)
        { s with sp := s.sp + 1, st := s.st &&& ~~~0x2000#32 } = .ok s₁ →
      loadFor .vector (BitVec.ofNat 24 (0x20 + n.toNat)) s₁ = .ok (w, s₂) →
      exec (.trapCond c n) s = .next { s₂ with pc := w.extractLsb' 0 24 } ∧
      s₂.st = s.st &&& ~~~0x2000#32 ∧ s₂.sp = s.sp + 1 ∧ s₂.ie = s.ie ∧
      (region s ((s.sp + 1).extractLsb' 0 24) ≠ .peripheral → s.env.dmaWithin = [] → s₂.ifr = s.ifr)) ∧
    (condHolds s.st c = false → s.device ≠ .c30 ∨ 2 ≤ s.nopRun →
      exec (.trapCond c n) s = .next { s with pc := s.pc + 1 })

/-- RPTB and RPTS load the repeat registers and set RM, and S in the second (R460, R461). NOP and IACK read their operand
and discard it; an IACK off-chip pulses its pin for one cycle (R453, R454), which the model shows in the first cycle of the
read (log 30). IDLE sets GIE, advances the PC and stops the
CPU; on the LC31 IDLE2 does the same with the clocks stopped, LOPOWER and MAXSPEED switch the clock (R456, R470, R472,
R473). -/
def Obligations.RepeatAndIdleResults : Prop :=
  ∀ (a : Addr) (src : Src Reg) (m : MemOp) (i : Ind (BitVec 8)) (v : Word) (s s₁ s₂ : State),
    exec (.rptb a) s = .next { s with
      rs := (s.pc + 1).setWidth 32, re := a.setWidth 32, st := s.st ||| 0x100#32, pc := s.pc + 1 } ∧
    (srcUns src s = .ok (v, s₁) →
      exec (.rpts src) s = .next { s₁ with
        rs := (s.pc + 1).setWidth 32, re := (s.pc + 1).setWidth 32, rc := v, st := s.st ||| 0x100#32, repS := true
        pc := s.pc + 1 }) ∧
    exec (.nop .none) s = .next { s with pc := s.pc + 1 } ∧
    (memAddr (.ind i) s = .ok (a, s₁) → load a s₁ = .ok (v, s₂) →
      exec (.nop (.ind i)) s = .next { s₂ with pc := s.pc + 1 }) ∧
    (memAddr m s = .ok (a, s₁) → load a s₁ = .ok (v, s₂) →
      ∃ p, exec (.iack m) s = .next { s₂ with pc := s.pc + 1, iack := p } ∧
        (offChip s a = true → ∀ n c l, portOf (region s a) = some n → portCycles s₂ n = c :: l →
          p = some { start := c.start, addr := a })) ∧
    exec .idle s = .next { s with pc := s.pc + 1, st := s.st ||| 0x2000#32, idle := .idle } ∧
    (s.device = .lc31 →
      exec .idle2 s = .next { s with pc := s.pc + 1, st := s.st ||| 0x2000#32, idle := .idle2 } ∧
      exec .lopower s = .next { s with pc := s.pc + 1, lowPower := true } ∧
      exec .maxspeed s = .next { s with pc := s.pc + 1, lowPower := false })

/-- Where the spec gives no effect the machine stops under a name: SWI always, the low-power instructions off the
LC31, an interlocked operation without XF0 as output and XF1 as input, which SIGI always is, and LDFI, LDII, STFI and STII
off-chip (R466, R470, R500, R506; U11, U13, U15). The refusals are the treatment of file 93 (log 22). -/
def Obligations.RefusedInstructions : Prop :=
  ∀ s : State, exec .swi s = .refused .emulatorInterrupt ∧
    (s.device ≠ .lc31 → exec .idle2 s = .refused .lowPowerAbsent ∧ exec .lopower s = .refused .lowPowerAbsent ∧
      exec .maxspeed s = .refused .lowPowerAbsent) ∧
    (s.iof.getLsbD 1 = false ∨ s.iof.getLsbD 5 = true →
      exec .sigi s = .refused .interlockPins ∧
      ∀ (m : MemOp) (f : FReg) (r : Reg) (a : Addr) (s₁ : State), memAddr m s = .ok (a, s₁) → interlocked s a = true →
        exec (.ldfi m f) s = .refused .interlockPins ∧ exec (.ldii m r) s = .refused .interlockPins ∧
        exec (.stfi f m) s = .refused .interlockPins ∧ exec (.stii r m) s = .refused .interlockPins)

/-! ## Frames -/

/-- What the integer instructions leave unchanged: all but their destination, the auxiliary register of their operand and
the flags each rule names; they store nothing (R23, R24, R40, R332, R335 to R368). -/
def Obligations.IntegerFrame : Prop :=
  ∀ (src : Src Reg) (fsrc : Src FReg) (dst : Reg) (imm : BitVec 16) (c : Cond),
    (∀ i ∈ [Instr.addc src dst, .addi src dst, .ash src dst, .negb src dst, .negi src dst, .subb src dst, .subi src dst,
        .subrb src dst, .subri src dst], Frame i (dst :: src.updated) (stBits dst flagsNotLuf) nowhere) ∧
    (∀ i ∈ [Instr.absi src dst, .mpyi src dst], Frame i (dst :: src.updated) (stBits dst flagsNotCLuf) nowhere) ∧
    (∀ i ∈ [Instr.and src dst, .andn src dst, .ldi src dst, .not src dst, .or src dst, .xor src dst],
      Frame i (dst :: src.updated) (stBits dst flagsLogic) nowhere) ∧
    (∀ i ∈ [Instr.rol dst, .rolc dst, .ror dst, .rorc dst], Frame i [dst] (stBits dst flagsShift) nowhere) ∧
    Frame (.lsh src dst) (dst :: src.updated) (stBits dst flagsShift) nowhere ∧
    Frame (.fix fsrc dst) (dst :: fsrc.updated) (stBits dst flagsNotCLuf) nowhere ∧
    Frame (.subc src dst) (dst :: src.updated) (stBits dst 0#32) nowhere ∧
    Frame (.ldiCond c src dst) (dst :: src.updated) (stBits dst 0#32) nowhere ∧
    Frame (.ldp dst imm) [dst] (stBits dst flagsLogic) nowhere ∧
    Frame (.cmpi src dst) src.updated flagsNotLuf nowhere ∧
    Frame (.tstb src dst) src.updated flagsLogic nowhere

/-- The same for the floating-point instructions (R301, R302, R304, R307, R334, R337, R342, R345, R347, R350, R352, R355,
R362, R365). -/
def Obligations.FloatFrame : Prop :=
  ∀ (src : Src FReg) (isrc : Src Reg) (dst : FReg) (c : Cond),
    (∀ i ∈ [Instr.addf src dst, .mpyf src dst, .negf src dst, .subf src dst, .subrf src dst],
      Frame i (.r dst :: src.updated) flagsNotC nowhere) ∧
    Frame (.norm src dst) (.r dst :: src.updated) flagsNorm nowhere ∧
    (∀ i ∈ [Instr.lde src dst, .ldm src dst, .ldfCond c src dst], Frame i (.r dst :: src.updated) 0#32 nowhere) ∧
    Frame (.absf src dst) (.r dst :: src.updated) flagsNotCLuf nowhere ∧
    Frame (.rnd src dst) (.r dst :: src.updated) (flagsNotC &&& ~~~4#32) nowhere ∧
    Frame (.ldf src dst) (.r dst :: src.updated) flagsLogic nowhere ∧
    Frame (.float isrc dst) (.r dst :: isrc.updated) flagsLogic nowhere ∧
    Frame (.cmpf src dst) src.updated flagsNotC nowhere

/-- The same for the three-operand instructions and the parallel ones that store nothing (R400 to R417, R520 to R523, R538,
R540, R543, R545, R546, R548). -/
def Obligations.ThreeOperandFrame : Prop :=
  ∀ (x y : Src3 Reg) (fx fy : Src3 FReg) (dst : Reg) (f g : FReg) (p : BitVec 2) (d1 d2 : BitVec 1) (hi lo : Ind Unit),
    let ars := Ind.updated hi ++ Ind.updated lo
    (∀ i ∈ [Instr.addc3 x y dst, .addi3 x y dst, .ash3 x y dst, .subb3 x y dst, .subi3 x y dst],
      Frame i (dst :: x.updated ++ y.updated) (stBits dst flagsNotLuf) nowhere) ∧
    (∀ i ∈ [Instr.and3 x y dst, .andn3 x y dst, .or3 x y dst, .xor3 x y dst],
      Frame i (dst :: x.updated ++ y.updated) (stBits dst flagsLogic) nowhere) ∧
    Frame (.lsh3 x y dst) (dst :: x.updated ++ y.updated) (stBits dst flagsShift) nowhere ∧
    Frame (.mpyi3 x y dst) (dst :: x.updated ++ y.updated) (stBits dst flagsNotCLuf) nowhere ∧
    (∀ i ∈ [Instr.addf3 fx fy f, .mpyf3 fx fy f, .subf3 fx fy f],
      Frame i (.r f :: fx.updated ++ fy.updated) flagsNotC nowhere) ∧
    Frame (.cmpi3 x y) (x.updated ++ y.updated) flagsNotLuf nowhere ∧
    Frame (.tstb3 x y) (x.updated ++ y.updated) flagsLogic nowhere ∧
    Frame (.cmpf3 fx fy) (fx.updated ++ fy.updated) flagsNotC nowhere ∧
    (∀ i ∈ [Instr.mpyf3_addf3 p d1 d2 f g hi lo, .mpyf3_subf3 p d1 d2 f g hi lo],
      Frame i (.r (if d1 = 0#1 then 0#3 else 1#3) :: .r (if d2 = 0#1 then 2#3 else 3#3) :: ars) flagsNotC nowhere) ∧
    (∀ i ∈ [Instr.mpyi3_addi3 p d1 d2 f g hi lo, .mpyi3_subi3 p d1 d2 f g hi lo],
      Frame i (.r (if d1 = 0#1 then 0#3 else 1#3) :: .r (if d2 = 0#1 then 2#3 else 3#3) :: ars) flagsNotCLuf nowhere) ∧
    (∀ i ∈ [Instr.ldf_ldf f g hi lo, .ldi_ldi f g hi lo], Frame i (.r f :: .r g :: ars) 0#32 nowhere)

/-- What the instructions that store leave unchanged: every byte outside the words at the addresses of their destination
operands or of the stack slot, computed as the instruction computes them; stores change no flag (R40, R290, R311 to R314,
R504, R505, R520, R530 to R537, R539, R541, R542, R544, R547, R549 to R557). -/
def Obligations.StoreFrame : Prop :=
  ∀ (r : Reg) (f a b c : FReg) (m : MemOp) (hi lo : Ind Unit),
    let ars := Ind.updated hi ++ Ind.updated lo
    (∀ i ∈ [Instr.sti r m, .stf f m], Frame i m.updated 0#32 (memTarget m)) ∧
    (∀ i ∈ [Instr.stii r m, .stfi f m], Frame i (.iof :: m.updated) 0#32 (memTarget m)) ∧
    (∀ i ∈ [Instr.push r, .pushf f], Frame i [.sp] 0#32 pushTarget) ∧
    (∀ i ∈ [Instr.stf_stf a c hi lo, .sti_sti a c hi lo], Frame i ars 0#32 (pairTargets hi lo)) ∧
    (∀ i ∈ [Instr.ldf_stf a c hi lo, .ldi_sti a c hi lo], Frame i (.r a :: ars) 0#32 (hiTarget hi lo)) ∧
    (∀ i ∈ [Instr.addf3_stf a b c hi lo, .mpyf3_stf a b c hi lo, .negf_stf a c hi lo, .subf3_stf a b c hi lo],
      Frame i (.r a :: ars) flagsNotC (hiTarget hi lo)) ∧
    (∀ i ∈ [Instr.absf_stf a c hi lo, .absi_sti a c hi lo, .fix_sti a c hi lo, .mpyi3_sti a b c hi lo],
      Frame i (.r a :: ars) flagsNotCLuf (hiTarget hi lo)) ∧
    (∀ i ∈ [Instr.addi3_sti a b c hi lo, .ash3_sti a b c hi lo, .negi_sti a c hi lo, .subi3_sti a b c hi lo],
      Frame i (.r a :: ars) flagsNotLuf (hiTarget hi lo)) ∧
    (∀ i ∈ [Instr.and3_sti a b c hi lo, .not_sti a c hi lo, .or3_sti a b c hi lo, .xor3_sti a b c hi lo,
        .float_stf a c hi lo], Frame i (.r a :: ars) flagsLogic (hiTarget hi lo)) ∧
    Frame (.lsh3_sti a b c hi lo) (.r a :: ars) flagsShift (hiTarget hi lo)

/-- What the instructions that move the PC, pop the stack or wait on the XF pins leave unchanged; those that change the
machine's mode are covered by the equations of their results (R440 to R454, R462, R468, R469, R501 to R503). The flags of POP
and POPF are general knowledge (R309, R310; log 27, PRESUMED). -/
def Obligations.ControlFrame : Prop :=
  ∀ (c : Cond) (t : Target) (a : Addr) (n : BitVec 3) (k : BitVec 5) (r : Reg) (f : FReg) (m : MemOp) (o : NopOp),
    (∀ i ∈ [Instr.br a, .bCond c t], Frame i [] 0#32 nowhere) ∧
    Frame (.dbCond n c t) [.ar n] 0#32 nowhere ∧
    (∀ i ∈ [Instr.call a, .callCond c t], Frame i [.sp] 0#32 pushTarget) ∧
    Frame (.retsCond c) [.sp] 0#32 nowhere ∧ Frame (.retiCond c) [.sp] 0x2000#32 nowhere ∧
    Frame (.trapCond c k) [.sp] 0x2000#32 pushTarget ∧
    Frame (.pop r) [r, .sp] (stBits r flagsLogic) nowhere ∧ Frame (.popf f) [.r f, .sp] flagsLogic nowhere ∧
    Frame (.nop o) o.updated 0#32 nowhere ∧ Frame (.iack m) m.updated 0#32 nowhere ∧
    Frame (.ldii m r) (r :: .iof :: m.updated) (stBits r flagsLogic) nowhere ∧
    Frame (.ldfi m f) (.r f :: .iof :: m.updated) flagsLogic nowhere ∧ Frame .sigi [.iof] 0#32 nowhere

/-! ## Around the instructions -/

/-- The repeat-mode update after an instruction at `a` (R642, R643; where the count ends the repeat RC is -1 or 0 whatever it was
before, R56, R644), and
the pending delayed branch: it takes place after its third instruction (R447). Where the instruction itself has loaded RC,
the load precedes the decrement (R643), or the old RC is counted and the load stays (R833): log 15. RC at the end is free
(log 18). -/
def Obligations.RepeatAndDelayUpdate : Prop :=
  (∀ (f : Flow) (a : Addr) (w : Word) (s : State), f ≠ .repeats →
    let t := repeatUpdate f a w s
    (s.st.getLsbD 8 = false → t = { s with ir := none }) ∧
    (s.st.getLsbD 8 = true → s.repS = false → a ≠ s.re.setWidth 24 → t = { s with ir := none }) ∧
    (s.st.getLsbD 8 = true → s.repS = true ∨ a = s.re.setWidth 24 →
      ∃ count rc,
        (count = s.rc - 1 ∧ (if 0 ≤ count.toInt then rc = count else rc = 0#32 ∨ rc = 0xFFFFFFFF#32) ∨
          ∃ old, s.rcBefore = some old ∧ count = old - 1 ∧ rc = s.rc) ∧
        (0 ≤ count.toInt → t = { s with
          rc := rc, pc := if s.repS then a else s.rs.setWidth 24, ir := if s.repS then some w else none }) ∧
        (count.toInt < 0 → t = { s with
          rc := rc, pc := a + 1, ir := none, repS := false, st := s.st &&& ~~~0x100#32 }))) ∧
  ∀ (s : State) (d : Delayed),
    (d.left ≤ 1 → delayUpdate (some d) s = { s with delay := none, pc := d.target.getD s.pc }) ∧
    (1 < d.left → delayUpdate (some d) s = { s with delay := some { d with left := d.left - 1 } })

/-- The refusals around an instruction: a transfer of control in a delay slot, one at the end of a repeat block or repeated by
RPTS, a delayed branch in the last four of a block (R447, R645; U10, U20); any instruction at RE, or at an RE before the loads,
in the window that a direct load of RS, RE or RC opens in a repeat mode (R833, U20). Outside all of these it runs: any
instruction outside repeat modes and delay slots, one that is no transfer of control also in a delay slot, repeated by RPTS and
at the end of a block, one that is no delayed branch also in the last four of a block but at its end. The lists are
those of R447 and R645, with IDLE2 as IDLE; that the window lasts until the fourth end of an instruction, that of the load
counted, is log 15 (DEDUCED). The refusals are the treatment of file 93 (log 22). -/
def Obligations.HazardsRefused : Prop :=
  ∀ (w : Word) (s : State) (i : Instr),
    let delayed : Prop := ∃ a c t n, i ∈ [Instr.brd a, .bCondD c t, .dbCondD n c t]
    let control : Prop := delayed ∨ ∃ a c t n k src, i ∈ [Instr.br a, .bCond c t, .dbCond n c t, .call a, .callCond c t,
      .trapCond c k, .retiCond c, .retsCond c, .idle, .idle2, .rptb a, .rpts src]
    let inBlock : Bool := s.st.getLsbD 8 && !s.repS
    let toEnd : Nat := (s.re.setWidth 24 - s.pc).toNat
    let window : Prop := inBlock = true ∧ s.loopLoad ≠ 0 ∧ (toEnd = 0 ∨ s.pc ∈ s.loopOldRes)
    (s.delay ≠ none → control → runInstr i w s = .refused .branchInDelaySlot) ∧
    (s.delay = none → s.st.getLsbD 8 = true ∧ s.repS = true ∨ inBlock = true ∧ ¬window ∧ toEnd = 0 →
      control → runInstr i w s = .refused .branchAtRepeatEnd) ∧
    (s.delay = none → inBlock = true → ¬window → toEnd ≤ 3 → delayed → runInstr i w s = .refused .branchAtRepeatEnd) ∧
    (s.delay = none ∨ ¬control → window → runInstr i w s = .refused .repeatRegistersUnflushed) ∧
    (s.delay = none ∨ ¬control → ¬window → (s.st.getLsbD 8 = true → s.repS = true ∨ toEnd = 0 → ¬control) →
      (inBlock = true → toEnd ≤ 3 → ¬delayed) → runInstr i w s = retired (flowOf i) w s (exec i s)) ∧
    ∀ (q : Reg) (v : Word) (u : State), q = .rs ∨ q = .re ∨ q = .rc → writeReg q v s = .ok u →
      u.loopLoad = 4 ∧ s.re.setWidth 24 ∈ u.loopOldRes ∧ (s.loopLoad ≠ 0 → ∀ b ∈ s.loopOldRes, b ∈ u.loopOldRes)

/-- Interrupt entry at a boundary, or out of IDLE: the lowest flag that is set and enabled is cleared, GIE is cleared, the
address of the next instruction is pushed and the PC comes from vector 1 + i; no other register changes (R607, R608, R617,
R620, R621). That out of IDLE nothing is asked of GIE is read from step 3 of R602 (log 25). The environment holds no interrupt
back (D24, log 10), the DMA controller has acknowledged none in the same
cycle (R616) and does nothing within the entry (R96), and the stack is not on the peripheral bus. -/
def Obligations.InterruptEntry : Prop :=
  ∀ (s t s₁ s₂ : State) (i : Nat) (w : Word),
    s.pins.reset = true → s.resetLow = 0 → passTime s = .ok t → t.pins.reset = true → t.resetLow = 0 → t.booting = false →
    (t.idle = .running ∧ t.st.getLsbD 13 = true ∧ boundary t = true ∧ t.lockWait = 0 ∧ t.env.intLatency = [] ∨
      t.idle = .idle) →
    t.intWindow = none → t.windowGie = false → t.shared = 0#11 → t.env.dmaWithin = [] →
    region t ((t.sp + 1).extractLsb' 0 24) ≠ .peripheral →
    i < 11 → t.ifr.getLsbD i = true → t.ie.getLsbD i = true →
    (∀ j < i, (t.ifr.getLsbD j && t.ie.getLsbD j) = false) →
    store ((t.sp + 1).extractLsb' 0 24) (t.pc.setWidth 32) (noteAck i { t with
      sp := t.sp + 1, st := t.st &&& ~~~0x2000#32, ifr := setBit t.ifr i false, idle := .running }) = .ok s₁ →
    loadFor .vector (BitVec.ofNat 24 (1 + i)) s₁ = .ok (w, s₂) →
    ∃ u, step s = .next u ∧ u.pc = w.extractLsb' 0 24 ∧ u.idle = .running ∧ u.sp = t.sp + 1 ∧
      u.st = t.st &&& ~~~0x2000#32 ∧ (∀ k, u.ifr.getLsbD k = (t.ifr.getLsbD k && k != i)) ∧ u.mem = s₁.mem ∧
      KeepsRegs [.sp, .st, .ifr] t u

/-- The idle CPU runs nothing while no enabled flag is set, and in IDLE2, where the clocks stand still whatever is flagged
(R456, R470, R602, R651). That an enabled flag ends
the idle state whatever GIE is, is read from step 3 of R602 (log 25). -/
def Obligations.IdleWaits : Prop :=
  ∀ s t : State, s.pins.reset = true → s.resetLow = 0 → passTime s = .ok t → t.pins.reset = true → t.resetLow = 0 →
    t.booting = false → t.idle ≠ .running → t.intWindow = none ∧ pendingInts t = 0#11 ∨ t.idle = .stopped →
    ∃ u, step s = .next u ∧ u.idle = t.idle ∧ u.pc = t.pc ∧ u.mem = t.mem ∧ KeepsRegs [] t u

/-! ## Cache and peripherals -/

/-- The cache. A word is found in a segment whose SSA is its part of memory and whose P flag is set (R102). After a word miss
it stands in the segment that holds its part of memory, with its P flag set (R103); after a segment miss in the segment that was
not used last, whose SSA is loaded and whose other P flags are cleared (R104); in both that segment is then the one used last
and the other segment is as it was. After a clear nothing is found, and SSA and the order of use stay (R107). An external fetch
uses the cache only where CE = 1, and with CF = 1 changes nothing in it; any other fetch neither uses nor changes it (R101,
R108). That segment 0 goes first where both hold one part of memory is decision D7 (log 11). -/
def Obligations.CacheFillAndClear : Prop :=
  (∀ (c : Cache) (a : Addr) (w : Word),
    let seg (k : Bool) (x : Cache) : Segment := if k then x.seg1 else x.seg0
    let part := a.extractLsb' 5 19
    let idx := a.toNat % 32
    let t := c.fill a w
    let hit (k : Bool) : Prop := (seg k c).ssa = part ∧ (seg k c).present.getLsbD idx = true
    (∀ k v, c.find a = some (k, v) ↔ hit k ∧ (k = true → ¬hit false) ∧ (seg k c).words[idx]? = some v) ∧
    t.find a = some (t.mru, w) ∧ c.clear.find a = none ∧
    (c.clear.seg0.ssa = c.seg0.ssa ∧ c.clear.seg1.ssa = c.seg1.ssa ∧ c.clear.mru = c.mru) ∧
    (c.seg0.ssa = part → t.mru = false) ∧ (c.seg0.ssa ≠ part → c.seg1.ssa = part → t.mru = true) ∧
    (c.seg0.ssa ≠ part → c.seg1.ssa ≠ part → t.mru = !c.mru) ∧
    seg (!t.mru) t = seg (!t.mru) c ∧ (seg t.mru t).ssa = part ∧
    ∀ j < 32,
      (seg t.mru t).present.getLsbD j = (j == idx || (seg t.mru c).ssa == part && (seg t.mru c).present.getLsbD j) ∧
      (j ≠ idx → (seg t.mru t).words[j]? = (seg t.mru c).words[j]?)) ∧
  ∀ (s t : State) (a : Addr) (w : Word) (k : Bool),
    let external := (portOf (region s a)).isSome
    let frozen := s.st.getLsbD 10
    (s.st.getLsbD 11 = false ∨ external = false →
      fetchAt .fetch a s = fetchMemory .fetch a s ∧ (fetchMemory .fetch a s = .ok (w, t) → t.cache = s.cache)) ∧
    (s.st.getLsbD 11 = true → external = true →
      (s.cache.find a = some (k, w) →
        fetchAt .fetch a s = .ok (w, { s with cache := if frozen then s.cache else { s.cache with mru := k } })) ∧
      (s.cache.find a = none → fetchMemory .fetch a s = .ok (w, t) →
        fetchAt .fetch a s = .ok (w, { t with cache := if frozen then s.cache else s.cache.fill a w })))

/-- A timer with the internal clock: held it does nothing; it counts every second cycle, and at its period the
counter is 0, TSTAT is set or toggled, and its rise is the interrupt (R692 to R695). The cycle of each event is read
from R694 and R695 (log 28). -/
def Obligations.TimerCounts : Prop :=
  ∀ (t : Timer) (pin : Bool),
    (t.control.getLsbD 7 = false → (timerCycle t pin).1.counter = t.counter ∧
      (timerCycle t pin).1.control = t.control ∧ (timerCycle t pin).2 = false) ∧
    (t.control.getLsbD 7 = true → t.control.getLsbD 6 = false → t.control.getLsbD 9 = true →
      ¬ (t.counter = 0#32 ∧ t.period = 0#32) →
      (timerCycle t pin).1.half = !t.half ∧ (timerCycle t pin).1.period = t.period ∧
      (t.half = false → (timerCycle t pin).1.counter = t.counter ∧ (timerCycle t pin).2 = false) ∧
      (t.half = true → t.counter + 1 ≠ t.period →
        (timerCycle t pin).1.counter = t.counter + 1 ∧ (timerCycle t pin).2 = false) ∧
      (t.half = true → t.counter + 1 = t.period →
        (timerCycle t pin).1.counter = 0#32 ∧ (timerCycle t pin).2 = !t.control.getLsbD 11 ∧
        (timerCycle t pin).1.control.getLsbD 11 = (if t.control.getLsbD 8 then !t.control.getLsbD 11 else true)))

/-- The DMA controller started and not synchronised, on-chip, where the CPU leaves it the block of RAM: its read takes the
word at the source into the holding register, its write puts it at the destination and decrements the counter, each moving
its address; the counter's reaching 0 with TCINT raises DINT; where the CPU takes the block the access waits (R770, R772,
R773, R775, R778, R782, R784). START = 00 between two accesses ends the transfer (R775). Where the parts fall and the time
they take are the model's choice (log 12, log 29). -/
def Obligations.DmaTransfer : Prop :=
  ∀ (last : Bool) (s : State), s.dma.access = none → s.dma.ahead = 0 → s.ifWritten = false →
    let start := s.dma.control.extractLsb' 0 2
    let moved (inc dec : Nat) (a : Addr) : Addr :=
      if s.dma.control.getLsbD inc && !s.dma.control.getLsbD dec then a + 1
      else if !s.dma.control.getLsbD inc && s.dma.control.getLsbD dec then a - 1
      else a
    let taken (a : Addr) : Bool :=
      2 ≤ (s.onChip.filter fun x => x.start = 0 && region s x.addr = .ram && x.addr.getLsbD 10 == a.getLsbD 10).length
    (start = 0#2 → ∃ t, dmaCycle last s = .ok t ∧ t.dma.mid = false ∧ t.mem = s.mem ∧ t.dma.count = s.dma.count ∧
      KeepsRegs [] s t) ∧
    (start = 3#2 → s.dma.control.extractLsb' 8 2 = 0#2 → s.env.dmaStalls = [] →
      (s.dma.mid = false → (s.dma.control.getLsbD 10 = true → s.dma.count ≠ 0#24) → region s s.dma.src = .ram →
        (taken s.dma.src = true → ∃ t, dmaCycle last s = .ok t ∧ t.dma.mid = false ∧ t.dma.src = s.dma.src ∧ t.mem = s.mem) ∧
        (taken s.dma.src = false →
          ∃ t, dmaCycle last s = .ok t ∧ t.dma.mid = true ∧ t.dma.data = memWord s.mem s.dma.src ∧
            t.dma.src = moved 4 5 s.dma.src ∧ t.dma.count = s.dma.count ∧ t.mem = s.mem ∧ KeepsRegs [] s t)) ∧
      (s.dma.mid = true → region s s.dma.dst = .ram →
        (taken s.dma.dst = true → ∃ t, dmaCycle last s = .ok t ∧ t.dma.mid = true ∧ t.dma.dst = s.dma.dst ∧ t.mem = s.mem) ∧
        (taken s.dma.dst = false →
          ∃ t, dmaCycle last s = .ok t ∧ t.dma.mid = false ∧ memWord t.mem s.dma.dst = s.dma.data ∧
            KeepsBytes [s.dma.dst] s t ∧ t.dma.dst = moved 6 7 s.dma.dst ∧ t.dma.count = s.dma.count - 1 ∧
            t.ifr = (if s.dma.count = 1#24 ∧ s.dma.control.getLsbD 11 = true then s.ifr ||| 0x400#32 else s.ifr) ∧
            KeepsRegs [.ifr] s t)))

/-- Registers on the peripheral bus, as stores and loads reach them: the primary-bus control, a timer's counter and
period, the DMA's transfer counter, the serial port's DXR, whose write clears XRDY, and DRR, whose read clears RRDY
(R88, R662, R690, R693, R720, R730, R738, R770). The status bits that ignore writes rest on decision D26, the upper
bits of the DMA registers on D1 (log 11). -/
def Obligations.PeripheralRegisters : Prop :=
  ∀ (v : Word) (s : State), s.env.dmaWithin = [] → portIdle s .expansion = true →
    (∃ t, store 0x808064#24 v s = .ok t ∧ KeepsRegs [] s t ∧ t.mem = s.mem ∧ ∀ k, t.primaryCtl.getLsbD k =
      if 1 ≤ k ∧ k ≤ 12 then v.getLsbD k else s.primaryCtl.getLsbD k) ∧
    (∃ t u, store 0x808024#24 v s = .ok t ∧ load 0x808024#24 t = .ok (v, u) ∧ t.timer0.period = s.timer0.period) ∧
    (∃ t u, store 0x808038#24 v s = .ok t ∧ load 0x808038#24 t = .ok (v, u) ∧ t.timer1.counter = s.timer1.counter) ∧
    (∃ t u, store 0x808008#24 v s = .ok t ∧ load 0x808008#24 t = .ok ((v.extractLsb' 0 24).setWidth 32, u)) ∧
    (∃ t, store 0x808048#24 v s = .ok t ∧ t.port0.dxr = v ∧ t.port0.global.getLsbD 1 = false ∧ t.mem = s.mem) ∧
    (∃ t, load 0x80804C#24 s = .ok (s.port0.drr, t) ∧ t.port0.global.getLsbD 0 = false ∧ t.port0.drr = s.port0.drr ∧
      KeepsRegs [] s t ∧ t.mem = s.mem)
end

