-- ==== Sys2Proof/Laws/State.lean ====
section
/-! SUPPORT. What each named update of the state leaves in each field. -/
namespace Sys2Proof.Machine

/-! ## advance -/

@[simp] theorem advance_device (s : State) : (advance s).device = s.device := rfl
@[simp] theorem advance_pins (s : State) : (advance s).pins = s.pins := rfl
@[simp] theorem advance_r (s : State) : (advance s).r = s.r := rfl
@[simp] theorem advance_ar (s : State) : (advance s).ar = s.ar := rfl
@[simp] theorem advance_dp (s : State) : (advance s).dp = s.dp := rfl
@[simp] theorem advance_ir0 (s : State) : (advance s).ir0 = s.ir0 := rfl
@[simp] theorem advance_ir1 (s : State) : (advance s).ir1 = s.ir1 := rfl
@[simp] theorem advance_bk (s : State) : (advance s).bk = s.bk := rfl
@[simp] theorem advance_sp (s : State) : (advance s).sp = s.sp := rfl
@[simp] theorem advance_st (s : State) : (advance s).st = s.st := rfl
@[simp] theorem advance_ie (s : State) : (advance s).ie = s.ie := rfl
@[simp] theorem advance_ifr (s : State) : (advance s).ifr = s.ifr := rfl
@[simp] theorem advance_iof (s : State) : (advance s).iof = s.iof := rfl
@[simp] theorem advance_rs (s : State) : (advance s).rs = s.rs := rfl
@[simp] theorem advance_re (s : State) : (advance s).re = s.re := rfl
@[simp] theorem advance_rc (s : State) : (advance s).rc = s.rc := rfl
@[simp] theorem advance_pc (s : State) : (advance s).pc = s.pc + 1 := rfl
@[simp] theorem advance_repS (s : State) : (advance s).repS = s.repS := rfl
@[simp] theorem advance_ir (s : State) : (advance s).ir = s.ir := rfl
@[simp] theorem advance_delay (s : State) : (advance s).delay = s.delay := rfl
@[simp] theorem advance_idle (s : State) : (advance s).idle = s.idle := rfl
@[simp] theorem advance_lowPower (s : State) : (advance s).lowPower = s.lowPower := rfl
@[simp] theorem advance_iack (s : State) : (advance s).iack = s.iack := rfl
@[simp] theorem advance_cache (s : State) : (advance s).cache = s.cache := rfl
@[simp] theorem advance_lockWait (s : State) : (advance s).lockWait = s.lockWait := rfl
@[simp] theorem advance_lockReady (s : State) : (advance s).lockReady = s.lockReady := rfl
@[simp] theorem advance_xf0Next (s : State) : (advance s).xf0Next = s.xf0Next := rfl
@[simp] theorem advance_bank (s : State) : (advance s).bank = s.bank := rfl
@[simp] theorem advance_primary (s : State) : (advance s).primary = s.primary := rfl
@[simp] theorem advance_expansion (s : State) : (advance s).expansion = s.expansion := rfl
@[simp] theorem advance_primaryWrote (s : State) : (advance s).primaryWrote = s.primaryWrote := rfl
@[simp] theorem advance_expansionWrote (s : State) : (advance s).expansionWrote = s.expansionWrote := rfl
@[simp] theorem advance_lineAddr (s : State) : (advance s).lineAddr = s.lineAddr := rfl
@[simp] theorem advance_sync0 (s : State) : (advance s).sync0 = s.sync0 := rfl
@[simp] theorem advance_sync1 (s : State) : (advance s).sync1 = s.sync1 := rfl
@[simp] theorem advance_sync2 (s : State) : (advance s).sync2 = s.sync2 := rfl
@[simp] theorem advance_sync3 (s : State) : (advance s).sync3 = s.sync3 := rfl
@[simp] theorem advance_resetLow (s : State) : (advance s).resetLow = s.resetLow := rfl
@[simp] theorem advance_booting (s : State) : (advance s).booting = s.booting := rfl
@[simp] theorem advance_mem (s : State) : (advance s).mem = s.mem := rfl
@[simp] theorem advance_rom (s : State) : (advance s).rom = s.rom := rfl
@[simp] theorem advance_primaryCtl (s : State) : (advance s).primaryCtl = s.primaryCtl := rfl
@[simp] theorem advance_expansionCtl (s : State) : (advance s).expansionCtl = s.expansionCtl := rfl
@[simp] theorem advance_timer0 (s : State) : (advance s).timer0 = s.timer0 := rfl
@[simp] theorem advance_timer1 (s : State) : (advance s).timer1 = s.timer1 := rfl
@[simp] theorem advance_port0 (s : State) : (advance s).port0 = s.port0 := rfl
@[simp] theorem advance_port1 (s : State) : (advance s).port1 = s.port1 := rfl
@[simp] theorem advance_dma (s : State) : (advance s).dma = s.dma := rfl
@[simp] theorem advance_env (s : State) : (advance s).env = s.env := rfl
@[simp] theorem advance_freeCount (s : State) : (advance s).freeCount = s.freeCount := rfl
@[simp] theorem advance_elapsed (s : State) : (advance s).elapsed = s.elapsed := rfl
@[simp] theorem advance_stalled (s : State) : (advance s).stalled = s.stalled := rfl
@[simp] theorem advance_abandon (s : State) : (advance s).abandon = s.abandon := rfl
@[simp] theorem advance_intWindow (s : State) : (advance s).intWindow = s.intWindow := rfl
@[simp] theorem advance_windowGie (s : State) : (advance s).windowGie = s.windowGie := rfl
@[simp] theorem advance_ifSet (s : State) : (advance s).ifSet = s.ifSet := rfl
@[simp] theorem advance_ifWritten (s : State) : (advance s).ifWritten = s.ifWritten := rfl
@[simp] theorem advance_shared (s : State) : (advance s).shared = s.shared := rfl
@[simp] theorem advance_onChip (s : State) : (advance s).onChip = s.onChip := rfl
@[simp] theorem advance_nopRun (s : State) : (advance s).nopRun = s.nopRun := rfl
@[simp] theorem advance_recentStores (s : State) : (advance s).recentStores = s.recentStores := rfl
@[simp] theorem advance_outNow (s : State) : (advance s).outNow = s.outNow := rfl
@[simp] theorem advance_outBefore (s : State) : (advance s).outBefore = s.outBefore := rfl
@[simp] theorem advance_trapped (s : State) : (advance s).trapped = s.trapped := rfl
@[simp] theorem advance_loopLoad (s : State) : (advance s).loopLoad = s.loopLoad := rfl
@[simp] theorem advance_loopOldRes (s : State) : (advance s).loopOldRes = s.loopOldRes := rfl
@[simp] theorem advance_rcBefore (s : State) : (advance s).rcBefore = s.rcBefore := rfl

/-! ## setGie -/

@[simp] theorem setGie_device (b : Bool) (s : State) : (setGie b s).device = s.device := rfl
@[simp] theorem setGie_pins (b : Bool) (s : State) : (setGie b s).pins = s.pins := rfl
@[simp] theorem setGie_r (b : Bool) (s : State) : (setGie b s).r = s.r := rfl
@[simp] theorem setGie_ar (b : Bool) (s : State) : (setGie b s).ar = s.ar := rfl
@[simp] theorem setGie_dp (b : Bool) (s : State) : (setGie b s).dp = s.dp := rfl
@[simp] theorem setGie_ir0 (b : Bool) (s : State) : (setGie b s).ir0 = s.ir0 := rfl
@[simp] theorem setGie_ir1 (b : Bool) (s : State) : (setGie b s).ir1 = s.ir1 := rfl
@[simp] theorem setGie_bk (b : Bool) (s : State) : (setGie b s).bk = s.bk := rfl
@[simp] theorem setGie_sp (b : Bool) (s : State) : (setGie b s).sp = s.sp := rfl
@[simp] theorem setGie_st (b : Bool) (s : State) : (setGie b s).st = setBit s.st 13 b := rfl
@[simp] theorem setGie_ie (b : Bool) (s : State) : (setGie b s).ie = s.ie := rfl
@[simp] theorem setGie_ifr (b : Bool) (s : State) : (setGie b s).ifr = s.ifr := rfl
@[simp] theorem setGie_iof (b : Bool) (s : State) : (setGie b s).iof = s.iof := rfl
@[simp] theorem setGie_rs (b : Bool) (s : State) : (setGie b s).rs = s.rs := rfl
@[simp] theorem setGie_re (b : Bool) (s : State) : (setGie b s).re = s.re := rfl
@[simp] theorem setGie_rc (b : Bool) (s : State) : (setGie b s).rc = s.rc := rfl
@[simp] theorem setGie_pc (b : Bool) (s : State) : (setGie b s).pc = s.pc := rfl
@[simp] theorem setGie_repS (b : Bool) (s : State) : (setGie b s).repS = s.repS := rfl
@[simp] theorem setGie_ir (b : Bool) (s : State) : (setGie b s).ir = s.ir := rfl
@[simp] theorem setGie_delay (b : Bool) (s : State) : (setGie b s).delay = s.delay := rfl
@[simp] theorem setGie_idle (b : Bool) (s : State) : (setGie b s).idle = s.idle := rfl
@[simp] theorem setGie_lowPower (b : Bool) (s : State) : (setGie b s).lowPower = s.lowPower := rfl
@[simp] theorem setGie_iack (b : Bool) (s : State) : (setGie b s).iack = s.iack := rfl
@[simp] theorem setGie_cache (b : Bool) (s : State) : (setGie b s).cache = s.cache := rfl
@[simp] theorem setGie_lockWait (b : Bool) (s : State) : (setGie b s).lockWait = s.lockWait := rfl
@[simp] theorem setGie_lockReady (b : Bool) (s : State) : (setGie b s).lockReady = s.lockReady := rfl
@[simp] theorem setGie_xf0Next (b : Bool) (s : State) : (setGie b s).xf0Next = s.xf0Next := rfl
@[simp] theorem setGie_bank (b : Bool) (s : State) : (setGie b s).bank = s.bank := rfl
@[simp] theorem setGie_primary (b : Bool) (s : State) : (setGie b s).primary = s.primary := rfl
@[simp] theorem setGie_expansion (b : Bool) (s : State) : (setGie b s).expansion = s.expansion := rfl
@[simp] theorem setGie_primaryWrote (b : Bool) (s : State) : (setGie b s).primaryWrote = s.primaryWrote := rfl
@[simp] theorem setGie_expansionWrote (b : Bool) (s : State) : (setGie b s).expansionWrote = s.expansionWrote := rfl
@[simp] theorem setGie_lineAddr (b : Bool) (s : State) : (setGie b s).lineAddr = s.lineAddr := rfl
@[simp] theorem setGie_sync0 (b : Bool) (s : State) : (setGie b s).sync0 = s.sync0 := rfl
@[simp] theorem setGie_sync1 (b : Bool) (s : State) : (setGie b s).sync1 = s.sync1 := rfl
@[simp] theorem setGie_sync2 (b : Bool) (s : State) : (setGie b s).sync2 = s.sync2 := rfl
@[simp] theorem setGie_sync3 (b : Bool) (s : State) : (setGie b s).sync3 = s.sync3 := rfl
@[simp] theorem setGie_resetLow (b : Bool) (s : State) : (setGie b s).resetLow = s.resetLow := rfl
@[simp] theorem setGie_booting (b : Bool) (s : State) : (setGie b s).booting = s.booting := rfl
@[simp] theorem setGie_mem (b : Bool) (s : State) : (setGie b s).mem = s.mem := rfl
@[simp] theorem setGie_rom (b : Bool) (s : State) : (setGie b s).rom = s.rom := rfl
@[simp] theorem setGie_primaryCtl (b : Bool) (s : State) : (setGie b s).primaryCtl = s.primaryCtl := rfl
@[simp] theorem setGie_expansionCtl (b : Bool) (s : State) : (setGie b s).expansionCtl = s.expansionCtl := rfl
@[simp] theorem setGie_timer0 (b : Bool) (s : State) : (setGie b s).timer0 = s.timer0 := rfl
@[simp] theorem setGie_timer1 (b : Bool) (s : State) : (setGie b s).timer1 = s.timer1 := rfl
@[simp] theorem setGie_port0 (b : Bool) (s : State) : (setGie b s).port0 = s.port0 := rfl
@[simp] theorem setGie_port1 (b : Bool) (s : State) : (setGie b s).port1 = s.port1 := rfl
@[simp] theorem setGie_dma (b : Bool) (s : State) : (setGie b s).dma = s.dma := rfl
@[simp] theorem setGie_env (b : Bool) (s : State) : (setGie b s).env = s.env := rfl
@[simp] theorem setGie_freeCount (b : Bool) (s : State) : (setGie b s).freeCount = s.freeCount := rfl
@[simp] theorem setGie_elapsed (b : Bool) (s : State) : (setGie b s).elapsed = s.elapsed := rfl
@[simp] theorem setGie_stalled (b : Bool) (s : State) : (setGie b s).stalled = s.stalled := rfl
@[simp] theorem setGie_abandon (b : Bool) (s : State) : (setGie b s).abandon = s.abandon := rfl
@[simp] theorem setGie_intWindow (b : Bool) (s : State) : (setGie b s).intWindow = s.intWindow := rfl
@[simp] theorem setGie_windowGie (b : Bool) (s : State) : (setGie b s).windowGie = s.windowGie := rfl
@[simp] theorem setGie_ifSet (b : Bool) (s : State) : (setGie b s).ifSet = s.ifSet := rfl
@[simp] theorem setGie_ifWritten (b : Bool) (s : State) : (setGie b s).ifWritten = s.ifWritten := rfl
@[simp] theorem setGie_shared (b : Bool) (s : State) : (setGie b s).shared = s.shared := rfl
@[simp] theorem setGie_onChip (b : Bool) (s : State) : (setGie b s).onChip = s.onChip := rfl
@[simp] theorem setGie_nopRun (b : Bool) (s : State) : (setGie b s).nopRun = s.nopRun := rfl
@[simp] theorem setGie_recentStores (b : Bool) (s : State) : (setGie b s).recentStores = s.recentStores := rfl
@[simp] theorem setGie_outNow (b : Bool) (s : State) : (setGie b s).outNow = s.outNow := rfl
@[simp] theorem setGie_outBefore (b : Bool) (s : State) : (setGie b s).outBefore = s.outBefore := rfl
@[simp] theorem setGie_trapped (b : Bool) (s : State) : (setGie b s).trapped = s.trapped := rfl
@[simp] theorem setGie_loopLoad (b : Bool) (s : State) : (setGie b s).loopLoad = s.loopLoad := rfl
@[simp] theorem setGie_loopOldRes (b : Bool) (s : State) : (setGie b s).loopOldRes = s.loopOldRes := rfl
@[simp] theorem setGie_rcBefore (b : Bool) (s : State) : (setGie b s).rcBefore = s.rcBefore := rfl

/-! ## setRm -/

@[simp] theorem setRm_device (b : Bool) (s : State) : (setRm b s).device = s.device := rfl
@[simp] theorem setRm_pins (b : Bool) (s : State) : (setRm b s).pins = s.pins := rfl
@[simp] theorem setRm_r (b : Bool) (s : State) : (setRm b s).r = s.r := rfl
@[simp] theorem setRm_ar (b : Bool) (s : State) : (setRm b s).ar = s.ar := rfl
@[simp] theorem setRm_dp (b : Bool) (s : State) : (setRm b s).dp = s.dp := rfl
@[simp] theorem setRm_ir0 (b : Bool) (s : State) : (setRm b s).ir0 = s.ir0 := rfl
@[simp] theorem setRm_ir1 (b : Bool) (s : State) : (setRm b s).ir1 = s.ir1 := rfl
@[simp] theorem setRm_bk (b : Bool) (s : State) : (setRm b s).bk = s.bk := rfl
@[simp] theorem setRm_sp (b : Bool) (s : State) : (setRm b s).sp = s.sp := rfl
@[simp] theorem setRm_st (b : Bool) (s : State) : (setRm b s).st = setBit s.st 8 b := rfl
@[simp] theorem setRm_ie (b : Bool) (s : State) : (setRm b s).ie = s.ie := rfl
@[simp] theorem setRm_ifr (b : Bool) (s : State) : (setRm b s).ifr = s.ifr := rfl
@[simp] theorem setRm_iof (b : Bool) (s : State) : (setRm b s).iof = s.iof := rfl
@[simp] theorem setRm_rs (b : Bool) (s : State) : (setRm b s).rs = s.rs := rfl
@[simp] theorem setRm_re (b : Bool) (s : State) : (setRm b s).re = s.re := rfl
@[simp] theorem setRm_rc (b : Bool) (s : State) : (setRm b s).rc = s.rc := rfl
@[simp] theorem setRm_pc (b : Bool) (s : State) : (setRm b s).pc = s.pc := rfl
@[simp] theorem setRm_repS (b : Bool) (s : State) : (setRm b s).repS = s.repS := rfl
@[simp] theorem setRm_ir (b : Bool) (s : State) : (setRm b s).ir = s.ir := rfl
@[simp] theorem setRm_delay (b : Bool) (s : State) : (setRm b s).delay = s.delay := rfl
@[simp] theorem setRm_idle (b : Bool) (s : State) : (setRm b s).idle = s.idle := rfl
@[simp] theorem setRm_lowPower (b : Bool) (s : State) : (setRm b s).lowPower = s.lowPower := rfl
@[simp] theorem setRm_iack (b : Bool) (s : State) : (setRm b s).iack = s.iack := rfl
@[simp] theorem setRm_cache (b : Bool) (s : State) : (setRm b s).cache = s.cache := rfl
@[simp] theorem setRm_lockWait (b : Bool) (s : State) : (setRm b s).lockWait = s.lockWait := rfl
@[simp] theorem setRm_lockReady (b : Bool) (s : State) : (setRm b s).lockReady = s.lockReady := rfl
@[simp] theorem setRm_xf0Next (b : Bool) (s : State) : (setRm b s).xf0Next = s.xf0Next := rfl
@[simp] theorem setRm_bank (b : Bool) (s : State) : (setRm b s).bank = s.bank := rfl
@[simp] theorem setRm_primary (b : Bool) (s : State) : (setRm b s).primary = s.primary := rfl
@[simp] theorem setRm_expansion (b : Bool) (s : State) : (setRm b s).expansion = s.expansion := rfl
@[simp] theorem setRm_primaryWrote (b : Bool) (s : State) : (setRm b s).primaryWrote = s.primaryWrote := rfl
@[simp] theorem setRm_expansionWrote (b : Bool) (s : State) : (setRm b s).expansionWrote = s.expansionWrote := rfl
@[simp] theorem setRm_lineAddr (b : Bool) (s : State) : (setRm b s).lineAddr = s.lineAddr := rfl
@[simp] theorem setRm_sync0 (b : Bool) (s : State) : (setRm b s).sync0 = s.sync0 := rfl
@[simp] theorem setRm_sync1 (b : Bool) (s : State) : (setRm b s).sync1 = s.sync1 := rfl
@[simp] theorem setRm_sync2 (b : Bool) (s : State) : (setRm b s).sync2 = s.sync2 := rfl
@[simp] theorem setRm_sync3 (b : Bool) (s : State) : (setRm b s).sync3 = s.sync3 := rfl
@[simp] theorem setRm_resetLow (b : Bool) (s : State) : (setRm b s).resetLow = s.resetLow := rfl
@[simp] theorem setRm_booting (b : Bool) (s : State) : (setRm b s).booting = s.booting := rfl
@[simp] theorem setRm_mem (b : Bool) (s : State) : (setRm b s).mem = s.mem := rfl
@[simp] theorem setRm_rom (b : Bool) (s : State) : (setRm b s).rom = s.rom := rfl
@[simp] theorem setRm_primaryCtl (b : Bool) (s : State) : (setRm b s).primaryCtl = s.primaryCtl := rfl
@[simp] theorem setRm_expansionCtl (b : Bool) (s : State) : (setRm b s).expansionCtl = s.expansionCtl := rfl
@[simp] theorem setRm_timer0 (b : Bool) (s : State) : (setRm b s).timer0 = s.timer0 := rfl
@[simp] theorem setRm_timer1 (b : Bool) (s : State) : (setRm b s).timer1 = s.timer1 := rfl
@[simp] theorem setRm_port0 (b : Bool) (s : State) : (setRm b s).port0 = s.port0 := rfl
@[simp] theorem setRm_port1 (b : Bool) (s : State) : (setRm b s).port1 = s.port1 := rfl
@[simp] theorem setRm_dma (b : Bool) (s : State) : (setRm b s).dma = s.dma := rfl
@[simp] theorem setRm_env (b : Bool) (s : State) : (setRm b s).env = s.env := rfl
@[simp] theorem setRm_freeCount (b : Bool) (s : State) : (setRm b s).freeCount = s.freeCount := rfl
@[simp] theorem setRm_elapsed (b : Bool) (s : State) : (setRm b s).elapsed = s.elapsed := rfl
@[simp] theorem setRm_stalled (b : Bool) (s : State) : (setRm b s).stalled = s.stalled := rfl
@[simp] theorem setRm_abandon (b : Bool) (s : State) : (setRm b s).abandon = s.abandon := rfl
@[simp] theorem setRm_intWindow (b : Bool) (s : State) : (setRm b s).intWindow = s.intWindow := rfl
@[simp] theorem setRm_windowGie (b : Bool) (s : State) : (setRm b s).windowGie = s.windowGie := rfl
@[simp] theorem setRm_ifSet (b : Bool) (s : State) : (setRm b s).ifSet = s.ifSet := rfl
@[simp] theorem setRm_ifWritten (b : Bool) (s : State) : (setRm b s).ifWritten = s.ifWritten := rfl
@[simp] theorem setRm_shared (b : Bool) (s : State) : (setRm b s).shared = s.shared := rfl
@[simp] theorem setRm_onChip (b : Bool) (s : State) : (setRm b s).onChip = s.onChip := rfl
@[simp] theorem setRm_nopRun (b : Bool) (s : State) : (setRm b s).nopRun = s.nopRun := rfl
@[simp] theorem setRm_recentStores (b : Bool) (s : State) : (setRm b s).recentStores = s.recentStores := rfl
@[simp] theorem setRm_outNow (b : Bool) (s : State) : (setRm b s).outNow = s.outNow := rfl
@[simp] theorem setRm_outBefore (b : Bool) (s : State) : (setRm b s).outBefore = s.outBefore := rfl
@[simp] theorem setRm_trapped (b : Bool) (s : State) : (setRm b s).trapped = s.trapped := rfl
@[simp] theorem setRm_loopLoad (b : Bool) (s : State) : (setRm b s).loopLoad = s.loopLoad := rfl
@[simp] theorem setRm_loopOldRes (b : Bool) (s : State) : (setRm b s).loopOldRes = s.loopOldRes := rfl
@[simp] theorem setRm_rcBefore (b : Bool) (s : State) : (setRm b s).rcBefore = s.rcBefore := rfl

/-! ## applyFlags -/

@[simp] theorem applyFlags_device (f : Word → Word) (s : State) : (applyFlags f s).device = s.device := rfl
@[simp] theorem applyFlags_pins (f : Word → Word) (s : State) : (applyFlags f s).pins = s.pins := rfl
@[simp] theorem applyFlags_r (f : Word → Word) (s : State) : (applyFlags f s).r = s.r := rfl
@[simp] theorem applyFlags_ar (f : Word → Word) (s : State) : (applyFlags f s).ar = s.ar := rfl
@[simp] theorem applyFlags_dp (f : Word → Word) (s : State) : (applyFlags f s).dp = s.dp := rfl
@[simp] theorem applyFlags_ir0 (f : Word → Word) (s : State) : (applyFlags f s).ir0 = s.ir0 := rfl
@[simp] theorem applyFlags_ir1 (f : Word → Word) (s : State) : (applyFlags f s).ir1 = s.ir1 := rfl
@[simp] theorem applyFlags_bk (f : Word → Word) (s : State) : (applyFlags f s).bk = s.bk := rfl
@[simp] theorem applyFlags_sp (f : Word → Word) (s : State) : (applyFlags f s).sp = s.sp := rfl
@[simp] theorem applyFlags_st (f : Word → Word) (s : State) : (applyFlags f s).st = f s.st := rfl
@[simp] theorem applyFlags_ie (f : Word → Word) (s : State) : (applyFlags f s).ie = s.ie := rfl
@[simp] theorem applyFlags_ifr (f : Word → Word) (s : State) : (applyFlags f s).ifr = s.ifr := rfl
@[simp] theorem applyFlags_iof (f : Word → Word) (s : State) : (applyFlags f s).iof = s.iof := rfl
@[simp] theorem applyFlags_rs (f : Word → Word) (s : State) : (applyFlags f s).rs = s.rs := rfl
@[simp] theorem applyFlags_re (f : Word → Word) (s : State) : (applyFlags f s).re = s.re := rfl
@[simp] theorem applyFlags_rc (f : Word → Word) (s : State) : (applyFlags f s).rc = s.rc := rfl
@[simp] theorem applyFlags_pc (f : Word → Word) (s : State) : (applyFlags f s).pc = s.pc := rfl
@[simp] theorem applyFlags_repS (f : Word → Word) (s : State) : (applyFlags f s).repS = s.repS := rfl
@[simp] theorem applyFlags_ir (f : Word → Word) (s : State) : (applyFlags f s).ir = s.ir := rfl
@[simp] theorem applyFlags_delay (f : Word → Word) (s : State) : (applyFlags f s).delay = s.delay := rfl
@[simp] theorem applyFlags_idle (f : Word → Word) (s : State) : (applyFlags f s).idle = s.idle := rfl
@[simp] theorem applyFlags_lowPower (f : Word → Word) (s : State) : (applyFlags f s).lowPower = s.lowPower := rfl
@[simp] theorem applyFlags_iack (f : Word → Word) (s : State) : (applyFlags f s).iack = s.iack := rfl
@[simp] theorem applyFlags_cache (f : Word → Word) (s : State) : (applyFlags f s).cache = s.cache := rfl
@[simp] theorem applyFlags_lockWait (f : Word → Word) (s : State) : (applyFlags f s).lockWait = s.lockWait := rfl
@[simp] theorem applyFlags_lockReady (f : Word → Word) (s : State) : (applyFlags f s).lockReady = s.lockReady := rfl
@[simp] theorem applyFlags_xf0Next (f : Word → Word) (s : State) : (applyFlags f s).xf0Next = s.xf0Next := rfl
@[simp] theorem applyFlags_bank (f : Word → Word) (s : State) : (applyFlags f s).bank = s.bank := rfl
@[simp] theorem applyFlags_primary (f : Word → Word) (s : State) : (applyFlags f s).primary = s.primary := rfl
@[simp] theorem applyFlags_expansion (f : Word → Word) (s : State) : (applyFlags f s).expansion = s.expansion := rfl
@[simp] theorem applyFlags_primaryWrote (f : Word → Word) (s : State) : (applyFlags f s).primaryWrote = s.primaryWrote := rfl
@[simp] theorem applyFlags_expansionWrote (f : Word → Word) (s : State) : (applyFlags f s).expansionWrote = s.expansionWrote := rfl
@[simp] theorem applyFlags_lineAddr (f : Word → Word) (s : State) : (applyFlags f s).lineAddr = s.lineAddr := rfl
@[simp] theorem applyFlags_sync0 (f : Word → Word) (s : State) : (applyFlags f s).sync0 = s.sync0 := rfl
@[simp] theorem applyFlags_sync1 (f : Word → Word) (s : State) : (applyFlags f s).sync1 = s.sync1 := rfl
@[simp] theorem applyFlags_sync2 (f : Word → Word) (s : State) : (applyFlags f s).sync2 = s.sync2 := rfl
@[simp] theorem applyFlags_sync3 (f : Word → Word) (s : State) : (applyFlags f s).sync3 = s.sync3 := rfl
@[simp] theorem applyFlags_resetLow (f : Word → Word) (s : State) : (applyFlags f s).resetLow = s.resetLow := rfl
@[simp] theorem applyFlags_booting (f : Word → Word) (s : State) : (applyFlags f s).booting = s.booting := rfl
@[simp] theorem applyFlags_mem (f : Word → Word) (s : State) : (applyFlags f s).mem = s.mem := rfl
@[simp] theorem applyFlags_rom (f : Word → Word) (s : State) : (applyFlags f s).rom = s.rom := rfl
@[simp] theorem applyFlags_primaryCtl (f : Word → Word) (s : State) : (applyFlags f s).primaryCtl = s.primaryCtl := rfl
@[simp] theorem applyFlags_expansionCtl (f : Word → Word) (s : State) : (applyFlags f s).expansionCtl = s.expansionCtl := rfl
@[simp] theorem applyFlags_timer0 (f : Word → Word) (s : State) : (applyFlags f s).timer0 = s.timer0 := rfl
@[simp] theorem applyFlags_timer1 (f : Word → Word) (s : State) : (applyFlags f s).timer1 = s.timer1 := rfl
@[simp] theorem applyFlags_port0 (f : Word → Word) (s : State) : (applyFlags f s).port0 = s.port0 := rfl
@[simp] theorem applyFlags_port1 (f : Word → Word) (s : State) : (applyFlags f s).port1 = s.port1 := rfl
@[simp] theorem applyFlags_dma (f : Word → Word) (s : State) : (applyFlags f s).dma = s.dma := rfl
@[simp] theorem applyFlags_env (f : Word → Word) (s : State) : (applyFlags f s).env = s.env := rfl
@[simp] theorem applyFlags_freeCount (f : Word → Word) (s : State) : (applyFlags f s).freeCount = s.freeCount := rfl
@[simp] theorem applyFlags_elapsed (f : Word → Word) (s : State) : (applyFlags f s).elapsed = s.elapsed := rfl
@[simp] theorem applyFlags_stalled (f : Word → Word) (s : State) : (applyFlags f s).stalled = s.stalled := rfl
@[simp] theorem applyFlags_abandon (f : Word → Word) (s : State) : (applyFlags f s).abandon = s.abandon := rfl
@[simp] theorem applyFlags_intWindow (f : Word → Word) (s : State) : (applyFlags f s).intWindow = s.intWindow := rfl
@[simp] theorem applyFlags_windowGie (f : Word → Word) (s : State) : (applyFlags f s).windowGie = s.windowGie := rfl
@[simp] theorem applyFlags_ifSet (f : Word → Word) (s : State) : (applyFlags f s).ifSet = s.ifSet := rfl
@[simp] theorem applyFlags_ifWritten (f : Word → Word) (s : State) : (applyFlags f s).ifWritten = s.ifWritten := rfl
@[simp] theorem applyFlags_shared (f : Word → Word) (s : State) : (applyFlags f s).shared = s.shared := rfl
@[simp] theorem applyFlags_onChip (f : Word → Word) (s : State) : (applyFlags f s).onChip = s.onChip := rfl
@[simp] theorem applyFlags_nopRun (f : Word → Word) (s : State) : (applyFlags f s).nopRun = s.nopRun := rfl
@[simp] theorem applyFlags_recentStores (f : Word → Word) (s : State) : (applyFlags f s).recentStores = s.recentStores := rfl
@[simp] theorem applyFlags_outNow (f : Word → Word) (s : State) : (applyFlags f s).outNow = s.outNow := rfl
@[simp] theorem applyFlags_outBefore (f : Word → Word) (s : State) : (applyFlags f s).outBefore = s.outBefore := rfl
@[simp] theorem applyFlags_trapped (f : Word → Word) (s : State) : (applyFlags f s).trapped = s.trapped := rfl
@[simp] theorem applyFlags_loopLoad (f : Word → Word) (s : State) : (applyFlags f s).loopLoad = s.loopLoad := rfl
@[simp] theorem applyFlags_loopOldRes (f : Word → Word) (s : State) : (applyFlags f s).loopOldRes = s.loopOldRes := rfl
@[simp] theorem applyFlags_rcBefore (f : Word → Word) (s : State) : (applyFlags f s).rcBefore = s.rcBefore := rfl

/-! ## writeExt -/

@[simp] theorem writeExt_device (n : FReg) (v : Ext) (s : State) : (writeExt n v s).device = s.device := rfl
@[simp] theorem writeExt_pins (n : FReg) (v : Ext) (s : State) : (writeExt n v s).pins = s.pins := rfl
@[simp] theorem writeExt_r (n : FReg) (v : Ext) (s : State) : (writeExt n v s).r = s.r.set n.toNat v := rfl
@[simp] theorem writeExt_ar (n : FReg) (v : Ext) (s : State) : (writeExt n v s).ar = s.ar := rfl
@[simp] theorem writeExt_dp (n : FReg) (v : Ext) (s : State) : (writeExt n v s).dp = s.dp := rfl
@[simp] theorem writeExt_ir0 (n : FReg) (v : Ext) (s : State) : (writeExt n v s).ir0 = s.ir0 := rfl
@[simp] theorem writeExt_ir1 (n : FReg) (v : Ext) (s : State) : (writeExt n v s).ir1 = s.ir1 := rfl
@[simp] theorem writeExt_bk (n : FReg) (v : Ext) (s : State) : (writeExt n v s).bk = s.bk := rfl
@[simp] theorem writeExt_sp (n : FReg) (v : Ext) (s : State) : (writeExt n v s).sp = s.sp := rfl
@[simp] theorem writeExt_st (n : FReg) (v : Ext) (s : State) : (writeExt n v s).st = s.st := rfl
@[simp] theorem writeExt_ie (n : FReg) (v : Ext) (s : State) : (writeExt n v s).ie = s.ie := rfl
@[simp] theorem writeExt_ifr (n : FReg) (v : Ext) (s : State) : (writeExt n v s).ifr = s.ifr := rfl
@[simp] theorem writeExt_iof (n : FReg) (v : Ext) (s : State) : (writeExt n v s).iof = s.iof := rfl
@[simp] theorem writeExt_rs (n : FReg) (v : Ext) (s : State) : (writeExt n v s).rs = s.rs := rfl
@[simp] theorem writeExt_re (n : FReg) (v : Ext) (s : State) : (writeExt n v s).re = s.re := rfl
@[simp] theorem writeExt_rc (n : FReg) (v : Ext) (s : State) : (writeExt n v s).rc = s.rc := rfl
@[simp] theorem writeExt_pc (n : FReg) (v : Ext) (s : State) : (writeExt n v s).pc = s.pc := rfl
@[simp] theorem writeExt_repS (n : FReg) (v : Ext) (s : State) : (writeExt n v s).repS = s.repS := rfl
@[simp] theorem writeExt_ir (n : FReg) (v : Ext) (s : State) : (writeExt n v s).ir = s.ir := rfl
@[simp] theorem writeExt_delay (n : FReg) (v : Ext) (s : State) : (writeExt n v s).delay = s.delay := rfl
@[simp] theorem writeExt_idle (n : FReg) (v : Ext) (s : State) : (writeExt n v s).idle = s.idle := rfl
@[simp] theorem writeExt_lowPower (n : FReg) (v : Ext) (s : State) : (writeExt n v s).lowPower = s.lowPower := rfl
@[simp] theorem writeExt_iack (n : FReg) (v : Ext) (s : State) : (writeExt n v s).iack = s.iack := rfl
@[simp] theorem writeExt_cache (n : FReg) (v : Ext) (s : State) : (writeExt n v s).cache = s.cache := rfl
@[simp] theorem writeExt_lockWait (n : FReg) (v : Ext) (s : State) : (writeExt n v s).lockWait = s.lockWait := rfl
@[simp] theorem writeExt_lockReady (n : FReg) (v : Ext) (s : State) : (writeExt n v s).lockReady = s.lockReady := rfl
@[simp] theorem writeExt_xf0Next (n : FReg) (v : Ext) (s : State) : (writeExt n v s).xf0Next = s.xf0Next := rfl
@[simp] theorem writeExt_bank (n : FReg) (v : Ext) (s : State) : (writeExt n v s).bank = s.bank := rfl
@[simp] theorem writeExt_primary (n : FReg) (v : Ext) (s : State) : (writeExt n v s).primary = s.primary := rfl
@[simp] theorem writeExt_expansion (n : FReg) (v : Ext) (s : State) : (writeExt n v s).expansion = s.expansion := rfl
@[simp] theorem writeExt_primaryWrote (n : FReg) (v : Ext) (s : State) : (writeExt n v s).primaryWrote = s.primaryWrote := rfl
@[simp] theorem writeExt_expansionWrote (n : FReg) (v : Ext) (s : State) : (writeExt n v s).expansionWrote = s.expansionWrote := rfl
@[simp] theorem writeExt_lineAddr (n : FReg) (v : Ext) (s : State) : (writeExt n v s).lineAddr = s.lineAddr := rfl
@[simp] theorem writeExt_sync0 (n : FReg) (v : Ext) (s : State) : (writeExt n v s).sync0 = s.sync0 := rfl
@[simp] theorem writeExt_sync1 (n : FReg) (v : Ext) (s : State) : (writeExt n v s).sync1 = s.sync1 := rfl
@[simp] theorem writeExt_sync2 (n : FReg) (v : Ext) (s : State) : (writeExt n v s).sync2 = s.sync2 := rfl
@[simp] theorem writeExt_sync3 (n : FReg) (v : Ext) (s : State) : (writeExt n v s).sync3 = s.sync3 := rfl
@[simp] theorem writeExt_resetLow (n : FReg) (v : Ext) (s : State) : (writeExt n v s).resetLow = s.resetLow := rfl
@[simp] theorem writeExt_booting (n : FReg) (v : Ext) (s : State) : (writeExt n v s).booting = s.booting := rfl
@[simp] theorem writeExt_mem (n : FReg) (v : Ext) (s : State) : (writeExt n v s).mem = s.mem := rfl
@[simp] theorem writeExt_rom (n : FReg) (v : Ext) (s : State) : (writeExt n v s).rom = s.rom := rfl
@[simp] theorem writeExt_primaryCtl (n : FReg) (v : Ext) (s : State) : (writeExt n v s).primaryCtl = s.primaryCtl := rfl
@[simp] theorem writeExt_expansionCtl (n : FReg) (v : Ext) (s : State) : (writeExt n v s).expansionCtl = s.expansionCtl := rfl
@[simp] theorem writeExt_timer0 (n : FReg) (v : Ext) (s : State) : (writeExt n v s).timer0 = s.timer0 := rfl
@[simp] theorem writeExt_timer1 (n : FReg) (v : Ext) (s : State) : (writeExt n v s).timer1 = s.timer1 := rfl
@[simp] theorem writeExt_port0 (n : FReg) (v : Ext) (s : State) : (writeExt n v s).port0 = s.port0 := rfl
@[simp] theorem writeExt_port1 (n : FReg) (v : Ext) (s : State) : (writeExt n v s).port1 = s.port1 := rfl
@[simp] theorem writeExt_dma (n : FReg) (v : Ext) (s : State) : (writeExt n v s).dma = s.dma := rfl
@[simp] theorem writeExt_env (n : FReg) (v : Ext) (s : State) : (writeExt n v s).env = s.env := rfl
@[simp] theorem writeExt_freeCount (n : FReg) (v : Ext) (s : State) : (writeExt n v s).freeCount = s.freeCount := rfl
@[simp] theorem writeExt_elapsed (n : FReg) (v : Ext) (s : State) : (writeExt n v s).elapsed = s.elapsed := rfl
@[simp] theorem writeExt_stalled (n : FReg) (v : Ext) (s : State) : (writeExt n v s).stalled = s.stalled := rfl
@[simp] theorem writeExt_abandon (n : FReg) (v : Ext) (s : State) : (writeExt n v s).abandon = s.abandon := rfl
@[simp] theorem writeExt_intWindow (n : FReg) (v : Ext) (s : State) : (writeExt n v s).intWindow = s.intWindow := rfl
@[simp] theorem writeExt_windowGie (n : FReg) (v : Ext) (s : State) : (writeExt n v s).windowGie = s.windowGie := rfl
@[simp] theorem writeExt_ifSet (n : FReg) (v : Ext) (s : State) : (writeExt n v s).ifSet = s.ifSet := rfl
@[simp] theorem writeExt_ifWritten (n : FReg) (v : Ext) (s : State) : (writeExt n v s).ifWritten = s.ifWritten := rfl
@[simp] theorem writeExt_shared (n : FReg) (v : Ext) (s : State) : (writeExt n v s).shared = s.shared := rfl
@[simp] theorem writeExt_onChip (n : FReg) (v : Ext) (s : State) : (writeExt n v s).onChip = s.onChip := rfl
@[simp] theorem writeExt_nopRun (n : FReg) (v : Ext) (s : State) : (writeExt n v s).nopRun = s.nopRun := rfl
@[simp] theorem writeExt_recentStores (n : FReg) (v : Ext) (s : State) : (writeExt n v s).recentStores = s.recentStores := rfl
@[simp] theorem writeExt_outNow (n : FReg) (v : Ext) (s : State) : (writeExt n v s).outNow = s.outNow := rfl
@[simp] theorem writeExt_outBefore (n : FReg) (v : Ext) (s : State) : (writeExt n v s).outBefore = s.outBefore := rfl
@[simp] theorem writeExt_trapped (n : FReg) (v : Ext) (s : State) : (writeExt n v s).trapped = s.trapped := rfl
@[simp] theorem writeExt_loopLoad (n : FReg) (v : Ext) (s : State) : (writeExt n v s).loopLoad = s.loopLoad := rfl
@[simp] theorem writeExt_loopOldRes (n : FReg) (v : Ext) (s : State) : (writeExt n v s).loopOldRes = s.loopOldRes := rfl
@[simp] theorem writeExt_rcBefore (n : FReg) (v : Ext) (s : State) : (writeExt n v s).rcBefore = s.rcBefore := rfl

/-! ## writeInt -/

@[simp] theorem writeInt_device (n : FReg) (v : Word) (s : State) : (writeInt n v s).device = s.device := rfl
@[simp] theorem writeInt_pins (n : FReg) (v : Word) (s : State) : (writeInt n v s).pins = s.pins := rfl
@[simp] theorem writeInt_r (n : FReg) (v : Word) (s : State) : (writeInt n v s).r = s.r.set n.toNat ((readExt n s).extractLsb' 32 8 ++ v) := rfl
@[simp] theorem writeInt_ar (n : FReg) (v : Word) (s : State) : (writeInt n v s).ar = s.ar := rfl
@[simp] theorem writeInt_dp (n : FReg) (v : Word) (s : State) : (writeInt n v s).dp = s.dp := rfl
@[simp] theorem writeInt_ir0 (n : FReg) (v : Word) (s : State) : (writeInt n v s).ir0 = s.ir0 := rfl
@[simp] theorem writeInt_ir1 (n : FReg) (v : Word) (s : State) : (writeInt n v s).ir1 = s.ir1 := rfl
@[simp] theorem writeInt_bk (n : FReg) (v : Word) (s : State) : (writeInt n v s).bk = s.bk := rfl
@[simp] theorem writeInt_sp (n : FReg) (v : Word) (s : State) : (writeInt n v s).sp = s.sp := rfl
@[simp] theorem writeInt_st (n : FReg) (v : Word) (s : State) : (writeInt n v s).st = s.st := rfl
@[simp] theorem writeInt_ie (n : FReg) (v : Word) (s : State) : (writeInt n v s).ie = s.ie := rfl
@[simp] theorem writeInt_ifr (n : FReg) (v : Word) (s : State) : (writeInt n v s).ifr = s.ifr := rfl
@[simp] theorem writeInt_iof (n : FReg) (v : Word) (s : State) : (writeInt n v s).iof = s.iof := rfl
@[simp] theorem writeInt_rs (n : FReg) (v : Word) (s : State) : (writeInt n v s).rs = s.rs := rfl
@[simp] theorem writeInt_re (n : FReg) (v : Word) (s : State) : (writeInt n v s).re = s.re := rfl
@[simp] theorem writeInt_rc (n : FReg) (v : Word) (s : State) : (writeInt n v s).rc = s.rc := rfl
@[simp] theorem writeInt_pc (n : FReg) (v : Word) (s : State) : (writeInt n v s).pc = s.pc := rfl
@[simp] theorem writeInt_repS (n : FReg) (v : Word) (s : State) : (writeInt n v s).repS = s.repS := rfl
@[simp] theorem writeInt_ir (n : FReg) (v : Word) (s : State) : (writeInt n v s).ir = s.ir := rfl
@[simp] theorem writeInt_delay (n : FReg) (v : Word) (s : State) : (writeInt n v s).delay = s.delay := rfl
@[simp] theorem writeInt_idle (n : FReg) (v : Word) (s : State) : (writeInt n v s).idle = s.idle := rfl
@[simp] theorem writeInt_lowPower (n : FReg) (v : Word) (s : State) : (writeInt n v s).lowPower = s.lowPower := rfl
@[simp] theorem writeInt_iack (n : FReg) (v : Word) (s : State) : (writeInt n v s).iack = s.iack := rfl
@[simp] theorem writeInt_cache (n : FReg) (v : Word) (s : State) : (writeInt n v s).cache = s.cache := rfl
@[simp] theorem writeInt_lockWait (n : FReg) (v : Word) (s : State) : (writeInt n v s).lockWait = s.lockWait := rfl
@[simp] theorem writeInt_lockReady (n : FReg) (v : Word) (s : State) : (writeInt n v s).lockReady = s.lockReady := rfl
@[simp] theorem writeInt_xf0Next (n : FReg) (v : Word) (s : State) : (writeInt n v s).xf0Next = s.xf0Next := rfl
@[simp] theorem writeInt_bank (n : FReg) (v : Word) (s : State) : (writeInt n v s).bank = s.bank := rfl
@[simp] theorem writeInt_primary (n : FReg) (v : Word) (s : State) : (writeInt n v s).primary = s.primary := rfl
@[simp] theorem writeInt_expansion (n : FReg) (v : Word) (s : State) : (writeInt n v s).expansion = s.expansion := rfl
@[simp] theorem writeInt_primaryWrote (n : FReg) (v : Word) (s : State) : (writeInt n v s).primaryWrote = s.primaryWrote := rfl
@[simp] theorem writeInt_expansionWrote (n : FReg) (v : Word) (s : State) : (writeInt n v s).expansionWrote = s.expansionWrote := rfl
@[simp] theorem writeInt_lineAddr (n : FReg) (v : Word) (s : State) : (writeInt n v s).lineAddr = s.lineAddr := rfl
@[simp] theorem writeInt_sync0 (n : FReg) (v : Word) (s : State) : (writeInt n v s).sync0 = s.sync0 := rfl
@[simp] theorem writeInt_sync1 (n : FReg) (v : Word) (s : State) : (writeInt n v s).sync1 = s.sync1 := rfl
@[simp] theorem writeInt_sync2 (n : FReg) (v : Word) (s : State) : (writeInt n v s).sync2 = s.sync2 := rfl
@[simp] theorem writeInt_sync3 (n : FReg) (v : Word) (s : State) : (writeInt n v s).sync3 = s.sync3 := rfl
@[simp] theorem writeInt_resetLow (n : FReg) (v : Word) (s : State) : (writeInt n v s).resetLow = s.resetLow := rfl
@[simp] theorem writeInt_booting (n : FReg) (v : Word) (s : State) : (writeInt n v s).booting = s.booting := rfl
@[simp] theorem writeInt_mem (n : FReg) (v : Word) (s : State) : (writeInt n v s).mem = s.mem := rfl
@[simp] theorem writeInt_rom (n : FReg) (v : Word) (s : State) : (writeInt n v s).rom = s.rom := rfl
@[simp] theorem writeInt_primaryCtl (n : FReg) (v : Word) (s : State) : (writeInt n v s).primaryCtl = s.primaryCtl := rfl
@[simp] theorem writeInt_expansionCtl (n : FReg) (v : Word) (s : State) : (writeInt n v s).expansionCtl = s.expansionCtl := rfl
@[simp] theorem writeInt_timer0 (n : FReg) (v : Word) (s : State) : (writeInt n v s).timer0 = s.timer0 := rfl
@[simp] theorem writeInt_timer1 (n : FReg) (v : Word) (s : State) : (writeInt n v s).timer1 = s.timer1 := rfl
@[simp] theorem writeInt_port0 (n : FReg) (v : Word) (s : State) : (writeInt n v s).port0 = s.port0 := rfl
@[simp] theorem writeInt_port1 (n : FReg) (v : Word) (s : State) : (writeInt n v s).port1 = s.port1 := rfl
@[simp] theorem writeInt_dma (n : FReg) (v : Word) (s : State) : (writeInt n v s).dma = s.dma := rfl
@[simp] theorem writeInt_env (n : FReg) (v : Word) (s : State) : (writeInt n v s).env = s.env := rfl
@[simp] theorem writeInt_freeCount (n : FReg) (v : Word) (s : State) : (writeInt n v s).freeCount = s.freeCount := rfl
@[simp] theorem writeInt_elapsed (n : FReg) (v : Word) (s : State) : (writeInt n v s).elapsed = s.elapsed := rfl
@[simp] theorem writeInt_stalled (n : FReg) (v : Word) (s : State) : (writeInt n v s).stalled = s.stalled := rfl
@[simp] theorem writeInt_abandon (n : FReg) (v : Word) (s : State) : (writeInt n v s).abandon = s.abandon := rfl
@[simp] theorem writeInt_intWindow (n : FReg) (v : Word) (s : State) : (writeInt n v s).intWindow = s.intWindow := rfl
@[simp] theorem writeInt_windowGie (n : FReg) (v : Word) (s : State) : (writeInt n v s).windowGie = s.windowGie := rfl
@[simp] theorem writeInt_ifSet (n : FReg) (v : Word) (s : State) : (writeInt n v s).ifSet = s.ifSet := rfl
@[simp] theorem writeInt_ifWritten (n : FReg) (v : Word) (s : State) : (writeInt n v s).ifWritten = s.ifWritten := rfl
@[simp] theorem writeInt_shared (n : FReg) (v : Word) (s : State) : (writeInt n v s).shared = s.shared := rfl
@[simp] theorem writeInt_onChip (n : FReg) (v : Word) (s : State) : (writeInt n v s).onChip = s.onChip := rfl
@[simp] theorem writeInt_nopRun (n : FReg) (v : Word) (s : State) : (writeInt n v s).nopRun = s.nopRun := rfl
@[simp] theorem writeInt_recentStores (n : FReg) (v : Word) (s : State) : (writeInt n v s).recentStores = s.recentStores := rfl
@[simp] theorem writeInt_outNow (n : FReg) (v : Word) (s : State) : (writeInt n v s).outNow = s.outNow := rfl
@[simp] theorem writeInt_outBefore (n : FReg) (v : Word) (s : State) : (writeInt n v s).outBefore = s.outBefore := rfl
@[simp] theorem writeInt_trapped (n : FReg) (v : Word) (s : State) : (writeInt n v s).trapped = s.trapped := rfl
@[simp] theorem writeInt_loopLoad (n : FReg) (v : Word) (s : State) : (writeInt n v s).loopLoad = s.loopLoad := rfl
@[simp] theorem writeInt_loopOldRes (n : FReg) (v : Word) (s : State) : (writeInt n v s).loopOldRes = s.loopOldRes := rfl
@[simp] theorem writeInt_rcBefore (n : FReg) (v : Word) (s : State) : (writeInt n v s).rcBefore = s.rcBefore := rfl

/-! ## writeAr -/

@[simp] theorem writeAr_device (n : BitVec 3) (v : Word) (s : State) : (writeAr n v s).device = s.device := rfl
@[simp] theorem writeAr_pins (n : BitVec 3) (v : Word) (s : State) : (writeAr n v s).pins = s.pins := rfl
@[simp] theorem writeAr_r (n : BitVec 3) (v : Word) (s : State) : (writeAr n v s).r = s.r := rfl
@[simp] theorem writeAr_ar (n : BitVec 3) (v : Word) (s : State) : (writeAr n v s).ar = s.ar.set n.toNat v := rfl
@[simp] theorem writeAr_dp (n : BitVec 3) (v : Word) (s : State) : (writeAr n v s).dp = s.dp := rfl
@[simp] theorem writeAr_ir0 (n : BitVec 3) (v : Word) (s : State) : (writeAr n v s).ir0 = s.ir0 := rfl
@[simp] theorem writeAr_ir1 (n : BitVec 3) (v : Word) (s : State) : (writeAr n v s).ir1 = s.ir1 := rfl
@[simp] theorem writeAr_bk (n : BitVec 3) (v : Word) (s : State) : (writeAr n v s).bk = s.bk := rfl
@[simp] theorem writeAr_sp (n : BitVec 3) (v : Word) (s : State) : (writeAr n v s).sp = s.sp := rfl
@[simp] theorem writeAr_st (n : BitVec 3) (v : Word) (s : State) : (writeAr n v s).st = s.st := rfl
@[simp] theorem writeAr_ie (n : BitVec 3) (v : Word) (s : State) : (writeAr n v s).ie = s.ie := rfl
@[simp] theorem writeAr_ifr (n : BitVec 3) (v : Word) (s : State) : (writeAr n v s).ifr = s.ifr := rfl
@[simp] theorem writeAr_iof (n : BitVec 3) (v : Word) (s : State) : (writeAr n v s).iof = s.iof := rfl
@[simp] theorem writeAr_rs (n : BitVec 3) (v : Word) (s : State) : (writeAr n v s).rs = s.rs := rfl
@[simp] theorem writeAr_re (n : BitVec 3) (v : Word) (s : State) : (writeAr n v s).re = s.re := rfl
@[simp] theorem writeAr_rc (n : BitVec 3) (v : Word) (s : State) : (writeAr n v s).rc = s.rc := rfl
@[simp] theorem writeAr_pc (n : BitVec 3) (v : Word) (s : State) : (writeAr n v s).pc = s.pc := rfl
@[simp] theorem writeAr_repS (n : BitVec 3) (v : Word) (s : State) : (writeAr n v s).repS = s.repS := rfl
@[simp] theorem writeAr_ir (n : BitVec 3) (v : Word) (s : State) : (writeAr n v s).ir = s.ir := rfl
@[simp] theorem writeAr_delay (n : BitVec 3) (v : Word) (s : State) : (writeAr n v s).delay = s.delay := rfl
@[simp] theorem writeAr_idle (n : BitVec 3) (v : Word) (s : State) : (writeAr n v s).idle = s.idle := rfl
@[simp] theorem writeAr_lowPower (n : BitVec 3) (v : Word) (s : State) : (writeAr n v s).lowPower = s.lowPower := rfl
@[simp] theorem writeAr_iack (n : BitVec 3) (v : Word) (s : State) : (writeAr n v s).iack = s.iack := rfl
@[simp] theorem writeAr_cache (n : BitVec 3) (v : Word) (s : State) : (writeAr n v s).cache = s.cache := rfl
@[simp] theorem writeAr_lockWait (n : BitVec 3) (v : Word) (s : State) : (writeAr n v s).lockWait = s.lockWait := rfl
@[simp] theorem writeAr_lockReady (n : BitVec 3) (v : Word) (s : State) : (writeAr n v s).lockReady = s.lockReady := rfl
@[simp] theorem writeAr_xf0Next (n : BitVec 3) (v : Word) (s : State) : (writeAr n v s).xf0Next = s.xf0Next := rfl
@[simp] theorem writeAr_bank (n : BitVec 3) (v : Word) (s : State) : (writeAr n v s).bank = s.bank := rfl
@[simp] theorem writeAr_primary (n : BitVec 3) (v : Word) (s : State) : (writeAr n v s).primary = s.primary := rfl
@[simp] theorem writeAr_expansion (n : BitVec 3) (v : Word) (s : State) : (writeAr n v s).expansion = s.expansion := rfl
@[simp] theorem writeAr_primaryWrote (n : BitVec 3) (v : Word) (s : State) : (writeAr n v s).primaryWrote = s.primaryWrote := rfl
@[simp] theorem writeAr_expansionWrote (n : BitVec 3) (v : Word) (s : State) : (writeAr n v s).expansionWrote = s.expansionWrote := rfl
@[simp] theorem writeAr_lineAddr (n : BitVec 3) (v : Word) (s : State) : (writeAr n v s).lineAddr = s.lineAddr := rfl
@[simp] theorem writeAr_sync0 (n : BitVec 3) (v : Word) (s : State) : (writeAr n v s).sync0 = s.sync0 := rfl
@[simp] theorem writeAr_sync1 (n : BitVec 3) (v : Word) (s : State) : (writeAr n v s).sync1 = s.sync1 := rfl
@[simp] theorem writeAr_sync2 (n : BitVec 3) (v : Word) (s : State) : (writeAr n v s).sync2 = s.sync2 := rfl
@[simp] theorem writeAr_sync3 (n : BitVec 3) (v : Word) (s : State) : (writeAr n v s).sync3 = s.sync3 := rfl
@[simp] theorem writeAr_resetLow (n : BitVec 3) (v : Word) (s : State) : (writeAr n v s).resetLow = s.resetLow := rfl
@[simp] theorem writeAr_booting (n : BitVec 3) (v : Word) (s : State) : (writeAr n v s).booting = s.booting := rfl
@[simp] theorem writeAr_mem (n : BitVec 3) (v : Word) (s : State) : (writeAr n v s).mem = s.mem := rfl
@[simp] theorem writeAr_rom (n : BitVec 3) (v : Word) (s : State) : (writeAr n v s).rom = s.rom := rfl
@[simp] theorem writeAr_primaryCtl (n : BitVec 3) (v : Word) (s : State) : (writeAr n v s).primaryCtl = s.primaryCtl := rfl
@[simp] theorem writeAr_expansionCtl (n : BitVec 3) (v : Word) (s : State) : (writeAr n v s).expansionCtl = s.expansionCtl := rfl
@[simp] theorem writeAr_timer0 (n : BitVec 3) (v : Word) (s : State) : (writeAr n v s).timer0 = s.timer0 := rfl
@[simp] theorem writeAr_timer1 (n : BitVec 3) (v : Word) (s : State) : (writeAr n v s).timer1 = s.timer1 := rfl
@[simp] theorem writeAr_port0 (n : BitVec 3) (v : Word) (s : State) : (writeAr n v s).port0 = s.port0 := rfl
@[simp] theorem writeAr_port1 (n : BitVec 3) (v : Word) (s : State) : (writeAr n v s).port1 = s.port1 := rfl
@[simp] theorem writeAr_dma (n : BitVec 3) (v : Word) (s : State) : (writeAr n v s).dma = s.dma := rfl
@[simp] theorem writeAr_env (n : BitVec 3) (v : Word) (s : State) : (writeAr n v s).env = s.env := rfl
@[simp] theorem writeAr_freeCount (n : BitVec 3) (v : Word) (s : State) : (writeAr n v s).freeCount = s.freeCount := rfl
@[simp] theorem writeAr_elapsed (n : BitVec 3) (v : Word) (s : State) : (writeAr n v s).elapsed = s.elapsed := rfl
@[simp] theorem writeAr_stalled (n : BitVec 3) (v : Word) (s : State) : (writeAr n v s).stalled = s.stalled := rfl
@[simp] theorem writeAr_abandon (n : BitVec 3) (v : Word) (s : State) : (writeAr n v s).abandon = s.abandon := rfl
@[simp] theorem writeAr_intWindow (n : BitVec 3) (v : Word) (s : State) : (writeAr n v s).intWindow = s.intWindow := rfl
@[simp] theorem writeAr_windowGie (n : BitVec 3) (v : Word) (s : State) : (writeAr n v s).windowGie = s.windowGie := rfl
@[simp] theorem writeAr_ifSet (n : BitVec 3) (v : Word) (s : State) : (writeAr n v s).ifSet = s.ifSet := rfl
@[simp] theorem writeAr_ifWritten (n : BitVec 3) (v : Word) (s : State) : (writeAr n v s).ifWritten = s.ifWritten := rfl
@[simp] theorem writeAr_shared (n : BitVec 3) (v : Word) (s : State) : (writeAr n v s).shared = s.shared := rfl
@[simp] theorem writeAr_onChip (n : BitVec 3) (v : Word) (s : State) : (writeAr n v s).onChip = s.onChip := rfl
@[simp] theorem writeAr_nopRun (n : BitVec 3) (v : Word) (s : State) : (writeAr n v s).nopRun = s.nopRun := rfl
@[simp] theorem writeAr_recentStores (n : BitVec 3) (v : Word) (s : State) : (writeAr n v s).recentStores = s.recentStores := rfl
@[simp] theorem writeAr_outNow (n : BitVec 3) (v : Word) (s : State) : (writeAr n v s).outNow = s.outNow := rfl
@[simp] theorem writeAr_outBefore (n : BitVec 3) (v : Word) (s : State) : (writeAr n v s).outBefore = s.outBefore := rfl
@[simp] theorem writeAr_trapped (n : BitVec 3) (v : Word) (s : State) : (writeAr n v s).trapped = s.trapped := rfl
@[simp] theorem writeAr_loopLoad (n : BitVec 3) (v : Word) (s : State) : (writeAr n v s).loopLoad = s.loopLoad := rfl
@[simp] theorem writeAr_loopOldRes (n : BitVec 3) (v : Word) (s : State) : (writeAr n v s).loopOldRes = s.loopOldRes := rfl
@[simp] theorem writeAr_rcBefore (n : BitVec 3) (v : Word) (s : State) : (writeAr n v s).rcBefore = s.rcBefore := rfl

/-! ## writeArAddr -/

@[simp] theorem writeArAddr_device (n : BitVec 3) (a : Addr) (s : State) : (writeArAddr n a s).device = s.device := rfl
@[simp] theorem writeArAddr_pins (n : BitVec 3) (a : Addr) (s : State) : (writeArAddr n a s).pins = s.pins := rfl
@[simp] theorem writeArAddr_r (n : BitVec 3) (a : Addr) (s : State) : (writeArAddr n a s).r = s.r := rfl
@[simp] theorem writeArAddr_ar (n : BitVec 3) (a : Addr) (s : State) : (writeArAddr n a s).ar = s.ar.set n.toNat ((s.ar[n.toNat]).extractLsb' 24 8 ++ a) := rfl
@[simp] theorem writeArAddr_dp (n : BitVec 3) (a : Addr) (s : State) : (writeArAddr n a s).dp = s.dp := rfl
@[simp] theorem writeArAddr_ir0 (n : BitVec 3) (a : Addr) (s : State) : (writeArAddr n a s).ir0 = s.ir0 := rfl
@[simp] theorem writeArAddr_ir1 (n : BitVec 3) (a : Addr) (s : State) : (writeArAddr n a s).ir1 = s.ir1 := rfl
@[simp] theorem writeArAddr_bk (n : BitVec 3) (a : Addr) (s : State) : (writeArAddr n a s).bk = s.bk := rfl
@[simp] theorem writeArAddr_sp (n : BitVec 3) (a : Addr) (s : State) : (writeArAddr n a s).sp = s.sp := rfl
@[simp] theorem writeArAddr_st (n : BitVec 3) (a : Addr) (s : State) : (writeArAddr n a s).st = s.st := rfl
@[simp] theorem writeArAddr_ie (n : BitVec 3) (a : Addr) (s : State) : (writeArAddr n a s).ie = s.ie := rfl
@[simp] theorem writeArAddr_ifr (n : BitVec 3) (a : Addr) (s : State) : (writeArAddr n a s).ifr = s.ifr := rfl
@[simp] theorem writeArAddr_iof (n : BitVec 3) (a : Addr) (s : State) : (writeArAddr n a s).iof = s.iof := rfl
@[simp] theorem writeArAddr_rs (n : BitVec 3) (a : Addr) (s : State) : (writeArAddr n a s).rs = s.rs := rfl
@[simp] theorem writeArAddr_re (n : BitVec 3) (a : Addr) (s : State) : (writeArAddr n a s).re = s.re := rfl
@[simp] theorem writeArAddr_rc (n : BitVec 3) (a : Addr) (s : State) : (writeArAddr n a s).rc = s.rc := rfl
@[simp] theorem writeArAddr_pc (n : BitVec 3) (a : Addr) (s : State) : (writeArAddr n a s).pc = s.pc := rfl
@[simp] theorem writeArAddr_repS (n : BitVec 3) (a : Addr) (s : State) : (writeArAddr n a s).repS = s.repS := rfl
@[simp] theorem writeArAddr_ir (n : BitVec 3) (a : Addr) (s : State) : (writeArAddr n a s).ir = s.ir := rfl
@[simp] theorem writeArAddr_delay (n : BitVec 3) (a : Addr) (s : State) : (writeArAddr n a s).delay = s.delay := rfl
@[simp] theorem writeArAddr_idle (n : BitVec 3) (a : Addr) (s : State) : (writeArAddr n a s).idle = s.idle := rfl
@[simp] theorem writeArAddr_lowPower (n : BitVec 3) (a : Addr) (s : State) : (writeArAddr n a s).lowPower = s.lowPower := rfl
@[simp] theorem writeArAddr_iack (n : BitVec 3) (a : Addr) (s : State) : (writeArAddr n a s).iack = s.iack := rfl
@[simp] theorem writeArAddr_cache (n : BitVec 3) (a : Addr) (s : State) : (writeArAddr n a s).cache = s.cache := rfl
@[simp] theorem writeArAddr_lockWait (n : BitVec 3) (a : Addr) (s : State) : (writeArAddr n a s).lockWait = s.lockWait := rfl
@[simp] theorem writeArAddr_lockReady (n : BitVec 3) (a : Addr) (s : State) : (writeArAddr n a s).lockReady = s.lockReady := rfl
@[simp] theorem writeArAddr_xf0Next (n : BitVec 3) (a : Addr) (s : State) : (writeArAddr n a s).xf0Next = s.xf0Next := rfl
@[simp] theorem writeArAddr_bank (n : BitVec 3) (a : Addr) (s : State) : (writeArAddr n a s).bank = s.bank := rfl
@[simp] theorem writeArAddr_primary (n : BitVec 3) (a : Addr) (s : State) : (writeArAddr n a s).primary = s.primary := rfl
@[simp] theorem writeArAddr_expansion (n : BitVec 3) (a : Addr) (s : State) : (writeArAddr n a s).expansion = s.expansion := rfl
@[simp] theorem writeArAddr_primaryWrote (n : BitVec 3) (a : Addr) (s : State) : (writeArAddr n a s).primaryWrote = s.primaryWrote := rfl
@[simp] theorem writeArAddr_expansionWrote (n : BitVec 3) (a : Addr) (s : State) : (writeArAddr n a s).expansionWrote = s.expansionWrote := rfl
@[simp] theorem writeArAddr_lineAddr (n : BitVec 3) (a : Addr) (s : State) : (writeArAddr n a s).lineAddr = s.lineAddr := rfl
@[simp] theorem writeArAddr_sync0 (n : BitVec 3) (a : Addr) (s : State) : (writeArAddr n a s).sync0 = s.sync0 := rfl
@[simp] theorem writeArAddr_sync1 (n : BitVec 3) (a : Addr) (s : State) : (writeArAddr n a s).sync1 = s.sync1 := rfl
@[simp] theorem writeArAddr_sync2 (n : BitVec 3) (a : Addr) (s : State) : (writeArAddr n a s).sync2 = s.sync2 := rfl
@[simp] theorem writeArAddr_sync3 (n : BitVec 3) (a : Addr) (s : State) : (writeArAddr n a s).sync3 = s.sync3 := rfl
@[simp] theorem writeArAddr_resetLow (n : BitVec 3) (a : Addr) (s : State) : (writeArAddr n a s).resetLow = s.resetLow := rfl
@[simp] theorem writeArAddr_booting (n : BitVec 3) (a : Addr) (s : State) : (writeArAddr n a s).booting = s.booting := rfl
@[simp] theorem writeArAddr_mem (n : BitVec 3) (a : Addr) (s : State) : (writeArAddr n a s).mem = s.mem := rfl
@[simp] theorem writeArAddr_rom (n : BitVec 3) (a : Addr) (s : State) : (writeArAddr n a s).rom = s.rom := rfl
@[simp] theorem writeArAddr_primaryCtl (n : BitVec 3) (a : Addr) (s : State) : (writeArAddr n a s).primaryCtl = s.primaryCtl := rfl
@[simp] theorem writeArAddr_expansionCtl (n : BitVec 3) (a : Addr) (s : State) : (writeArAddr n a s).expansionCtl = s.expansionCtl := rfl
@[simp] theorem writeArAddr_timer0 (n : BitVec 3) (a : Addr) (s : State) : (writeArAddr n a s).timer0 = s.timer0 := rfl
@[simp] theorem writeArAddr_timer1 (n : BitVec 3) (a : Addr) (s : State) : (writeArAddr n a s).timer1 = s.timer1 := rfl
@[simp] theorem writeArAddr_port0 (n : BitVec 3) (a : Addr) (s : State) : (writeArAddr n a s).port0 = s.port0 := rfl
@[simp] theorem writeArAddr_port1 (n : BitVec 3) (a : Addr) (s : State) : (writeArAddr n a s).port1 = s.port1 := rfl
@[simp] theorem writeArAddr_dma (n : BitVec 3) (a : Addr) (s : State) : (writeArAddr n a s).dma = s.dma := rfl
@[simp] theorem writeArAddr_env (n : BitVec 3) (a : Addr) (s : State) : (writeArAddr n a s).env = s.env := rfl
@[simp] theorem writeArAddr_freeCount (n : BitVec 3) (a : Addr) (s : State) : (writeArAddr n a s).freeCount = s.freeCount := rfl
@[simp] theorem writeArAddr_elapsed (n : BitVec 3) (a : Addr) (s : State) : (writeArAddr n a s).elapsed = s.elapsed := rfl
@[simp] theorem writeArAddr_stalled (n : BitVec 3) (a : Addr) (s : State) : (writeArAddr n a s).stalled = s.stalled := rfl
@[simp] theorem writeArAddr_abandon (n : BitVec 3) (a : Addr) (s : State) : (writeArAddr n a s).abandon = s.abandon := rfl
@[simp] theorem writeArAddr_intWindow (n : BitVec 3) (a : Addr) (s : State) : (writeArAddr n a s).intWindow = s.intWindow := rfl
@[simp] theorem writeArAddr_windowGie (n : BitVec 3) (a : Addr) (s : State) : (writeArAddr n a s).windowGie = s.windowGie := rfl
@[simp] theorem writeArAddr_ifSet (n : BitVec 3) (a : Addr) (s : State) : (writeArAddr n a s).ifSet = s.ifSet := rfl
@[simp] theorem writeArAddr_ifWritten (n : BitVec 3) (a : Addr) (s : State) : (writeArAddr n a s).ifWritten = s.ifWritten := rfl
@[simp] theorem writeArAddr_shared (n : BitVec 3) (a : Addr) (s : State) : (writeArAddr n a s).shared = s.shared := rfl
@[simp] theorem writeArAddr_onChip (n : BitVec 3) (a : Addr) (s : State) : (writeArAddr n a s).onChip = s.onChip := rfl
@[simp] theorem writeArAddr_nopRun (n : BitVec 3) (a : Addr) (s : State) : (writeArAddr n a s).nopRun = s.nopRun := rfl
@[simp] theorem writeArAddr_recentStores (n : BitVec 3) (a : Addr) (s : State) : (writeArAddr n a s).recentStores = s.recentStores := rfl
@[simp] theorem writeArAddr_outNow (n : BitVec 3) (a : Addr) (s : State) : (writeArAddr n a s).outNow = s.outNow := rfl
@[simp] theorem writeArAddr_outBefore (n : BitVec 3) (a : Addr) (s : State) : (writeArAddr n a s).outBefore = s.outBefore := rfl
@[simp] theorem writeArAddr_trapped (n : BitVec 3) (a : Addr) (s : State) : (writeArAddr n a s).trapped = s.trapped := rfl
@[simp] theorem writeArAddr_loopLoad (n : BitVec 3) (a : Addr) (s : State) : (writeArAddr n a s).loopLoad = s.loopLoad := rfl
@[simp] theorem writeArAddr_loopOldRes (n : BitVec 3) (a : Addr) (s : State) : (writeArAddr n a s).loopOldRes = s.loopOldRes := rfl
@[simp] theorem writeArAddr_rcBefore (n : BitVec 3) (a : Addr) (s : State) : (writeArAddr n a s).rcBefore = s.rcBefore := rfl

/-! ## loopLoaded -/

@[simp] theorem loopLoaded_device (s : State) : (loopLoaded s).device = s.device := rfl
@[simp] theorem loopLoaded_pins (s : State) : (loopLoaded s).pins = s.pins := rfl
@[simp] theorem loopLoaded_r (s : State) : (loopLoaded s).r = s.r := rfl
@[simp] theorem loopLoaded_ar (s : State) : (loopLoaded s).ar = s.ar := rfl
@[simp] theorem loopLoaded_dp (s : State) : (loopLoaded s).dp = s.dp := rfl
@[simp] theorem loopLoaded_ir0 (s : State) : (loopLoaded s).ir0 = s.ir0 := rfl
@[simp] theorem loopLoaded_ir1 (s : State) : (loopLoaded s).ir1 = s.ir1 := rfl
@[simp] theorem loopLoaded_bk (s : State) : (loopLoaded s).bk = s.bk := rfl
@[simp] theorem loopLoaded_sp (s : State) : (loopLoaded s).sp = s.sp := rfl
@[simp] theorem loopLoaded_st (s : State) : (loopLoaded s).st = s.st := rfl
@[simp] theorem loopLoaded_ie (s : State) : (loopLoaded s).ie = s.ie := rfl
@[simp] theorem loopLoaded_ifr (s : State) : (loopLoaded s).ifr = s.ifr := rfl
@[simp] theorem loopLoaded_iof (s : State) : (loopLoaded s).iof = s.iof := rfl
@[simp] theorem loopLoaded_rs (s : State) : (loopLoaded s).rs = s.rs := rfl
@[simp] theorem loopLoaded_re (s : State) : (loopLoaded s).re = s.re := rfl
@[simp] theorem loopLoaded_rc (s : State) : (loopLoaded s).rc = s.rc := rfl
@[simp] theorem loopLoaded_pc (s : State) : (loopLoaded s).pc = s.pc := rfl
@[simp] theorem loopLoaded_repS (s : State) : (loopLoaded s).repS = s.repS := rfl
@[simp] theorem loopLoaded_ir (s : State) : (loopLoaded s).ir = s.ir := rfl
@[simp] theorem loopLoaded_delay (s : State) : (loopLoaded s).delay = s.delay := rfl
@[simp] theorem loopLoaded_idle (s : State) : (loopLoaded s).idle = s.idle := rfl
@[simp] theorem loopLoaded_lowPower (s : State) : (loopLoaded s).lowPower = s.lowPower := rfl
@[simp] theorem loopLoaded_iack (s : State) : (loopLoaded s).iack = s.iack := rfl
@[simp] theorem loopLoaded_cache (s : State) : (loopLoaded s).cache = s.cache := rfl
@[simp] theorem loopLoaded_lockWait (s : State) : (loopLoaded s).lockWait = s.lockWait := rfl
@[simp] theorem loopLoaded_lockReady (s : State) : (loopLoaded s).lockReady = s.lockReady := rfl
@[simp] theorem loopLoaded_xf0Next (s : State) : (loopLoaded s).xf0Next = s.xf0Next := rfl
@[simp] theorem loopLoaded_bank (s : State) : (loopLoaded s).bank = s.bank := rfl
@[simp] theorem loopLoaded_primary (s : State) : (loopLoaded s).primary = s.primary := rfl
@[simp] theorem loopLoaded_expansion (s : State) : (loopLoaded s).expansion = s.expansion := rfl
@[simp] theorem loopLoaded_primaryWrote (s : State) : (loopLoaded s).primaryWrote = s.primaryWrote := rfl
@[simp] theorem loopLoaded_expansionWrote (s : State) : (loopLoaded s).expansionWrote = s.expansionWrote := rfl
@[simp] theorem loopLoaded_lineAddr (s : State) : (loopLoaded s).lineAddr = s.lineAddr := rfl
@[simp] theorem loopLoaded_sync0 (s : State) : (loopLoaded s).sync0 = s.sync0 := rfl
@[simp] theorem loopLoaded_sync1 (s : State) : (loopLoaded s).sync1 = s.sync1 := rfl
@[simp] theorem loopLoaded_sync2 (s : State) : (loopLoaded s).sync2 = s.sync2 := rfl
@[simp] theorem loopLoaded_sync3 (s : State) : (loopLoaded s).sync3 = s.sync3 := rfl
@[simp] theorem loopLoaded_resetLow (s : State) : (loopLoaded s).resetLow = s.resetLow := rfl
@[simp] theorem loopLoaded_booting (s : State) : (loopLoaded s).booting = s.booting := rfl
@[simp] theorem loopLoaded_mem (s : State) : (loopLoaded s).mem = s.mem := rfl
@[simp] theorem loopLoaded_rom (s : State) : (loopLoaded s).rom = s.rom := rfl
@[simp] theorem loopLoaded_primaryCtl (s : State) : (loopLoaded s).primaryCtl = s.primaryCtl := rfl
@[simp] theorem loopLoaded_expansionCtl (s : State) : (loopLoaded s).expansionCtl = s.expansionCtl := rfl
@[simp] theorem loopLoaded_timer0 (s : State) : (loopLoaded s).timer0 = s.timer0 := rfl
@[simp] theorem loopLoaded_timer1 (s : State) : (loopLoaded s).timer1 = s.timer1 := rfl
@[simp] theorem loopLoaded_port0 (s : State) : (loopLoaded s).port0 = s.port0 := rfl
@[simp] theorem loopLoaded_port1 (s : State) : (loopLoaded s).port1 = s.port1 := rfl
@[simp] theorem loopLoaded_dma (s : State) : (loopLoaded s).dma = s.dma := rfl
@[simp] theorem loopLoaded_env (s : State) : (loopLoaded s).env = s.env := rfl
@[simp] theorem loopLoaded_freeCount (s : State) : (loopLoaded s).freeCount = s.freeCount := rfl
@[simp] theorem loopLoaded_elapsed (s : State) : (loopLoaded s).elapsed = s.elapsed := rfl
@[simp] theorem loopLoaded_stalled (s : State) : (loopLoaded s).stalled = s.stalled := rfl
@[simp] theorem loopLoaded_abandon (s : State) : (loopLoaded s).abandon = s.abandon := rfl
@[simp] theorem loopLoaded_intWindow (s : State) : (loopLoaded s).intWindow = s.intWindow := rfl
@[simp] theorem loopLoaded_windowGie (s : State) : (loopLoaded s).windowGie = s.windowGie := rfl
@[simp] theorem loopLoaded_ifSet (s : State) : (loopLoaded s).ifSet = s.ifSet := rfl
@[simp] theorem loopLoaded_ifWritten (s : State) : (loopLoaded s).ifWritten = s.ifWritten := rfl
@[simp] theorem loopLoaded_shared (s : State) : (loopLoaded s).shared = s.shared := rfl
@[simp] theorem loopLoaded_onChip (s : State) : (loopLoaded s).onChip = s.onChip := rfl
@[simp] theorem loopLoaded_nopRun (s : State) : (loopLoaded s).nopRun = s.nopRun := rfl
@[simp] theorem loopLoaded_recentStores (s : State) : (loopLoaded s).recentStores = s.recentStores := rfl
@[simp] theorem loopLoaded_outNow (s : State) : (loopLoaded s).outNow = s.outNow := rfl
@[simp] theorem loopLoaded_outBefore (s : State) : (loopLoaded s).outBefore = s.outBefore := rfl
@[simp] theorem loopLoaded_trapped (s : State) : (loopLoaded s).trapped = s.trapped := rfl
@[simp] theorem loopLoaded_loopLoad (s : State) : (loopLoaded s).loopLoad = 4 := rfl
@[simp] theorem loopLoaded_rcBefore (s : State) : (loopLoaded s).rcBefore = s.rcBefore := rfl

/-! ## latchXf0 -/

@[simp] theorem latchXf0_device (b : Bool) (s : State) : (latchXf0 b s).device = s.device := rfl
@[simp] theorem latchXf0_pins (b : Bool) (s : State) : (latchXf0 b s).pins = s.pins := rfl
@[simp] theorem latchXf0_r (b : Bool) (s : State) : (latchXf0 b s).r = s.r := rfl
@[simp] theorem latchXf0_ar (b : Bool) (s : State) : (latchXf0 b s).ar = s.ar := rfl
@[simp] theorem latchXf0_dp (b : Bool) (s : State) : (latchXf0 b s).dp = s.dp := rfl
@[simp] theorem latchXf0_ir0 (b : Bool) (s : State) : (latchXf0 b s).ir0 = s.ir0 := rfl
@[simp] theorem latchXf0_ir1 (b : Bool) (s : State) : (latchXf0 b s).ir1 = s.ir1 := rfl
@[simp] theorem latchXf0_bk (b : Bool) (s : State) : (latchXf0 b s).bk = s.bk := rfl
@[simp] theorem latchXf0_sp (b : Bool) (s : State) : (latchXf0 b s).sp = s.sp := rfl
@[simp] theorem latchXf0_st (b : Bool) (s : State) : (latchXf0 b s).st = s.st := rfl
@[simp] theorem latchXf0_ie (b : Bool) (s : State) : (latchXf0 b s).ie = s.ie := rfl
@[simp] theorem latchXf0_ifr (b : Bool) (s : State) : (latchXf0 b s).ifr = s.ifr := rfl
@[simp] theorem latchXf0_iof (b : Bool) (s : State) : (latchXf0 b s).iof = setBit s.iof 2 b := rfl
@[simp] theorem latchXf0_rs (b : Bool) (s : State) : (latchXf0 b s).rs = s.rs := rfl
@[simp] theorem latchXf0_re (b : Bool) (s : State) : (latchXf0 b s).re = s.re := rfl
@[simp] theorem latchXf0_rc (b : Bool) (s : State) : (latchXf0 b s).rc = s.rc := rfl
@[simp] theorem latchXf0_pc (b : Bool) (s : State) : (latchXf0 b s).pc = s.pc := rfl
@[simp] theorem latchXf0_repS (b : Bool) (s : State) : (latchXf0 b s).repS = s.repS := rfl
@[simp] theorem latchXf0_ir (b : Bool) (s : State) : (latchXf0 b s).ir = s.ir := rfl
@[simp] theorem latchXf0_delay (b : Bool) (s : State) : (latchXf0 b s).delay = s.delay := rfl
@[simp] theorem latchXf0_idle (b : Bool) (s : State) : (latchXf0 b s).idle = s.idle := rfl
@[simp] theorem latchXf0_lowPower (b : Bool) (s : State) : (latchXf0 b s).lowPower = s.lowPower := rfl
@[simp] theorem latchXf0_iack (b : Bool) (s : State) : (latchXf0 b s).iack = s.iack := rfl
@[simp] theorem latchXf0_cache (b : Bool) (s : State) : (latchXf0 b s).cache = s.cache := rfl
@[simp] theorem latchXf0_lockWait (b : Bool) (s : State) : (latchXf0 b s).lockWait = s.lockWait := rfl
@[simp] theorem latchXf0_lockReady (b : Bool) (s : State) : (latchXf0 b s).lockReady = s.lockReady := rfl
@[simp] theorem latchXf0_xf0Next (b : Bool) (s : State) : (latchXf0 b s).xf0Next = s.xf0Next := rfl
@[simp] theorem latchXf0_bank (b : Bool) (s : State) : (latchXf0 b s).bank = s.bank := rfl
@[simp] theorem latchXf0_primary (b : Bool) (s : State) : (latchXf0 b s).primary = s.primary := rfl
@[simp] theorem latchXf0_expansion (b : Bool) (s : State) : (latchXf0 b s).expansion = s.expansion := rfl
@[simp] theorem latchXf0_primaryWrote (b : Bool) (s : State) : (latchXf0 b s).primaryWrote = s.primaryWrote := rfl
@[simp] theorem latchXf0_expansionWrote (b : Bool) (s : State) : (latchXf0 b s).expansionWrote = s.expansionWrote := rfl
@[simp] theorem latchXf0_lineAddr (b : Bool) (s : State) : (latchXf0 b s).lineAddr = s.lineAddr := rfl
@[simp] theorem latchXf0_sync0 (b : Bool) (s : State) : (latchXf0 b s).sync0 = s.sync0 := rfl
@[simp] theorem latchXf0_sync1 (b : Bool) (s : State) : (latchXf0 b s).sync1 = s.sync1 := rfl
@[simp] theorem latchXf0_sync2 (b : Bool) (s : State) : (latchXf0 b s).sync2 = s.sync2 := rfl
@[simp] theorem latchXf0_sync3 (b : Bool) (s : State) : (latchXf0 b s).sync3 = s.sync3 := rfl
@[simp] theorem latchXf0_resetLow (b : Bool) (s : State) : (latchXf0 b s).resetLow = s.resetLow := rfl
@[simp] theorem latchXf0_booting (b : Bool) (s : State) : (latchXf0 b s).booting = s.booting := rfl
@[simp] theorem latchXf0_mem (b : Bool) (s : State) : (latchXf0 b s).mem = s.mem := rfl
@[simp] theorem latchXf0_rom (b : Bool) (s : State) : (latchXf0 b s).rom = s.rom := rfl
@[simp] theorem latchXf0_primaryCtl (b : Bool) (s : State) : (latchXf0 b s).primaryCtl = s.primaryCtl := rfl
@[simp] theorem latchXf0_expansionCtl (b : Bool) (s : State) : (latchXf0 b s).expansionCtl = s.expansionCtl := rfl
@[simp] theorem latchXf0_timer0 (b : Bool) (s : State) : (latchXf0 b s).timer0 = s.timer0 := rfl
@[simp] theorem latchXf0_timer1 (b : Bool) (s : State) : (latchXf0 b s).timer1 = s.timer1 := rfl
@[simp] theorem latchXf0_port0 (b : Bool) (s : State) : (latchXf0 b s).port0 = s.port0 := rfl
@[simp] theorem latchXf0_port1 (b : Bool) (s : State) : (latchXf0 b s).port1 = s.port1 := rfl
@[simp] theorem latchXf0_dma (b : Bool) (s : State) : (latchXf0 b s).dma = s.dma := rfl
@[simp] theorem latchXf0_env (b : Bool) (s : State) : (latchXf0 b s).env = s.env := rfl
@[simp] theorem latchXf0_freeCount (b : Bool) (s : State) : (latchXf0 b s).freeCount = s.freeCount := rfl
@[simp] theorem latchXf0_elapsed (b : Bool) (s : State) : (latchXf0 b s).elapsed = s.elapsed := rfl
@[simp] theorem latchXf0_stalled (b : Bool) (s : State) : (latchXf0 b s).stalled = s.stalled := rfl
@[simp] theorem latchXf0_abandon (b : Bool) (s : State) : (latchXf0 b s).abandon = s.abandon := rfl
@[simp] theorem latchXf0_intWindow (b : Bool) (s : State) : (latchXf0 b s).intWindow = s.intWindow := rfl
@[simp] theorem latchXf0_windowGie (b : Bool) (s : State) : (latchXf0 b s).windowGie = s.windowGie := rfl
@[simp] theorem latchXf0_ifSet (b : Bool) (s : State) : (latchXf0 b s).ifSet = s.ifSet := rfl
@[simp] theorem latchXf0_ifWritten (b : Bool) (s : State) : (latchXf0 b s).ifWritten = s.ifWritten := rfl
@[simp] theorem latchXf0_shared (b : Bool) (s : State) : (latchXf0 b s).shared = s.shared := rfl
@[simp] theorem latchXf0_onChip (b : Bool) (s : State) : (latchXf0 b s).onChip = s.onChip := rfl
@[simp] theorem latchXf0_nopRun (b : Bool) (s : State) : (latchXf0 b s).nopRun = s.nopRun := rfl
@[simp] theorem latchXf0_recentStores (b : Bool) (s : State) : (latchXf0 b s).recentStores = s.recentStores := rfl
@[simp] theorem latchXf0_outNow (b : Bool) (s : State) : (latchXf0 b s).outNow = s.outNow := rfl
@[simp] theorem latchXf0_outBefore (b : Bool) (s : State) : (latchXf0 b s).outBefore = s.outBefore := rfl
@[simp] theorem latchXf0_trapped (b : Bool) (s : State) : (latchXf0 b s).trapped = s.trapped := rfl
@[simp] theorem latchXf0_loopLoad (b : Bool) (s : State) : (latchXf0 b s).loopLoad = s.loopLoad := rfl
@[simp] theorem latchXf0_loopOldRes (b : Bool) (s : State) : (latchXf0 b s).loopOldRes = s.loopOldRes := rfl
@[simp] theorem latchXf0_rcBefore (b : Bool) (s : State) : (latchXf0 b s).rcBefore = s.rcBefore := rfl

/-! ## setXf0 -/

@[simp] theorem setXf0_device (b : Bool) (s : State) : (setXf0 b s).device = s.device := rfl
@[simp] theorem setXf0_pins (b : Bool) (s : State) : (setXf0 b s).pins = s.pins := rfl
@[simp] theorem setXf0_r (b : Bool) (s : State) : (setXf0 b s).r = s.r := rfl
@[simp] theorem setXf0_ar (b : Bool) (s : State) : (setXf0 b s).ar = s.ar := rfl
@[simp] theorem setXf0_dp (b : Bool) (s : State) : (setXf0 b s).dp = s.dp := rfl
@[simp] theorem setXf0_ir0 (b : Bool) (s : State) : (setXf0 b s).ir0 = s.ir0 := rfl
@[simp] theorem setXf0_ir1 (b : Bool) (s : State) : (setXf0 b s).ir1 = s.ir1 := rfl
@[simp] theorem setXf0_bk (b : Bool) (s : State) : (setXf0 b s).bk = s.bk := rfl
@[simp] theorem setXf0_sp (b : Bool) (s : State) : (setXf0 b s).sp = s.sp := rfl
@[simp] theorem setXf0_st (b : Bool) (s : State) : (setXf0 b s).st = s.st := rfl
@[simp] theorem setXf0_ie (b : Bool) (s : State) : (setXf0 b s).ie = s.ie := rfl
@[simp] theorem setXf0_ifr (b : Bool) (s : State) : (setXf0 b s).ifr = s.ifr := rfl
@[simp] theorem setXf0_iof (b : Bool) (s : State) : (setXf0 b s).iof = setBit s.iof 2 b := rfl
@[simp] theorem setXf0_rs (b : Bool) (s : State) : (setXf0 b s).rs = s.rs := rfl
@[simp] theorem setXf0_re (b : Bool) (s : State) : (setXf0 b s).re = s.re := rfl
@[simp] theorem setXf0_rc (b : Bool) (s : State) : (setXf0 b s).rc = s.rc := rfl
@[simp] theorem setXf0_pc (b : Bool) (s : State) : (setXf0 b s).pc = s.pc := rfl
@[simp] theorem setXf0_repS (b : Bool) (s : State) : (setXf0 b s).repS = s.repS := rfl
@[simp] theorem setXf0_ir (b : Bool) (s : State) : (setXf0 b s).ir = s.ir := rfl
@[simp] theorem setXf0_delay (b : Bool) (s : State) : (setXf0 b s).delay = s.delay := rfl
@[simp] theorem setXf0_idle (b : Bool) (s : State) : (setXf0 b s).idle = s.idle := rfl
@[simp] theorem setXf0_lowPower (b : Bool) (s : State) : (setXf0 b s).lowPower = s.lowPower := rfl
@[simp] theorem setXf0_iack (b : Bool) (s : State) : (setXf0 b s).iack = s.iack := rfl
@[simp] theorem setXf0_cache (b : Bool) (s : State) : (setXf0 b s).cache = s.cache := rfl
@[simp] theorem setXf0_lockWait (b : Bool) (s : State) : (setXf0 b s).lockWait = s.lockWait := rfl
@[simp] theorem setXf0_lockReady (b : Bool) (s : State) : (setXf0 b s).lockReady = s.lockReady := rfl
@[simp] theorem setXf0_xf0Next (b : Bool) (s : State) : (setXf0 b s).xf0Next = xf0Before s.elapsed s := rfl
@[simp] theorem setXf0_bank (b : Bool) (s : State) : (setXf0 b s).bank = s.bank := rfl
@[simp] theorem setXf0_primary (b : Bool) (s : State) : (setXf0 b s).primary = s.primary := rfl
@[simp] theorem setXf0_expansion (b : Bool) (s : State) : (setXf0 b s).expansion = s.expansion := rfl
@[simp] theorem setXf0_primaryWrote (b : Bool) (s : State) : (setXf0 b s).primaryWrote = s.primaryWrote := rfl
@[simp] theorem setXf0_expansionWrote (b : Bool) (s : State) : (setXf0 b s).expansionWrote = s.expansionWrote := rfl
@[simp] theorem setXf0_lineAddr (b : Bool) (s : State) : (setXf0 b s).lineAddr = s.lineAddr := rfl
@[simp] theorem setXf0_sync0 (b : Bool) (s : State) : (setXf0 b s).sync0 = s.sync0 := rfl
@[simp] theorem setXf0_sync1 (b : Bool) (s : State) : (setXf0 b s).sync1 = s.sync1 := rfl
@[simp] theorem setXf0_sync2 (b : Bool) (s : State) : (setXf0 b s).sync2 = s.sync2 := rfl
@[simp] theorem setXf0_sync3 (b : Bool) (s : State) : (setXf0 b s).sync3 = s.sync3 := rfl
@[simp] theorem setXf0_resetLow (b : Bool) (s : State) : (setXf0 b s).resetLow = s.resetLow := rfl
@[simp] theorem setXf0_booting (b : Bool) (s : State) : (setXf0 b s).booting = s.booting := rfl
@[simp] theorem setXf0_mem (b : Bool) (s : State) : (setXf0 b s).mem = s.mem := rfl
@[simp] theorem setXf0_rom (b : Bool) (s : State) : (setXf0 b s).rom = s.rom := rfl
@[simp] theorem setXf0_primaryCtl (b : Bool) (s : State) : (setXf0 b s).primaryCtl = s.primaryCtl := rfl
@[simp] theorem setXf0_expansionCtl (b : Bool) (s : State) : (setXf0 b s).expansionCtl = s.expansionCtl := rfl
@[simp] theorem setXf0_timer0 (b : Bool) (s : State) : (setXf0 b s).timer0 = s.timer0 := rfl
@[simp] theorem setXf0_timer1 (b : Bool) (s : State) : (setXf0 b s).timer1 = s.timer1 := rfl
@[simp] theorem setXf0_port0 (b : Bool) (s : State) : (setXf0 b s).port0 = s.port0 := rfl
@[simp] theorem setXf0_port1 (b : Bool) (s : State) : (setXf0 b s).port1 = s.port1 := rfl
@[simp] theorem setXf0_dma (b : Bool) (s : State) : (setXf0 b s).dma = s.dma := rfl
@[simp] theorem setXf0_env (b : Bool) (s : State) : (setXf0 b s).env = s.env := rfl
@[simp] theorem setXf0_freeCount (b : Bool) (s : State) : (setXf0 b s).freeCount = s.freeCount := rfl
@[simp] theorem setXf0_elapsed (b : Bool) (s : State) : (setXf0 b s).elapsed = s.elapsed := rfl
@[simp] theorem setXf0_stalled (b : Bool) (s : State) : (setXf0 b s).stalled = s.stalled := rfl
@[simp] theorem setXf0_abandon (b : Bool) (s : State) : (setXf0 b s).abandon = s.abandon := rfl
@[simp] theorem setXf0_intWindow (b : Bool) (s : State) : (setXf0 b s).intWindow = s.intWindow := rfl
@[simp] theorem setXf0_windowGie (b : Bool) (s : State) : (setXf0 b s).windowGie = s.windowGie := rfl
@[simp] theorem setXf0_ifSet (b : Bool) (s : State) : (setXf0 b s).ifSet = s.ifSet := rfl
@[simp] theorem setXf0_ifWritten (b : Bool) (s : State) : (setXf0 b s).ifWritten = s.ifWritten := rfl
@[simp] theorem setXf0_shared (b : Bool) (s : State) : (setXf0 b s).shared = s.shared := rfl
@[simp] theorem setXf0_onChip (b : Bool) (s : State) : (setXf0 b s).onChip = s.onChip := rfl
@[simp] theorem setXf0_nopRun (b : Bool) (s : State) : (setXf0 b s).nopRun = s.nopRun := rfl
@[simp] theorem setXf0_recentStores (b : Bool) (s : State) : (setXf0 b s).recentStores = s.recentStores := rfl
@[simp] theorem setXf0_outNow (b : Bool) (s : State) : (setXf0 b s).outNow = s.outNow := rfl
@[simp] theorem setXf0_outBefore (b : Bool) (s : State) : (setXf0 b s).outBefore = s.outBefore := rfl
@[simp] theorem setXf0_trapped (b : Bool) (s : State) : (setXf0 b s).trapped = s.trapped := rfl
@[simp] theorem setXf0_loopLoad (b : Bool) (s : State) : (setXf0 b s).loopLoad = s.loopLoad := rfl
@[simp] theorem setXf0_loopOldRes (b : Bool) (s : State) : (setXf0 b s).loopOldRes = s.loopOldRes := rfl
@[simp] theorem setXf0_rcBefore (b : Bool) (s : State) : (setXf0 b s).rcBefore = s.rcBefore := rfl

/-! ## waitForXf1 -/

@[simp] theorem waitForXf1_device (s : State) : (waitForXf1 s).device = s.device := rfl
@[simp] theorem waitForXf1_pins (s : State) : (waitForXf1 s).pins = s.pins := rfl
@[simp] theorem waitForXf1_r (s : State) : (waitForXf1 s).r = s.r := rfl
@[simp] theorem waitForXf1_ar (s : State) : (waitForXf1 s).ar = s.ar := rfl
@[simp] theorem waitForXf1_dp (s : State) : (waitForXf1 s).dp = s.dp := rfl
@[simp] theorem waitForXf1_ir0 (s : State) : (waitForXf1 s).ir0 = s.ir0 := rfl
@[simp] theorem waitForXf1_ir1 (s : State) : (waitForXf1 s).ir1 = s.ir1 := rfl
@[simp] theorem waitForXf1_bk (s : State) : (waitForXf1 s).bk = s.bk := rfl
@[simp] theorem waitForXf1_sp (s : State) : (waitForXf1 s).sp = s.sp := rfl
@[simp] theorem waitForXf1_st (s : State) : (waitForXf1 s).st = s.st := rfl
@[simp] theorem waitForXf1_ie (s : State) : (waitForXf1 s).ie = s.ie := rfl
@[simp] theorem waitForXf1_ifr (s : State) : (waitForXf1 s).ifr = s.ifr := rfl
@[simp] theorem waitForXf1_iof (s : State) : (waitForXf1 s).iof = setBit s.iof 2 false := rfl
@[simp] theorem waitForXf1_rs (s : State) : (waitForXf1 s).rs = s.rs := rfl
@[simp] theorem waitForXf1_re (s : State) : (waitForXf1 s).re = s.re := rfl
@[simp] theorem waitForXf1_rc (s : State) : (waitForXf1 s).rc = s.rc := rfl
@[simp] theorem waitForXf1_pc (s : State) : (waitForXf1 s).pc = s.pc := rfl
@[simp] theorem waitForXf1_repS (s : State) : (waitForXf1 s).repS = s.repS := rfl
@[simp] theorem waitForXf1_ir (s : State) : (waitForXf1 s).ir = s.ir := rfl
@[simp] theorem waitForXf1_delay (s : State) : (waitForXf1 s).delay = s.delay := rfl
@[simp] theorem waitForXf1_idle (s : State) : (waitForXf1 s).idle = s.idle := rfl
@[simp] theorem waitForXf1_lowPower (s : State) : (waitForXf1 s).lowPower = s.lowPower := rfl
@[simp] theorem waitForXf1_iack (s : State) : (waitForXf1 s).iack = s.iack := rfl
@[simp] theorem waitForXf1_cache (s : State) : (waitForXf1 s).cache = s.cache := rfl
@[simp] theorem waitForXf1_lockWait (s : State) : (waitForXf1 s).lockWait = s.lockWait + 1 := rfl
@[simp] theorem waitForXf1_lockReady (s : State) : (waitForXf1 s).lockReady = s.lockReady := rfl
@[simp] theorem waitForXf1_xf0Next (s : State) : (waitForXf1 s).xf0Next = xf0Before s.elapsed s := rfl
@[simp] theorem waitForXf1_bank (s : State) : (waitForXf1 s).bank = s.bank := rfl
@[simp] theorem waitForXf1_primary (s : State) : (waitForXf1 s).primary = s.primary := rfl
@[simp] theorem waitForXf1_expansion (s : State) : (waitForXf1 s).expansion = s.expansion := rfl
@[simp] theorem waitForXf1_primaryWrote (s : State) : (waitForXf1 s).primaryWrote = s.primaryWrote := rfl
@[simp] theorem waitForXf1_expansionWrote (s : State) : (waitForXf1 s).expansionWrote = s.expansionWrote := rfl
@[simp] theorem waitForXf1_lineAddr (s : State) : (waitForXf1 s).lineAddr = s.lineAddr := rfl
@[simp] theorem waitForXf1_sync0 (s : State) : (waitForXf1 s).sync0 = s.sync0 := rfl
@[simp] theorem waitForXf1_sync1 (s : State) : (waitForXf1 s).sync1 = s.sync1 := rfl
@[simp] theorem waitForXf1_sync2 (s : State) : (waitForXf1 s).sync2 = s.sync2 := rfl
@[simp] theorem waitForXf1_sync3 (s : State) : (waitForXf1 s).sync3 = s.sync3 := rfl
@[simp] theorem waitForXf1_resetLow (s : State) : (waitForXf1 s).resetLow = s.resetLow := rfl
@[simp] theorem waitForXf1_booting (s : State) : (waitForXf1 s).booting = s.booting := rfl
@[simp] theorem waitForXf1_mem (s : State) : (waitForXf1 s).mem = s.mem := rfl
@[simp] theorem waitForXf1_rom (s : State) : (waitForXf1 s).rom = s.rom := rfl
@[simp] theorem waitForXf1_primaryCtl (s : State) : (waitForXf1 s).primaryCtl = s.primaryCtl := rfl
@[simp] theorem waitForXf1_expansionCtl (s : State) : (waitForXf1 s).expansionCtl = s.expansionCtl := rfl
@[simp] theorem waitForXf1_timer0 (s : State) : (waitForXf1 s).timer0 = s.timer0 := rfl
@[simp] theorem waitForXf1_timer1 (s : State) : (waitForXf1 s).timer1 = s.timer1 := rfl
@[simp] theorem waitForXf1_port0 (s : State) : (waitForXf1 s).port0 = s.port0 := rfl
@[simp] theorem waitForXf1_port1 (s : State) : (waitForXf1 s).port1 = s.port1 := rfl
@[simp] theorem waitForXf1_dma (s : State) : (waitForXf1 s).dma = s.dma := rfl
@[simp] theorem waitForXf1_env (s : State) : (waitForXf1 s).env = s.env := rfl
@[simp] theorem waitForXf1_freeCount (s : State) : (waitForXf1 s).freeCount = s.freeCount := rfl
@[simp] theorem waitForXf1_elapsed (s : State) : (waitForXf1 s).elapsed = s.elapsed := rfl
@[simp] theorem waitForXf1_stalled (s : State) : (waitForXf1 s).stalled = s.stalled := rfl
@[simp] theorem waitForXf1_abandon (s : State) : (waitForXf1 s).abandon = s.abandon := rfl
@[simp] theorem waitForXf1_intWindow (s : State) : (waitForXf1 s).intWindow = s.intWindow := rfl
@[simp] theorem waitForXf1_windowGie (s : State) : (waitForXf1 s).windowGie = s.windowGie := rfl
@[simp] theorem waitForXf1_ifSet (s : State) : (waitForXf1 s).ifSet = s.ifSet := rfl
@[simp] theorem waitForXf1_ifWritten (s : State) : (waitForXf1 s).ifWritten = s.ifWritten := rfl
@[simp] theorem waitForXf1_shared (s : State) : (waitForXf1 s).shared = s.shared := rfl
@[simp] theorem waitForXf1_onChip (s : State) : (waitForXf1 s).onChip = s.onChip := rfl
@[simp] theorem waitForXf1_nopRun (s : State) : (waitForXf1 s).nopRun = s.nopRun := rfl
@[simp] theorem waitForXf1_recentStores (s : State) : (waitForXf1 s).recentStores = s.recentStores := rfl
@[simp] theorem waitForXf1_outNow (s : State) : (waitForXf1 s).outNow = s.outNow := rfl
@[simp] theorem waitForXf1_outBefore (s : State) : (waitForXf1 s).outBefore = s.outBefore := rfl
@[simp] theorem waitForXf1_trapped (s : State) : (waitForXf1 s).trapped = s.trapped := rfl
@[simp] theorem waitForXf1_loopLoad (s : State) : (waitForXf1 s).loopLoad = s.loopLoad := rfl
@[simp] theorem waitForXf1_loopOldRes (s : State) : (waitForXf1 s).loopOldRes = s.loopOldRes := rfl
@[simp] theorem waitForXf1_rcBefore (s : State) : (waitForXf1 s).rcBefore = s.rcBefore := rfl

/-! ## ramStore -/

@[simp] theorem ramStore_device (dma : Bool) (a : Addr) (v : Word) (s : State) : (ramStore dma a v s).device = s.device := rfl
@[simp] theorem ramStore_pins (dma : Bool) (a : Addr) (v : Word) (s : State) : (ramStore dma a v s).pins = s.pins := rfl
@[simp] theorem ramStore_r (dma : Bool) (a : Addr) (v : Word) (s : State) : (ramStore dma a v s).r = s.r := rfl
@[simp] theorem ramStore_ar (dma : Bool) (a : Addr) (v : Word) (s : State) : (ramStore dma a v s).ar = s.ar := rfl
@[simp] theorem ramStore_dp (dma : Bool) (a : Addr) (v : Word) (s : State) : (ramStore dma a v s).dp = s.dp := rfl
@[simp] theorem ramStore_ir0 (dma : Bool) (a : Addr) (v : Word) (s : State) : (ramStore dma a v s).ir0 = s.ir0 := rfl
@[simp] theorem ramStore_ir1 (dma : Bool) (a : Addr) (v : Word) (s : State) : (ramStore dma a v s).ir1 = s.ir1 := rfl
@[simp] theorem ramStore_bk (dma : Bool) (a : Addr) (v : Word) (s : State) : (ramStore dma a v s).bk = s.bk := rfl
@[simp] theorem ramStore_sp (dma : Bool) (a : Addr) (v : Word) (s : State) : (ramStore dma a v s).sp = s.sp := rfl
@[simp] theorem ramStore_st (dma : Bool) (a : Addr) (v : Word) (s : State) : (ramStore dma a v s).st = s.st := rfl
@[simp] theorem ramStore_ie (dma : Bool) (a : Addr) (v : Word) (s : State) : (ramStore dma a v s).ie = s.ie := rfl
@[simp] theorem ramStore_ifr (dma : Bool) (a : Addr) (v : Word) (s : State) : (ramStore dma a v s).ifr = s.ifr := rfl
@[simp] theorem ramStore_iof (dma : Bool) (a : Addr) (v : Word) (s : State) : (ramStore dma a v s).iof = s.iof := rfl
@[simp] theorem ramStore_rs (dma : Bool) (a : Addr) (v : Word) (s : State) : (ramStore dma a v s).rs = s.rs := rfl
@[simp] theorem ramStore_re (dma : Bool) (a : Addr) (v : Word) (s : State) : (ramStore dma a v s).re = s.re := rfl
@[simp] theorem ramStore_rc (dma : Bool) (a : Addr) (v : Word) (s : State) : (ramStore dma a v s).rc = s.rc := rfl
@[simp] theorem ramStore_pc (dma : Bool) (a : Addr) (v : Word) (s : State) : (ramStore dma a v s).pc = s.pc := rfl
@[simp] theorem ramStore_repS (dma : Bool) (a : Addr) (v : Word) (s : State) : (ramStore dma a v s).repS = s.repS := rfl
@[simp] theorem ramStore_ir (dma : Bool) (a : Addr) (v : Word) (s : State) : (ramStore dma a v s).ir = s.ir := rfl
@[simp] theorem ramStore_delay (dma : Bool) (a : Addr) (v : Word) (s : State) : (ramStore dma a v s).delay = s.delay := rfl
@[simp] theorem ramStore_idle (dma : Bool) (a : Addr) (v : Word) (s : State) : (ramStore dma a v s).idle = s.idle := rfl
@[simp] theorem ramStore_lowPower (dma : Bool) (a : Addr) (v : Word) (s : State) : (ramStore dma a v s).lowPower = s.lowPower := rfl
@[simp] theorem ramStore_iack (dma : Bool) (a : Addr) (v : Word) (s : State) : (ramStore dma a v s).iack = s.iack := rfl
@[simp] theorem ramStore_cache (dma : Bool) (a : Addr) (v : Word) (s : State) : (ramStore dma a v s).cache = s.cache := rfl
@[simp] theorem ramStore_lockWait (dma : Bool) (a : Addr) (v : Word) (s : State) : (ramStore dma a v s).lockWait = s.lockWait := rfl
@[simp] theorem ramStore_lockReady (dma : Bool) (a : Addr) (v : Word) (s : State) : (ramStore dma a v s).lockReady = s.lockReady := rfl
@[simp] theorem ramStore_xf0Next (dma : Bool) (a : Addr) (v : Word) (s : State) : (ramStore dma a v s).xf0Next = s.xf0Next := rfl
@[simp] theorem ramStore_bank (dma : Bool) (a : Addr) (v : Word) (s : State) : (ramStore dma a v s).bank = s.bank := rfl
@[simp] theorem ramStore_primary (dma : Bool) (a : Addr) (v : Word) (s : State) : (ramStore dma a v s).primary = s.primary := rfl
@[simp] theorem ramStore_expansion (dma : Bool) (a : Addr) (v : Word) (s : State) : (ramStore dma a v s).expansion = s.expansion := rfl
@[simp] theorem ramStore_primaryWrote (dma : Bool) (a : Addr) (v : Word) (s : State) : (ramStore dma a v s).primaryWrote = s.primaryWrote := rfl
@[simp] theorem ramStore_expansionWrote (dma : Bool) (a : Addr) (v : Word) (s : State) : (ramStore dma a v s).expansionWrote = s.expansionWrote := rfl
@[simp] theorem ramStore_lineAddr (dma : Bool) (a : Addr) (v : Word) (s : State) : (ramStore dma a v s).lineAddr = s.lineAddr := rfl
@[simp] theorem ramStore_sync0 (dma : Bool) (a : Addr) (v : Word) (s : State) : (ramStore dma a v s).sync0 = s.sync0 := rfl
@[simp] theorem ramStore_sync1 (dma : Bool) (a : Addr) (v : Word) (s : State) : (ramStore dma a v s).sync1 = s.sync1 := rfl
@[simp] theorem ramStore_sync2 (dma : Bool) (a : Addr) (v : Word) (s : State) : (ramStore dma a v s).sync2 = s.sync2 := rfl
@[simp] theorem ramStore_sync3 (dma : Bool) (a : Addr) (v : Word) (s : State) : (ramStore dma a v s).sync3 = s.sync3 := rfl
@[simp] theorem ramStore_resetLow (dma : Bool) (a : Addr) (v : Word) (s : State) : (ramStore dma a v s).resetLow = s.resetLow := rfl
@[simp] theorem ramStore_booting (dma : Bool) (a : Addr) (v : Word) (s : State) : (ramStore dma a v s).booting = s.booting := rfl
@[simp] theorem ramStore_mem (dma : Bool) (a : Addr) (v : Word) (s : State) : (ramStore dma a v s).mem = memWriteWord s.mem a v := rfl
@[simp] theorem ramStore_rom (dma : Bool) (a : Addr) (v : Word) (s : State) : (ramStore dma a v s).rom = s.rom := rfl
@[simp] theorem ramStore_primaryCtl (dma : Bool) (a : Addr) (v : Word) (s : State) : (ramStore dma a v s).primaryCtl = s.primaryCtl := rfl
@[simp] theorem ramStore_expansionCtl (dma : Bool) (a : Addr) (v : Word) (s : State) : (ramStore dma a v s).expansionCtl = s.expansionCtl := rfl
@[simp] theorem ramStore_timer0 (dma : Bool) (a : Addr) (v : Word) (s : State) : (ramStore dma a v s).timer0 = s.timer0 := rfl
@[simp] theorem ramStore_timer1 (dma : Bool) (a : Addr) (v : Word) (s : State) : (ramStore dma a v s).timer1 = s.timer1 := rfl
@[simp] theorem ramStore_port0 (dma : Bool) (a : Addr) (v : Word) (s : State) : (ramStore dma a v s).port0 = s.port0 := rfl
@[simp] theorem ramStore_port1 (dma : Bool) (a : Addr) (v : Word) (s : State) : (ramStore dma a v s).port1 = s.port1 := rfl
@[simp] theorem ramStore_dma (dma : Bool) (a : Addr) (v : Word) (s : State) : (ramStore dma a v s).dma = s.dma := rfl
@[simp] theorem ramStore_env (dma : Bool) (a : Addr) (v : Word) (s : State) : (ramStore dma a v s).env = s.env := rfl
@[simp] theorem ramStore_freeCount (dma : Bool) (a : Addr) (v : Word) (s : State) : (ramStore dma a v s).freeCount = s.freeCount := rfl
@[simp] theorem ramStore_elapsed (dma : Bool) (a : Addr) (v : Word) (s : State) : (ramStore dma a v s).elapsed = s.elapsed := rfl
@[simp] theorem ramStore_stalled (dma : Bool) (a : Addr) (v : Word) (s : State) : (ramStore dma a v s).stalled = s.stalled := rfl
@[simp] theorem ramStore_abandon (dma : Bool) (a : Addr) (v : Word) (s : State) : (ramStore dma a v s).abandon = s.abandon := rfl
@[simp] theorem ramStore_intWindow (dma : Bool) (a : Addr) (v : Word) (s : State) : (ramStore dma a v s).intWindow = s.intWindow := rfl
@[simp] theorem ramStore_windowGie (dma : Bool) (a : Addr) (v : Word) (s : State) : (ramStore dma a v s).windowGie = s.windowGie := rfl
@[simp] theorem ramStore_ifSet (dma : Bool) (a : Addr) (v : Word) (s : State) : (ramStore dma a v s).ifSet = s.ifSet := rfl
@[simp] theorem ramStore_ifWritten (dma : Bool) (a : Addr) (v : Word) (s : State) : (ramStore dma a v s).ifWritten = s.ifWritten := rfl
@[simp] theorem ramStore_shared (dma : Bool) (a : Addr) (v : Word) (s : State) : (ramStore dma a v s).shared = s.shared := rfl
@[simp] theorem ramStore_onChip (dma : Bool) (a : Addr) (v : Word) (s : State) : (ramStore dma a v s).onChip = s.onChip := rfl
@[simp] theorem ramStore_nopRun (dma : Bool) (a : Addr) (v : Word) (s : State) : (ramStore dma a v s).nopRun = s.nopRun := rfl
@[simp] theorem ramStore_outNow (dma : Bool) (a : Addr) (v : Word) (s : State) : (ramStore dma a v s).outNow = s.outNow := rfl
@[simp] theorem ramStore_outBefore (dma : Bool) (a : Addr) (v : Word) (s : State) : (ramStore dma a v s).outBefore = s.outBefore := rfl
@[simp] theorem ramStore_trapped (dma : Bool) (a : Addr) (v : Word) (s : State) : (ramStore dma a v s).trapped = s.trapped := rfl
@[simp] theorem ramStore_loopLoad (dma : Bool) (a : Addr) (v : Word) (s : State) : (ramStore dma a v s).loopLoad = s.loopLoad := rfl
@[simp] theorem ramStore_loopOldRes (dma : Bool) (a : Addr) (v : Word) (s : State) : (ramStore dma a v s).loopOldRes = s.loopOldRes := rfl
@[simp] theorem ramStore_rcBefore (dma : Bool) (a : Addr) (v : Word) (s : State) : (ramStore dma a v s).rcBefore = s.rcBefore := rfl

/-! ## raiseFlags -/

@[simp] theorem raiseFlags_device (f : BitVec 11) (s : State) : (raiseFlags f s).device = s.device := rfl
@[simp] theorem raiseFlags_pins (f : BitVec 11) (s : State) : (raiseFlags f s).pins = s.pins := rfl
@[simp] theorem raiseFlags_r (f : BitVec 11) (s : State) : (raiseFlags f s).r = s.r := rfl
@[simp] theorem raiseFlags_ar (f : BitVec 11) (s : State) : (raiseFlags f s).ar = s.ar := rfl
@[simp] theorem raiseFlags_dp (f : BitVec 11) (s : State) : (raiseFlags f s).dp = s.dp := rfl
@[simp] theorem raiseFlags_ir0 (f : BitVec 11) (s : State) : (raiseFlags f s).ir0 = s.ir0 := rfl
@[simp] theorem raiseFlags_ir1 (f : BitVec 11) (s : State) : (raiseFlags f s).ir1 = s.ir1 := rfl
@[simp] theorem raiseFlags_bk (f : BitVec 11) (s : State) : (raiseFlags f s).bk = s.bk := rfl
@[simp] theorem raiseFlags_sp (f : BitVec 11) (s : State) : (raiseFlags f s).sp = s.sp := rfl
@[simp] theorem raiseFlags_st (f : BitVec 11) (s : State) : (raiseFlags f s).st = s.st := rfl
@[simp] theorem raiseFlags_ie (f : BitVec 11) (s : State) : (raiseFlags f s).ie = s.ie := rfl
@[simp] theorem raiseFlags_ifr (f : BitVec 11) (s : State) : (raiseFlags f s).ifr = s.ifr ||| (flagsKept f s).setWidth 32 := rfl
@[simp] theorem raiseFlags_iof (f : BitVec 11) (s : State) : (raiseFlags f s).iof = s.iof := rfl
@[simp] theorem raiseFlags_rs (f : BitVec 11) (s : State) : (raiseFlags f s).rs = s.rs := rfl
@[simp] theorem raiseFlags_re (f : BitVec 11) (s : State) : (raiseFlags f s).re = s.re := rfl
@[simp] theorem raiseFlags_rc (f : BitVec 11) (s : State) : (raiseFlags f s).rc = s.rc := rfl
@[simp] theorem raiseFlags_pc (f : BitVec 11) (s : State) : (raiseFlags f s).pc = s.pc := rfl
@[simp] theorem raiseFlags_repS (f : BitVec 11) (s : State) : (raiseFlags f s).repS = s.repS := rfl
@[simp] theorem raiseFlags_ir (f : BitVec 11) (s : State) : (raiseFlags f s).ir = s.ir := rfl
@[simp] theorem raiseFlags_delay (f : BitVec 11) (s : State) : (raiseFlags f s).delay = s.delay := rfl
@[simp] theorem raiseFlags_idle (f : BitVec 11) (s : State) : (raiseFlags f s).idle = s.idle := rfl
@[simp] theorem raiseFlags_lowPower (f : BitVec 11) (s : State) : (raiseFlags f s).lowPower = s.lowPower := rfl
@[simp] theorem raiseFlags_iack (f : BitVec 11) (s : State) : (raiseFlags f s).iack = s.iack := rfl
@[simp] theorem raiseFlags_cache (f : BitVec 11) (s : State) : (raiseFlags f s).cache = s.cache := rfl
@[simp] theorem raiseFlags_lockWait (f : BitVec 11) (s : State) : (raiseFlags f s).lockWait = s.lockWait := rfl
@[simp] theorem raiseFlags_lockReady (f : BitVec 11) (s : State) : (raiseFlags f s).lockReady = s.lockReady := rfl
@[simp] theorem raiseFlags_xf0Next (f : BitVec 11) (s : State) : (raiseFlags f s).xf0Next = s.xf0Next := rfl
@[simp] theorem raiseFlags_bank (f : BitVec 11) (s : State) : (raiseFlags f s).bank = s.bank := rfl
@[simp] theorem raiseFlags_primary (f : BitVec 11) (s : State) : (raiseFlags f s).primary = s.primary := rfl
@[simp] theorem raiseFlags_expansion (f : BitVec 11) (s : State) : (raiseFlags f s).expansion = s.expansion := rfl
@[simp] theorem raiseFlags_primaryWrote (f : BitVec 11) (s : State) : (raiseFlags f s).primaryWrote = s.primaryWrote := rfl
@[simp] theorem raiseFlags_expansionWrote (f : BitVec 11) (s : State) : (raiseFlags f s).expansionWrote = s.expansionWrote := rfl
@[simp] theorem raiseFlags_lineAddr (f : BitVec 11) (s : State) : (raiseFlags f s).lineAddr = s.lineAddr := rfl
@[simp] theorem raiseFlags_sync0 (f : BitVec 11) (s : State) : (raiseFlags f s).sync0 = s.sync0 := rfl
@[simp] theorem raiseFlags_sync1 (f : BitVec 11) (s : State) : (raiseFlags f s).sync1 = s.sync1 := rfl
@[simp] theorem raiseFlags_sync2 (f : BitVec 11) (s : State) : (raiseFlags f s).sync2 = s.sync2 := rfl
@[simp] theorem raiseFlags_sync3 (f : BitVec 11) (s : State) : (raiseFlags f s).sync3 = s.sync3 := rfl
@[simp] theorem raiseFlags_resetLow (f : BitVec 11) (s : State) : (raiseFlags f s).resetLow = s.resetLow := rfl
@[simp] theorem raiseFlags_booting (f : BitVec 11) (s : State) : (raiseFlags f s).booting = s.booting := rfl
@[simp] theorem raiseFlags_mem (f : BitVec 11) (s : State) : (raiseFlags f s).mem = s.mem := rfl
@[simp] theorem raiseFlags_rom (f : BitVec 11) (s : State) : (raiseFlags f s).rom = s.rom := rfl
@[simp] theorem raiseFlags_primaryCtl (f : BitVec 11) (s : State) : (raiseFlags f s).primaryCtl = s.primaryCtl := rfl
@[simp] theorem raiseFlags_expansionCtl (f : BitVec 11) (s : State) : (raiseFlags f s).expansionCtl = s.expansionCtl := rfl
@[simp] theorem raiseFlags_timer0 (f : BitVec 11) (s : State) : (raiseFlags f s).timer0 = s.timer0 := rfl
@[simp] theorem raiseFlags_timer1 (f : BitVec 11) (s : State) : (raiseFlags f s).timer1 = s.timer1 := rfl
@[simp] theorem raiseFlags_port0 (f : BitVec 11) (s : State) : (raiseFlags f s).port0 = s.port0 := rfl
@[simp] theorem raiseFlags_port1 (f : BitVec 11) (s : State) : (raiseFlags f s).port1 = s.port1 := rfl
@[simp] theorem raiseFlags_dma (f : BitVec 11) (s : State) : (raiseFlags f s).dma = s.dma := rfl
@[simp] theorem raiseFlags_env (f : BitVec 11) (s : State) : (raiseFlags f s).env = s.env := rfl
@[simp] theorem raiseFlags_freeCount (f : BitVec 11) (s : State) : (raiseFlags f s).freeCount = s.freeCount := rfl
@[simp] theorem raiseFlags_elapsed (f : BitVec 11) (s : State) : (raiseFlags f s).elapsed = s.elapsed := rfl
@[simp] theorem raiseFlags_stalled (f : BitVec 11) (s : State) : (raiseFlags f s).stalled = s.stalled := rfl
@[simp] theorem raiseFlags_abandon (f : BitVec 11) (s : State) : (raiseFlags f s).abandon = s.abandon := rfl
@[simp] theorem raiseFlags_intWindow (f : BitVec 11) (s : State) : (raiseFlags f s).intWindow = s.intWindow := rfl
@[simp] theorem raiseFlags_windowGie (f : BitVec 11) (s : State) : (raiseFlags f s).windowGie = s.windowGie := rfl
@[simp] theorem raiseFlags_ifSet (f : BitVec 11) (s : State) : (raiseFlags f s).ifSet = s.ifSet ||| flagsKept f s := rfl
@[simp] theorem raiseFlags_ifWritten (f : BitVec 11) (s : State) : (raiseFlags f s).ifWritten = s.ifWritten := rfl
@[simp] theorem raiseFlags_shared (f : BitVec 11) (s : State) : (raiseFlags f s).shared = s.shared := rfl
@[simp] theorem raiseFlags_onChip (f : BitVec 11) (s : State) : (raiseFlags f s).onChip = s.onChip := rfl
@[simp] theorem raiseFlags_nopRun (f : BitVec 11) (s : State) : (raiseFlags f s).nopRun = s.nopRun := rfl
@[simp] theorem raiseFlags_recentStores (f : BitVec 11) (s : State) : (raiseFlags f s).recentStores = s.recentStores := rfl
@[simp] theorem raiseFlags_outNow (f : BitVec 11) (s : State) : (raiseFlags f s).outNow = s.outNow := rfl
@[simp] theorem raiseFlags_outBefore (f : BitVec 11) (s : State) : (raiseFlags f s).outBefore = s.outBefore := rfl
@[simp] theorem raiseFlags_trapped (f : BitVec 11) (s : State) : (raiseFlags f s).trapped = s.trapped := rfl
@[simp] theorem raiseFlags_loopLoad (f : BitVec 11) (s : State) : (raiseFlags f s).loopLoad = s.loopLoad := rfl
@[simp] theorem raiseFlags_loopOldRes (f : BitVec 11) (s : State) : (raiseFlags f s).loopOldRes = s.loopOldRes := rfl
@[simp] theorem raiseFlags_rcBefore (f : BitVec 11) (s : State) : (raiseFlags f s).rcBefore = s.rcBefore := rfl

/-! ## setStat -/

@[simp] theorem setStat_device (v : BitVec 2) (s : State) : (setStat v s).device = s.device := rfl
@[simp] theorem setStat_pins (v : BitVec 2) (s : State) : (setStat v s).pins = s.pins := rfl
@[simp] theorem setStat_r (v : BitVec 2) (s : State) : (setStat v s).r = s.r := rfl
@[simp] theorem setStat_ar (v : BitVec 2) (s : State) : (setStat v s).ar = s.ar := rfl
@[simp] theorem setStat_dp (v : BitVec 2) (s : State) : (setStat v s).dp = s.dp := rfl
@[simp] theorem setStat_ir0 (v : BitVec 2) (s : State) : (setStat v s).ir0 = s.ir0 := rfl
@[simp] theorem setStat_ir1 (v : BitVec 2) (s : State) : (setStat v s).ir1 = s.ir1 := rfl
@[simp] theorem setStat_bk (v : BitVec 2) (s : State) : (setStat v s).bk = s.bk := rfl
@[simp] theorem setStat_sp (v : BitVec 2) (s : State) : (setStat v s).sp = s.sp := rfl
@[simp] theorem setStat_st (v : BitVec 2) (s : State) : (setStat v s).st = s.st := rfl
@[simp] theorem setStat_ie (v : BitVec 2) (s : State) : (setStat v s).ie = s.ie := rfl
@[simp] theorem setStat_ifr (v : BitVec 2) (s : State) : (setStat v s).ifr = s.ifr := rfl
@[simp] theorem setStat_iof (v : BitVec 2) (s : State) : (setStat v s).iof = s.iof := rfl
@[simp] theorem setStat_rs (v : BitVec 2) (s : State) : (setStat v s).rs = s.rs := rfl
@[simp] theorem setStat_re (v : BitVec 2) (s : State) : (setStat v s).re = s.re := rfl
@[simp] theorem setStat_rc (v : BitVec 2) (s : State) : (setStat v s).rc = s.rc := rfl
@[simp] theorem setStat_pc (v : BitVec 2) (s : State) : (setStat v s).pc = s.pc := rfl
@[simp] theorem setStat_repS (v : BitVec 2) (s : State) : (setStat v s).repS = s.repS := rfl
@[simp] theorem setStat_ir (v : BitVec 2) (s : State) : (setStat v s).ir = s.ir := rfl
@[simp] theorem setStat_delay (v : BitVec 2) (s : State) : (setStat v s).delay = s.delay := rfl
@[simp] theorem setStat_idle (v : BitVec 2) (s : State) : (setStat v s).idle = s.idle := rfl
@[simp] theorem setStat_lowPower (v : BitVec 2) (s : State) : (setStat v s).lowPower = s.lowPower := rfl
@[simp] theorem setStat_iack (v : BitVec 2) (s : State) : (setStat v s).iack = s.iack := rfl
@[simp] theorem setStat_cache (v : BitVec 2) (s : State) : (setStat v s).cache = s.cache := rfl
@[simp] theorem setStat_lockWait (v : BitVec 2) (s : State) : (setStat v s).lockWait = s.lockWait := rfl
@[simp] theorem setStat_lockReady (v : BitVec 2) (s : State) : (setStat v s).lockReady = s.lockReady := rfl
@[simp] theorem setStat_xf0Next (v : BitVec 2) (s : State) : (setStat v s).xf0Next = s.xf0Next := rfl
@[simp] theorem setStat_bank (v : BitVec 2) (s : State) : (setStat v s).bank = s.bank := rfl
@[simp] theorem setStat_primary (v : BitVec 2) (s : State) : (setStat v s).primary = s.primary := rfl
@[simp] theorem setStat_expansion (v : BitVec 2) (s : State) : (setStat v s).expansion = s.expansion := rfl
@[simp] theorem setStat_primaryWrote (v : BitVec 2) (s : State) : (setStat v s).primaryWrote = s.primaryWrote := rfl
@[simp] theorem setStat_expansionWrote (v : BitVec 2) (s : State) : (setStat v s).expansionWrote = s.expansionWrote := rfl
@[simp] theorem setStat_lineAddr (v : BitVec 2) (s : State) : (setStat v s).lineAddr = s.lineAddr := rfl
@[simp] theorem setStat_sync0 (v : BitVec 2) (s : State) : (setStat v s).sync0 = s.sync0 := rfl
@[simp] theorem setStat_sync1 (v : BitVec 2) (s : State) : (setStat v s).sync1 = s.sync1 := rfl
@[simp] theorem setStat_sync2 (v : BitVec 2) (s : State) : (setStat v s).sync2 = s.sync2 := rfl
@[simp] theorem setStat_sync3 (v : BitVec 2) (s : State) : (setStat v s).sync3 = s.sync3 := rfl
@[simp] theorem setStat_resetLow (v : BitVec 2) (s : State) : (setStat v s).resetLow = s.resetLow := rfl
@[simp] theorem setStat_booting (v : BitVec 2) (s : State) : (setStat v s).booting = s.booting := rfl
@[simp] theorem setStat_mem (v : BitVec 2) (s : State) : (setStat v s).mem = s.mem := rfl
@[simp] theorem setStat_rom (v : BitVec 2) (s : State) : (setStat v s).rom = s.rom := rfl
@[simp] theorem setStat_primaryCtl (v : BitVec 2) (s : State) : (setStat v s).primaryCtl = s.primaryCtl := rfl
@[simp] theorem setStat_expansionCtl (v : BitVec 2) (s : State) : (setStat v s).expansionCtl = s.expansionCtl := rfl
@[simp] theorem setStat_timer0 (v : BitVec 2) (s : State) : (setStat v s).timer0 = s.timer0 := rfl
@[simp] theorem setStat_timer1 (v : BitVec 2) (s : State) : (setStat v s).timer1 = s.timer1 := rfl
@[simp] theorem setStat_port0 (v : BitVec 2) (s : State) : (setStat v s).port0 = s.port0 := rfl
@[simp] theorem setStat_port1 (v : BitVec 2) (s : State) : (setStat v s).port1 = s.port1 := rfl
@[simp] theorem setStat_env (v : BitVec 2) (s : State) : (setStat v s).env = s.env := rfl
@[simp] theorem setStat_freeCount (v : BitVec 2) (s : State) : (setStat v s).freeCount = s.freeCount := rfl
@[simp] theorem setStat_elapsed (v : BitVec 2) (s : State) : (setStat v s).elapsed = s.elapsed := rfl
@[simp] theorem setStat_stalled (v : BitVec 2) (s : State) : (setStat v s).stalled = s.stalled := rfl
@[simp] theorem setStat_abandon (v : BitVec 2) (s : State) : (setStat v s).abandon = s.abandon := rfl
@[simp] theorem setStat_intWindow (v : BitVec 2) (s : State) : (setStat v s).intWindow = s.intWindow := rfl
@[simp] theorem setStat_windowGie (v : BitVec 2) (s : State) : (setStat v s).windowGie = s.windowGie := rfl
@[simp] theorem setStat_ifSet (v : BitVec 2) (s : State) : (setStat v s).ifSet = s.ifSet := rfl
@[simp] theorem setStat_ifWritten (v : BitVec 2) (s : State) : (setStat v s).ifWritten = s.ifWritten := rfl
@[simp] theorem setStat_shared (v : BitVec 2) (s : State) : (setStat v s).shared = s.shared := rfl
@[simp] theorem setStat_onChip (v : BitVec 2) (s : State) : (setStat v s).onChip = s.onChip := rfl
@[simp] theorem setStat_nopRun (v : BitVec 2) (s : State) : (setStat v s).nopRun = s.nopRun := rfl
@[simp] theorem setStat_recentStores (v : BitVec 2) (s : State) : (setStat v s).recentStores = s.recentStores := rfl
@[simp] theorem setStat_outNow (v : BitVec 2) (s : State) : (setStat v s).outNow = s.outNow := rfl
@[simp] theorem setStat_outBefore (v : BitVec 2) (s : State) : (setStat v s).outBefore = s.outBefore := rfl
@[simp] theorem setStat_trapped (v : BitVec 2) (s : State) : (setStat v s).trapped = s.trapped := rfl
@[simp] theorem setStat_loopLoad (v : BitVec 2) (s : State) : (setStat v s).loopLoad = s.loopLoad := rfl
@[simp] theorem setStat_loopOldRes (v : BitVec 2) (s : State) : (setStat v s).loopOldRes = s.loopOldRes := rfl
@[simp] theorem setStat_rcBefore (v : BitVec 2) (s : State) : (setStat v s).rcBefore = s.rcBefore := rfl

/-! ## endCycle -/

@[simp] theorem endCycle_device (s : State) : (endCycle s).device = s.device := rfl
@[simp] theorem endCycle_pins (s : State) : (endCycle s).pins = s.pins := rfl
@[simp] theorem endCycle_r (s : State) : (endCycle s).r = s.r := rfl
@[simp] theorem endCycle_ar (s : State) : (endCycle s).ar = s.ar := rfl
@[simp] theorem endCycle_dp (s : State) : (endCycle s).dp = s.dp := rfl
@[simp] theorem endCycle_ir0 (s : State) : (endCycle s).ir0 = s.ir0 := rfl
@[simp] theorem endCycle_ir1 (s : State) : (endCycle s).ir1 = s.ir1 := rfl
@[simp] theorem endCycle_bk (s : State) : (endCycle s).bk = s.bk := rfl
@[simp] theorem endCycle_sp (s : State) : (endCycle s).sp = s.sp := rfl
@[simp] theorem endCycle_st (s : State) : (endCycle s).st = s.st := rfl
@[simp] theorem endCycle_ie (s : State) : (endCycle s).ie = s.ie := rfl
@[simp] theorem endCycle_ifr (s : State) : (endCycle s).ifr = s.ifr := rfl
@[simp] theorem endCycle_iof (s : State) : (endCycle s).iof = s.iof := rfl
@[simp] theorem endCycle_rs (s : State) : (endCycle s).rs = s.rs := rfl
@[simp] theorem endCycle_re (s : State) : (endCycle s).re = s.re := rfl
@[simp] theorem endCycle_rc (s : State) : (endCycle s).rc = s.rc := rfl
@[simp] theorem endCycle_pc (s : State) : (endCycle s).pc = s.pc := rfl
@[simp] theorem endCycle_repS (s : State) : (endCycle s).repS = s.repS := rfl
@[simp] theorem endCycle_ir (s : State) : (endCycle s).ir = s.ir := rfl
@[simp] theorem endCycle_delay (s : State) : (endCycle s).delay = s.delay := rfl
@[simp] theorem endCycle_idle (s : State) : (endCycle s).idle = s.idle := rfl
@[simp] theorem endCycle_lowPower (s : State) : (endCycle s).lowPower = s.lowPower := rfl
@[simp] theorem endCycle_iack (s : State) : (endCycle s).iack = s.iack.bind (·.later) := rfl
@[simp] theorem endCycle_cache (s : State) : (endCycle s).cache = s.cache := rfl
@[simp] theorem endCycle_lockWait (s : State) : (endCycle s).lockWait = s.lockWait := rfl
@[simp] theorem endCycle_lockReady (s : State) : (endCycle s).lockReady = s.lockReady := rfl
@[simp] theorem endCycle_xf0Next (s : State) : (endCycle s).xf0Next = s.xf0Next.drop 1 := rfl
@[simp] theorem endCycle_bank (s : State) : (endCycle s).bank = s.bank := rfl
@[simp] theorem endCycle_primary (s : State) : (endCycle s).primary = ageCycles s.primary := rfl
@[simp] theorem endCycle_expansion (s : State) : (endCycle s).expansion = ageCycles s.expansion := rfl
@[simp] theorem endCycle_primaryWrote (s : State) : (endCycle s).primaryWrote = writeEnds s s.primary := rfl
@[simp] theorem endCycle_expansionWrote (s : State) : (endCycle s).expansionWrote = writeEnds s s.expansion := rfl
@[simp] theorem endCycle_lineAddr (s : State) : (endCycle s).lineAddr = (addressOn s.primary).map (·.addr) := rfl
@[simp] theorem endCycle_sync0 (s : State) : (endCycle s).sync0 = s.sync0 := rfl
@[simp] theorem endCycle_sync1 (s : State) : (endCycle s).sync1 = s.sync1 := rfl
@[simp] theorem endCycle_sync2 (s : State) : (endCycle s).sync2 = s.sync2 := rfl
@[simp] theorem endCycle_sync3 (s : State) : (endCycle s).sync3 = s.sync3 := rfl
@[simp] theorem endCycle_resetLow (s : State) : (endCycle s).resetLow = s.resetLow := rfl
@[simp] theorem endCycle_booting (s : State) : (endCycle s).booting = s.booting := rfl
@[simp] theorem endCycle_mem (s : State) : (endCycle s).mem = s.mem := rfl
@[simp] theorem endCycle_rom (s : State) : (endCycle s).rom = s.rom := rfl
@[simp] theorem endCycle_primaryCtl (s : State) : (endCycle s).primaryCtl = s.primaryCtl := rfl
@[simp] theorem endCycle_expansionCtl (s : State) : (endCycle s).expansionCtl = s.expansionCtl := rfl
@[simp] theorem endCycle_timer0 (s : State) : (endCycle s).timer0 = s.timer0 := rfl
@[simp] theorem endCycle_timer1 (s : State) : (endCycle s).timer1 = s.timer1 := rfl
@[simp] theorem endCycle_port0 (s : State) : (endCycle s).port0 = portEnded s.port0 := rfl
@[simp] theorem endCycle_port1 (s : State) : (endCycle s).port1 = portEnded s.port1 := rfl
@[simp] theorem endCycle_dma (s : State) : (endCycle s).dma = s.dma := rfl
@[simp] theorem endCycle_env (s : State) : (endCycle s).env = s.env := rfl
@[simp] theorem endCycle_freeCount (s : State) : (endCycle s).freeCount = s.freeCount := rfl
@[simp] theorem endCycle_elapsed (s : State) : (endCycle s).elapsed = s.elapsed := rfl
@[simp] theorem endCycle_stalled (s : State) : (endCycle s).stalled = s.stalled := rfl
@[simp] theorem endCycle_abandon (s : State) : (endCycle s).abandon = s.abandon := rfl
@[simp] theorem endCycle_intWindow (s : State) : (endCycle s).intWindow = s.intWindow := rfl
@[simp] theorem endCycle_windowGie (s : State) : (endCycle s).windowGie = s.windowGie := rfl
@[simp] theorem endCycle_ifSet (s : State) : (endCycle s).ifSet = s.ifSet := rfl
@[simp] theorem endCycle_ifWritten (s : State) : (endCycle s).ifWritten = s.ifWritten := rfl
@[simp] theorem endCycle_shared (s : State) : (endCycle s).shared = s.shared := rfl
@[simp] theorem endCycle_onChip (s : State) : (endCycle s).onChip = s.onChip.filterMap (·.later) := rfl
@[simp] theorem endCycle_nopRun (s : State) : (endCycle s).nopRun = s.nopRun := rfl
@[simp] theorem endCycle_recentStores (s : State) : (endCycle s).recentStores = s.recentStores := rfl
@[simp] theorem endCycle_outNow (s : State) : (endCycle s).outNow = s.outNow := rfl
@[simp] theorem endCycle_outBefore (s : State) : (endCycle s).outBefore = s.outBefore := rfl
@[simp] theorem endCycle_trapped (s : State) : (endCycle s).trapped = s.trapped := rfl
@[simp] theorem endCycle_loopLoad (s : State) : (endCycle s).loopLoad = s.loopLoad := rfl
@[simp] theorem endCycle_loopOldRes (s : State) : (endCycle s).loopOldRes = s.loopOldRes := rfl
@[simp] theorem endCycle_rcBefore (s : State) : (endCycle s).rcBefore = s.rcBefore := rfl

/-! ## flush -/

@[simp] theorem flush_device (s : State) : (flush s).device = s.device := rfl
@[simp] theorem flush_pins (s : State) : (flush s).pins = s.pins := rfl
@[simp] theorem flush_r (s : State) : (flush s).r = s.r := rfl
@[simp] theorem flush_ar (s : State) : (flush s).ar = s.ar := rfl
@[simp] theorem flush_dp (s : State) : (flush s).dp = s.dp := rfl
@[simp] theorem flush_ir0 (s : State) : (flush s).ir0 = s.ir0 := rfl
@[simp] theorem flush_ir1 (s : State) : (flush s).ir1 = s.ir1 := rfl
@[simp] theorem flush_bk (s : State) : (flush s).bk = s.bk := rfl
@[simp] theorem flush_sp (s : State) : (flush s).sp = s.sp := rfl
@[simp] theorem flush_st (s : State) : (flush s).st = s.st := rfl
@[simp] theorem flush_ie (s : State) : (flush s).ie = s.ie := rfl
@[simp] theorem flush_ifr (s : State) : (flush s).ifr = s.ifr := rfl
@[simp] theorem flush_iof (s : State) : (flush s).iof = s.iof := rfl
@[simp] theorem flush_rs (s : State) : (flush s).rs = s.rs := rfl
@[simp] theorem flush_re (s : State) : (flush s).re = s.re := rfl
@[simp] theorem flush_rc (s : State) : (flush s).rc = s.rc := rfl
@[simp] theorem flush_pc (s : State) : (flush s).pc = s.pc := rfl
@[simp] theorem flush_repS (s : State) : (flush s).repS = s.repS := rfl
@[simp] theorem flush_ir (s : State) : (flush s).ir = s.ir := rfl
@[simp] theorem flush_delay (s : State) : (flush s).delay = s.delay := rfl
@[simp] theorem flush_idle (s : State) : (flush s).idle = s.idle := rfl
@[simp] theorem flush_lowPower (s : State) : (flush s).lowPower = s.lowPower := rfl
@[simp] theorem flush_iack (s : State) : (flush s).iack = s.iack := rfl
@[simp] theorem flush_cache (s : State) : (flush s).cache = s.cache := rfl
@[simp] theorem flush_lockWait (s : State) : (flush s).lockWait = s.lockWait := rfl
@[simp] theorem flush_lockReady (s : State) : (flush s).lockReady = s.lockReady := rfl
@[simp] theorem flush_xf0Next (s : State) : (flush s).xf0Next = s.xf0Next := rfl
@[simp] theorem flush_bank (s : State) : (flush s).bank = s.bank := rfl
@[simp] theorem flush_primary (s : State) : (flush s).primary = s.primary := rfl
@[simp] theorem flush_expansion (s : State) : (flush s).expansion = s.expansion := rfl
@[simp] theorem flush_primaryWrote (s : State) : (flush s).primaryWrote = s.primaryWrote := rfl
@[simp] theorem flush_expansionWrote (s : State) : (flush s).expansionWrote = s.expansionWrote := rfl
@[simp] theorem flush_lineAddr (s : State) : (flush s).lineAddr = s.lineAddr := rfl
@[simp] theorem flush_sync0 (s : State) : (flush s).sync0 = s.sync0 := rfl
@[simp] theorem flush_sync1 (s : State) : (flush s).sync1 = s.sync1 := rfl
@[simp] theorem flush_sync2 (s : State) : (flush s).sync2 = s.sync2 := rfl
@[simp] theorem flush_sync3 (s : State) : (flush s).sync3 = s.sync3 := rfl
@[simp] theorem flush_resetLow (s : State) : (flush s).resetLow = s.resetLow := rfl
@[simp] theorem flush_booting (s : State) : (flush s).booting = s.booting := rfl
@[simp] theorem flush_mem (s : State) : (flush s).mem = s.mem := rfl
@[simp] theorem flush_rom (s : State) : (flush s).rom = s.rom := rfl
@[simp] theorem flush_primaryCtl (s : State) : (flush s).primaryCtl = s.primaryCtl := rfl
@[simp] theorem flush_expansionCtl (s : State) : (flush s).expansionCtl = s.expansionCtl := rfl
@[simp] theorem flush_timer0 (s : State) : (flush s).timer0 = s.timer0 := rfl
@[simp] theorem flush_timer1 (s : State) : (flush s).timer1 = s.timer1 := rfl
@[simp] theorem flush_port0 (s : State) : (flush s).port0 = s.port0 := rfl
@[simp] theorem flush_port1 (s : State) : (flush s).port1 = s.port1 := rfl
@[simp] theorem flush_dma (s : State) : (flush s).dma = s.dma := rfl
@[simp] theorem flush_env (s : State) : (flush s).env = s.env := rfl
@[simp] theorem flush_freeCount (s : State) : (flush s).freeCount = s.freeCount := rfl
@[simp] theorem flush_elapsed (s : State) : (flush s).elapsed = s.elapsed := rfl
@[simp] theorem flush_stalled (s : State) : (flush s).stalled = s.stalled := rfl
@[simp] theorem flush_abandon (s : State) : (flush s).abandon = s.abandon := rfl
@[simp] theorem flush_intWindow (s : State) : (flush s).intWindow = s.intWindow := rfl
@[simp] theorem flush_windowGie (s : State) : (flush s).windowGie = s.windowGie := rfl
@[simp] theorem flush_ifSet (s : State) : (flush s).ifSet = s.ifSet := rfl
@[simp] theorem flush_ifWritten (s : State) : (flush s).ifWritten = s.ifWritten := rfl
@[simp] theorem flush_shared (s : State) : (flush s).shared = s.shared := rfl
@[simp] theorem flush_onChip (s : State) : (flush s).onChip = s.onChip := rfl
@[simp] theorem flush_nopRun (s : State) : (flush s).nopRun = s.nopRun := rfl
@[simp] theorem flush_recentStores (s : State) : (flush s).recentStores = [] := rfl
@[simp] theorem flush_outNow (s : State) : (flush s).outNow = s.outNow := rfl
@[simp] theorem flush_outBefore (s : State) : (flush s).outBefore = s.outBefore := rfl
@[simp] theorem flush_trapped (s : State) : (flush s).trapped = s.trapped := rfl
@[simp] theorem flush_loopLoad (s : State) : (flush s).loopLoad = 0 := rfl
@[simp] theorem flush_loopOldRes (s : State) : (flush s).loopOldRes = s.loopOldRes := rfl
@[simp] theorem flush_rcBefore (s : State) : (flush s).rcBefore = s.rcBefore := rfl

/-! ## waiting -/

@[simp] theorem waiting_device (s : State) : (waiting s).device = s.device := rfl
@[simp] theorem waiting_pins (s : State) : (waiting s).pins = s.pins := rfl
@[simp] theorem waiting_r (s : State) : (waiting s).r = s.r := rfl
@[simp] theorem waiting_ar (s : State) : (waiting s).ar = s.ar := rfl
@[simp] theorem waiting_dp (s : State) : (waiting s).dp = s.dp := rfl
@[simp] theorem waiting_ir0 (s : State) : (waiting s).ir0 = s.ir0 := rfl
@[simp] theorem waiting_ir1 (s : State) : (waiting s).ir1 = s.ir1 := rfl
@[simp] theorem waiting_bk (s : State) : (waiting s).bk = s.bk := rfl
@[simp] theorem waiting_sp (s : State) : (waiting s).sp = s.sp := rfl
@[simp] theorem waiting_st (s : State) : (waiting s).st = s.st := rfl
@[simp] theorem waiting_ie (s : State) : (waiting s).ie = s.ie := rfl
@[simp] theorem waiting_ifr (s : State) : (waiting s).ifr = s.ifr := rfl
@[simp] theorem waiting_iof (s : State) : (waiting s).iof = s.iof := rfl
@[simp] theorem waiting_rs (s : State) : (waiting s).rs = s.rs := rfl
@[simp] theorem waiting_re (s : State) : (waiting s).re = s.re := rfl
@[simp] theorem waiting_rc (s : State) : (waiting s).rc = s.rc := rfl
@[simp] theorem waiting_pc (s : State) : (waiting s).pc = s.pc := rfl
@[simp] theorem waiting_repS (s : State) : (waiting s).repS = s.repS := rfl
@[simp] theorem waiting_ir (s : State) : (waiting s).ir = s.ir := rfl
@[simp] theorem waiting_delay (s : State) : (waiting s).delay = s.delay := rfl
@[simp] theorem waiting_idle (s : State) : (waiting s).idle = s.idle := rfl
@[simp] theorem waiting_lowPower (s : State) : (waiting s).lowPower = s.lowPower := rfl
@[simp] theorem waiting_iack (s : State) : (waiting s).iack = s.iack := rfl
@[simp] theorem waiting_cache (s : State) : (waiting s).cache = s.cache := rfl
@[simp] theorem waiting_lockWait (s : State) : (waiting s).lockWait = s.lockWait := rfl
@[simp] theorem waiting_lockReady (s : State) : (waiting s).lockReady = s.lockReady := rfl
@[simp] theorem waiting_xf0Next (s : State) : (waiting s).xf0Next = s.xf0Next := rfl
@[simp] theorem waiting_bank (s : State) : (waiting s).bank = s.bank := rfl
@[simp] theorem waiting_primary (s : State) : (waiting s).primary = s.primary := rfl
@[simp] theorem waiting_expansion (s : State) : (waiting s).expansion = s.expansion := rfl
@[simp] theorem waiting_primaryWrote (s : State) : (waiting s).primaryWrote = s.primaryWrote := rfl
@[simp] theorem waiting_expansionWrote (s : State) : (waiting s).expansionWrote = s.expansionWrote := rfl
@[simp] theorem waiting_lineAddr (s : State) : (waiting s).lineAddr = s.lineAddr := rfl
@[simp] theorem waiting_sync0 (s : State) : (waiting s).sync0 = s.sync0 := rfl
@[simp] theorem waiting_sync1 (s : State) : (waiting s).sync1 = s.sync1 := rfl
@[simp] theorem waiting_sync2 (s : State) : (waiting s).sync2 = s.sync2 := rfl
@[simp] theorem waiting_sync3 (s : State) : (waiting s).sync3 = s.sync3 := rfl
@[simp] theorem waiting_resetLow (s : State) : (waiting s).resetLow = s.resetLow := rfl
@[simp] theorem waiting_booting (s : State) : (waiting s).booting = s.booting := rfl
@[simp] theorem waiting_mem (s : State) : (waiting s).mem = s.mem := rfl
@[simp] theorem waiting_rom (s : State) : (waiting s).rom = s.rom := rfl
@[simp] theorem waiting_primaryCtl (s : State) : (waiting s).primaryCtl = s.primaryCtl := rfl
@[simp] theorem waiting_expansionCtl (s : State) : (waiting s).expansionCtl = s.expansionCtl := rfl
@[simp] theorem waiting_timer0 (s : State) : (waiting s).timer0 = s.timer0 := rfl
@[simp] theorem waiting_timer1 (s : State) : (waiting s).timer1 = s.timer1 := rfl
@[simp] theorem waiting_port0 (s : State) : (waiting s).port0 = s.port0 := rfl
@[simp] theorem waiting_port1 (s : State) : (waiting s).port1 = s.port1 := rfl
@[simp] theorem waiting_dma (s : State) : (waiting s).dma = s.dma := rfl
@[simp] theorem waiting_freeCount (s : State) : (waiting s).freeCount = s.freeCount + freeStride := rfl
@[simp] theorem waiting_elapsed (s : State) : (waiting s).elapsed = s.elapsed + 1 := rfl
@[simp] theorem waiting_stalled (s : State) : (waiting s).stalled = s.stalled := rfl
@[simp] theorem waiting_abandon (s : State) : (waiting s).abandon = false := rfl
@[simp] theorem waiting_intWindow (s : State) : (waiting s).intWindow = s.intWindow := rfl
@[simp] theorem waiting_windowGie (s : State) : (waiting s).windowGie = s.windowGie := rfl
@[simp] theorem waiting_ifSet (s : State) : (waiting s).ifSet = s.ifSet := rfl
@[simp] theorem waiting_ifWritten (s : State) : (waiting s).ifWritten = s.ifWritten := rfl
@[simp] theorem waiting_shared (s : State) : (waiting s).shared = s.shared := rfl
@[simp] theorem waiting_onChip (s : State) : (waiting s).onChip = s.onChip := rfl
@[simp] theorem waiting_nopRun (s : State) : (waiting s).nopRun = s.nopRun := rfl
@[simp] theorem waiting_recentStores (s : State) : (waiting s).recentStores = s.recentStores := rfl
@[simp] theorem waiting_outNow (s : State) : (waiting s).outNow = s.outNow := rfl
@[simp] theorem waiting_outBefore (s : State) : (waiting s).outBefore = s.outBefore := rfl
@[simp] theorem waiting_trapped (s : State) : (waiting s).trapped = s.trapped := rfl
@[simp] theorem waiting_loopLoad (s : State) : (waiting s).loopLoad = s.loopLoad := rfl
@[simp] theorem waiting_loopOldRes (s : State) : (waiting s).loopOldRes = s.loopOldRes := rfl
@[simp] theorem waiting_rcBefore (s : State) : (waiting s).rcBefore = s.rcBefore := rfl

/-! ## idleCycle -/

@[simp] theorem idleCycle_device (s : State) : (idleCycle s).device = s.device := rfl
@[simp] theorem idleCycle_pins (s : State) : (idleCycle s).pins = s.pins := rfl
@[simp] theorem idleCycle_r (s : State) : (idleCycle s).r = s.r := rfl
@[simp] theorem idleCycle_ar (s : State) : (idleCycle s).ar = s.ar := rfl
@[simp] theorem idleCycle_dp (s : State) : (idleCycle s).dp = s.dp := rfl
@[simp] theorem idleCycle_ir0 (s : State) : (idleCycle s).ir0 = s.ir0 := rfl
@[simp] theorem idleCycle_ir1 (s : State) : (idleCycle s).ir1 = s.ir1 := rfl
@[simp] theorem idleCycle_bk (s : State) : (idleCycle s).bk = s.bk := rfl
@[simp] theorem idleCycle_sp (s : State) : (idleCycle s).sp = s.sp := rfl
@[simp] theorem idleCycle_st (s : State) : (idleCycle s).st = s.st := rfl
@[simp] theorem idleCycle_ie (s : State) : (idleCycle s).ie = s.ie := rfl
@[simp] theorem idleCycle_ifr (s : State) : (idleCycle s).ifr = s.ifr := rfl
@[simp] theorem idleCycle_iof (s : State) : (idleCycle s).iof = s.iof := rfl
@[simp] theorem idleCycle_rs (s : State) : (idleCycle s).rs = s.rs := rfl
@[simp] theorem idleCycle_re (s : State) : (idleCycle s).re = s.re := rfl
@[simp] theorem idleCycle_rc (s : State) : (idleCycle s).rc = s.rc := rfl
@[simp] theorem idleCycle_pc (s : State) : (idleCycle s).pc = s.pc := rfl
@[simp] theorem idleCycle_repS (s : State) : (idleCycle s).repS = s.repS := rfl
@[simp] theorem idleCycle_ir (s : State) : (idleCycle s).ir = s.ir := rfl
@[simp] theorem idleCycle_delay (s : State) : (idleCycle s).delay = s.delay := rfl
@[simp] theorem idleCycle_idle (s : State) : (idleCycle s).idle = s.idle := rfl
@[simp] theorem idleCycle_lowPower (s : State) : (idleCycle s).lowPower = s.lowPower := rfl
@[simp] theorem idleCycle_iack (s : State) : (idleCycle s).iack = s.iack := rfl
@[simp] theorem idleCycle_cache (s : State) : (idleCycle s).cache = s.cache := rfl
@[simp] theorem idleCycle_lockWait (s : State) : (idleCycle s).lockWait = s.lockWait := rfl
@[simp] theorem idleCycle_lockReady (s : State) : (idleCycle s).lockReady = s.lockReady := rfl
@[simp] theorem idleCycle_xf0Next (s : State) : (idleCycle s).xf0Next = s.xf0Next := rfl
@[simp] theorem idleCycle_bank (s : State) : (idleCycle s).bank = s.bank := rfl
@[simp] theorem idleCycle_primary (s : State) : (idleCycle s).primary = s.primary := rfl
@[simp] theorem idleCycle_expansion (s : State) : (idleCycle s).expansion = s.expansion := rfl
@[simp] theorem idleCycle_primaryWrote (s : State) : (idleCycle s).primaryWrote = s.primaryWrote := rfl
@[simp] theorem idleCycle_expansionWrote (s : State) : (idleCycle s).expansionWrote = s.expansionWrote := rfl
@[simp] theorem idleCycle_lineAddr (s : State) : (idleCycle s).lineAddr = s.lineAddr := rfl
@[simp] theorem idleCycle_sync0 (s : State) : (idleCycle s).sync0 = s.sync0 := rfl
@[simp] theorem idleCycle_sync1 (s : State) : (idleCycle s).sync1 = s.sync1 := rfl
@[simp] theorem idleCycle_sync2 (s : State) : (idleCycle s).sync2 = s.sync2 := rfl
@[simp] theorem idleCycle_sync3 (s : State) : (idleCycle s).sync3 = s.sync3 := rfl
@[simp] theorem idleCycle_resetLow (s : State) : (idleCycle s).resetLow = s.resetLow := rfl
@[simp] theorem idleCycle_booting (s : State) : (idleCycle s).booting = s.booting := rfl
@[simp] theorem idleCycle_mem (s : State) : (idleCycle s).mem = s.mem := rfl
@[simp] theorem idleCycle_rom (s : State) : (idleCycle s).rom = s.rom := rfl
@[simp] theorem idleCycle_primaryCtl (s : State) : (idleCycle s).primaryCtl = s.primaryCtl := rfl
@[simp] theorem idleCycle_expansionCtl (s : State) : (idleCycle s).expansionCtl = s.expansionCtl := rfl
@[simp] theorem idleCycle_timer0 (s : State) : (idleCycle s).timer0 = s.timer0 := rfl
@[simp] theorem idleCycle_timer1 (s : State) : (idleCycle s).timer1 = s.timer1 := rfl
@[simp] theorem idleCycle_port0 (s : State) : (idleCycle s).port0 = s.port0 := rfl
@[simp] theorem idleCycle_port1 (s : State) : (idleCycle s).port1 = s.port1 := rfl
@[simp] theorem idleCycle_dma (s : State) : (idleCycle s).dma = s.dma := rfl
@[simp] theorem idleCycle_env (s : State) : (idleCycle s).env = s.env := rfl
@[simp] theorem idleCycle_freeCount (s : State) : (idleCycle s).freeCount = s.freeCount + freeStride := rfl
@[simp] theorem idleCycle_elapsed (s : State) : (idleCycle s).elapsed = s.elapsed + 1 := rfl
@[simp] theorem idleCycle_stalled (s : State) : (idleCycle s).stalled = s.stalled := rfl
@[simp] theorem idleCycle_abandon (s : State) : (idleCycle s).abandon = s.abandon := rfl
@[simp] theorem idleCycle_intWindow (s : State) : (idleCycle s).intWindow = s.intWindow := rfl
@[simp] theorem idleCycle_windowGie (s : State) : (idleCycle s).windowGie = s.windowGie := rfl
@[simp] theorem idleCycle_ifSet (s : State) : (idleCycle s).ifSet = s.ifSet := rfl
@[simp] theorem idleCycle_ifWritten (s : State) : (idleCycle s).ifWritten = s.ifWritten := rfl
@[simp] theorem idleCycle_shared (s : State) : (idleCycle s).shared = s.shared := rfl
@[simp] theorem idleCycle_onChip (s : State) : (idleCycle s).onChip = s.onChip := rfl
@[simp] theorem idleCycle_nopRun (s : State) : (idleCycle s).nopRun = s.nopRun := rfl
@[simp] theorem idleCycle_recentStores (s : State) : (idleCycle s).recentStores = s.recentStores := rfl
@[simp] theorem idleCycle_outNow (s : State) : (idleCycle s).outNow = s.outNow := rfl
@[simp] theorem idleCycle_outBefore (s : State) : (idleCycle s).outBefore = s.outBefore := rfl
@[simp] theorem idleCycle_trapped (s : State) : (idleCycle s).trapped = s.trapped := rfl
@[simp] theorem idleCycle_loopLoad (s : State) : (idleCycle s).loopLoad = s.loopLoad := rfl
@[simp] theorem idleCycle_loopOldRes (s : State) : (idleCycle s).loopOldRes = s.loopOldRes := rfl
@[simp] theorem idleCycle_rcBefore (s : State) : (idleCycle s).rcBefore = s.rcBefore := rfl

/-! ## ready -/

@[simp] theorem ready_device (s : State) : (ready s).device = s.device := rfl
@[simp] theorem ready_pins (s : State) : (ready s).pins = s.pins := rfl
@[simp] theorem ready_r (s : State) : (ready s).r = s.r := rfl
@[simp] theorem ready_ar (s : State) : (ready s).ar = s.ar := rfl
@[simp] theorem ready_dp (s : State) : (ready s).dp = s.dp := rfl
@[simp] theorem ready_ir0 (s : State) : (ready s).ir0 = s.ir0 := rfl
@[simp] theorem ready_ir1 (s : State) : (ready s).ir1 = s.ir1 := rfl
@[simp] theorem ready_bk (s : State) : (ready s).bk = s.bk := rfl
@[simp] theorem ready_sp (s : State) : (ready s).sp = s.sp := rfl
@[simp] theorem ready_st (s : State) : (ready s).st = s.st := rfl
@[simp] theorem ready_ie (s : State) : (ready s).ie = s.ie := rfl
@[simp] theorem ready_ifr (s : State) : (ready s).ifr = s.ifr := rfl
@[simp] theorem ready_iof (s : State) : (ready s).iof = s.iof := rfl
@[simp] theorem ready_rs (s : State) : (ready s).rs = s.rs := rfl
@[simp] theorem ready_re (s : State) : (ready s).re = s.re := rfl
@[simp] theorem ready_rc (s : State) : (ready s).rc = s.rc := rfl
@[simp] theorem ready_pc (s : State) : (ready s).pc = s.pc := rfl
@[simp] theorem ready_repS (s : State) : (ready s).repS = s.repS := rfl
@[simp] theorem ready_ir (s : State) : (ready s).ir = s.ir := rfl
@[simp] theorem ready_delay (s : State) : (ready s).delay = s.delay := rfl
@[simp] theorem ready_idle (s : State) : (ready s).idle = s.idle := rfl
@[simp] theorem ready_lowPower (s : State) : (ready s).lowPower = s.lowPower := rfl
@[simp] theorem ready_iack (s : State) : (ready s).iack = s.iack := rfl
@[simp] theorem ready_cache (s : State) : (ready s).cache = s.cache := rfl
@[simp] theorem ready_lockWait (s : State) : (ready s).lockWait = s.lockWait := rfl
@[simp] theorem ready_lockReady (s : State) : (ready s).lockReady = s.lockReady := rfl
@[simp] theorem ready_xf0Next (s : State) : (ready s).xf0Next = s.xf0Next := rfl
@[simp] theorem ready_bank (s : State) : (ready s).bank = s.bank := rfl
@[simp] theorem ready_primary (s : State) : (ready s).primary = s.primary := rfl
@[simp] theorem ready_expansion (s : State) : (ready s).expansion = s.expansion := rfl
@[simp] theorem ready_primaryWrote (s : State) : (ready s).primaryWrote = s.primaryWrote := rfl
@[simp] theorem ready_expansionWrote (s : State) : (ready s).expansionWrote = s.expansionWrote := rfl
@[simp] theorem ready_lineAddr (s : State) : (ready s).lineAddr = s.lineAddr := rfl
@[simp] theorem ready_sync0 (s : State) : (ready s).sync0 = s.sync0 := rfl
@[simp] theorem ready_sync1 (s : State) : (ready s).sync1 = s.sync1 := rfl
@[simp] theorem ready_sync2 (s : State) : (ready s).sync2 = s.sync2 := rfl
@[simp] theorem ready_sync3 (s : State) : (ready s).sync3 = s.sync3 := rfl
@[simp] theorem ready_resetLow (s : State) : (ready s).resetLow = s.resetLow := rfl
@[simp] theorem ready_booting (s : State) : (ready s).booting = s.booting := rfl
@[simp] theorem ready_mem (s : State) : (ready s).mem = s.mem := rfl
@[simp] theorem ready_rom (s : State) : (ready s).rom = s.rom := rfl
@[simp] theorem ready_primaryCtl (s : State) : (ready s).primaryCtl = s.primaryCtl := rfl
@[simp] theorem ready_expansionCtl (s : State) : (ready s).expansionCtl = s.expansionCtl := rfl
@[simp] theorem ready_timer0 (s : State) : (ready s).timer0 = s.timer0 := rfl
@[simp] theorem ready_timer1 (s : State) : (ready s).timer1 = s.timer1 := rfl
@[simp] theorem ready_port0 (s : State) : (ready s).port0 = s.port0 := rfl
@[simp] theorem ready_port1 (s : State) : (ready s).port1 = s.port1 := rfl
@[simp] theorem ready_dma (s : State) : (ready s).dma = s.dma := rfl
@[simp] theorem ready_env (s : State) : (ready s).env = s.env := rfl
@[simp] theorem ready_freeCount (s : State) : (ready s).freeCount = s.freeCount := rfl
@[simp] theorem ready_elapsed (s : State) : (ready s).elapsed = s.elapsed := rfl
@[simp] theorem ready_stalled (s : State) : (ready s).stalled = none := rfl
@[simp] theorem ready_abandon (s : State) : (ready s).abandon = s.abandon := rfl
@[simp] theorem ready_intWindow (s : State) : (ready s).intWindow = s.intWindow := rfl
@[simp] theorem ready_windowGie (s : State) : (ready s).windowGie = s.windowGie := rfl
@[simp] theorem ready_ifSet (s : State) : (ready s).ifSet = s.ifSet := rfl
@[simp] theorem ready_ifWritten (s : State) : (ready s).ifWritten = s.ifWritten := rfl
@[simp] theorem ready_shared (s : State) : (ready s).shared = s.shared := rfl
@[simp] theorem ready_onChip (s : State) : (ready s).onChip = s.onChip := rfl
@[simp] theorem ready_nopRun (s : State) : (ready s).nopRun = s.nopRun := rfl
@[simp] theorem ready_recentStores (s : State) : (ready s).recentStores = s.recentStores := rfl
@[simp] theorem ready_outNow (s : State) : (ready s).outNow = s.outNow := rfl
@[simp] theorem ready_outBefore (s : State) : (ready s).outBefore = s.outBefore := rfl
@[simp] theorem ready_trapped (s : State) : (ready s).trapped = s.trapped := rfl
@[simp] theorem ready_loopLoad (s : State) : (ready s).loopLoad = s.loopLoad := rfl
@[simp] theorem ready_loopOldRes (s : State) : (ready s).loopOldRes = s.loopOldRes := rfl
@[simp] theorem ready_rcBefore (s : State) : (ready s).rcBefore = s.rcBefore := rfl

end Sys2Proof.Machine
end

