-- ==== Sys2Proof/Laws/Flags.lean ====
section
/-! SUPPORT. Single bits after an update of ST, and what each flag computation gives in the terms of the rules. -/
namespace Sys2Proof.Machine

/-! ## Bits -/

/-- The word with one bit set, bit by bit. -/
theorem getLsbD_one_shiftLeft (i k : Nat) (hk : k < 32) : (1#32 <<< i).getLsbD k = decide (k = i) := by
  rw [Bool.eq_iff_iff]
  simp only [BitVec.getLsbD_shiftLeft, BitVec.getLsbD_one, Bool.and_eq_true, Bool.not_eq_true', decide_eq_true_eq,
    decide_eq_false_iff_not]
  omega

@[simp] theorem getLsbD_setBit (w : Word) (i : Nat) (b : Bool) (k : Nat) :
    (setBit w i b).getLsbD k = if k = i ∧ k < 32 then b else w.getLsbD k := by
  by_cases hk : k < 32
  · unfold setBit
    cases b
    · simp only [Bool.false_eq_true, if_false, BitVec.getLsbD_and, BitVec.getLsbD_not, hk,
        getLsbD_one_shiftLeft i k hk]
      by_cases h : k = i <;> simp [h]
    · simp only [if_true, BitVec.getLsbD_or, hk, getLsbD_one_shiftLeft i k hk]
      by_cases h : k = i <;> simp [h]
  · simp [hk, BitVec.getLsbD_of_ge _ _ (Nat.le_of_not_lt hk)]

@[simp] theorem getLsbD_mergeBits (mask old new : Word) (k : Nat) :
    (mergeBits mask old new).getLsbD k = if mask.getLsbD k then new.getLsbD k else old.getLsbD k := by
  by_cases hk : k < 32
  · simp only [mergeBits, BitVec.getLsbD_or, BitVec.getLsbD_and, BitVec.getLsbD_not, hk]
    cases mask.getLsbD k <;> simp
  · simp [BitVec.getLsbD_of_ge _ _ (Nat.le_of_not_lt hk)]

@[simp] theorem getLsbD_latch (i : Nat) (e : Bool) (st : Word) (k : Nat) :
    (latch i e st).getLsbD k = if k = i ∧ k < 32 then e || st.getLsbD k else st.getLsbD k := by
  unfold latch
  cases e <;> simp

/-- Setting bit 13 to 0 is masking it out. -/
theorem setBit_false (w : Word) (i : Nat) : setBit w i false = w &&& ~~~(1#32 <<< i) := rfl

theorem setBit_true (w : Word) (i : Nat) : setBit w i true = w ||| (1#32 <<< i) := rfl

/-! ## Flags (R332, R333) -/

/-- The flags of an operation without a carry. -/
theorem flagsAre_opFlags {α : Type} (x : α) (v uf n z : Bool) (st : Word) :
    FlagsAre { out := x, c := none, v := v, uf := uf, n := n, z := some z } st (opFlags v uf n z st) := by
  intro k hk
  simp only [opFlags, getLsbD_latch, getLsbD_setBit]
  interval_cases k <;> simp [Bool.or_comm]

/-- The flags of an operation with a carry. -/
theorem flagsAre_opFlagsC {α : Type} (x : α) (c v uf n z : Bool) (st : Word) :
    FlagsAre { out := x, c := some c, v := v, uf := uf, n := n, z := some z } st (opFlagsC c v uf n z st) := by
  intro k hk
  simp only [opFlagsC, opFlags, getLsbD_latch, getLsbD_setBit]
  interval_cases k <;> simp [Bool.or_comm]

/-- A flag that is written as it was is left as it was. -/
theorem flagsAre_keepZ {α : Type} (x : α) (v uf n : Bool) (st : Word) :
    FlagsAre { out := x, c := none, v := v, uf := uf, n := n, z := none } st
      (opFlags v uf n (st.getLsbD 2) st) := by
  intro k hk
  simp only [opFlags, getLsbD_latch, getLsbD_setBit]
  interval_cases k <;> simp [Bool.or_comm]

/-! ## Integer results -/

theorem not_fits (x : Int) : (!fits x) = tooBig x := by
  rw [Bool.eq_iff_iff]
  simp [fits, tooBig]
  omega

/-- Saturation is the nearest number of 32 bits. -/
theorem sat_eq_clamp (ovm : Bool) (x : Int) : sat ovm x = clamp ovm x := by
  unfold sat clamp
  cases ovm
  · simp
  · rw [Bool.true_and, not_fits, if_pos rfl]
    by_cases h1 : x < -2 ^ 31
    · rw [if_pos (by simp [tooBig]; omega), if_neg (by omega),
        show max (-2 ^ 31) (min (2 ^ 31 - 1) x) = -2 ^ 31 by omega]
      rfl
    · by_cases h2 : 2 ^ 31 ≤ x
      · rw [if_pos (by simp [tooBig]; omega), if_pos (by omega),
          show max (-2 ^ 31) (min (2 ^ 31 - 1) x) = 2 ^ 31 - 1 by omega]
        rfl
      · rw [if_neg (by simp [tooBig]; omega), show max (-2 ^ 31) (min (2 ^ 31 - 1) x) = x by omega]

/-- An integer result, in the terms of its rule. -/
theorem intEffect_out (st : Word) (x : Int) (c : Bool) : (intEffect st x c).out = (sumIs st x c).out :=
  sat_eq_clamp _ _

theorem flagsAre_intEffect (st' st : Word) (x : Int) (c : Bool) :
    FlagsAre (sumIs st' x c) st ((intEffect st' x c).flags st) := by
  have := flagsAre_opFlagsC (clamp (st'.getLsbD 7) x) c (tooBig x) false (x < 0)
    (clamp (st'.getLsbD 7) x = 0#32) st
  simpa [intEffect, sumIs, not_fits, sat_eq_clamp, stOvm] using this

theorem flagsAre_logic (r st : Word) : FlagsAre (logicIs r) st (logicFlags r st) := flagsAre_opFlags _ _ _ _ _ _

theorem flagsAre_shift (r st : Word) (c v : Bool) :
    FlagsAre (shiftIs r c v) st (opFlagsC c v false r.msb (r = 0#32) st) := flagsAre_opFlagsC _ _ _ _ _ _ _

theorem flagsAre_float (r : FResult) (st : Word) : FlagsAre (floatIs r) st (floatFlags r st) :=
  flagsAre_opFlags _ _ _ _ _ _

theorem flagsAre_rnd (a : Ext) (st : Word) : FlagsAre (roundIs (fround a)) st ((rndEffect a).flags st) :=
  flagsAre_keepZ _ _ _ _ _

end Sys2Proof.Machine
end

