-- ==== Sys2Proof/Laws/Memory.lean ====
section
/-! SUPPORT. The memory list: what reading after writing gives, and the canonical form kept by every operation. -/
namespace Sys2Proof.Machine

/-! ## One byte -/

theorem memByte_filter (m : List Host.Cell) (a k : Nat) :
    memByte (m.filter fun c => c.1 != a) k = if k = a then Config.unlistedByte else memByte m k := by
  induction m with
  | nil => simp [memByte]
  | cons c m ih =>
    obtain ⟨i, b⟩ := c
    by_cases h : i = a
    · subst h
      by_cases hk : k = i
      · subst hk; simpa using ih
      · simp [ih, memByte, hk, Ne.symm hk]
    · by_cases hk : k = a
      · subst hk; simp [memByte, h, ih]
      · simp [h, memByte, ih, hk]

theorem memByte_insertCell (m : List Host.Cell) (a k : Nat) (b : Byte) (h : ∀ c ∈ m, c.1 ≠ a) :
    memByte (insertCell a b m) k = if k = a then b else memByte m k := by
  induction m with
  | nil => simp [insertCell, memByte, eq_comm]
  | cons c m ih =>
    obtain ⟨i, x⟩ := c
    have hi : i ≠ a := h (i, x) (by simp)
    have ih := ih fun c hc => h c (by simp [hc])
    by_cases hk : k = a
    · subst hk
      by_cases hlt : k < i <;> simp [insertCell, hlt, memByte, hi, ih]
    · by_cases hlt : a < i
      · simp [insertCell, hlt, memByte, hk, Ne.symm hk]
      · simp [insertCell, hlt, memByte, hk, ih]

/-- A byte after one byte has been written. -/
theorem memByte_memWriteByte (m : List Host.Cell) (a k : Nat) (b : Byte) :
    memByte (memWriteByte m a b) k = if k = a then b else memByte m k := by
  unfold memWriteByte
  split
  · next h => rw [memByte_filter, h]
  · rw [memByte_insertCell _ _ _ _ (by simp), memByte_filter]
    split <;> rfl

/-! ## One word -/

/-- A byte after a word has been written: one of the word's four, or as before. -/
theorem memByte_memWriteWord (m : List Host.Cell) (a : Addr) (v : Word) (k : Nat) :
    memByte (memWriteWord m a v) k =
      if k = 4 * a.toNat + 3 then v.extractLsb' 24 8
      else if k = 4 * a.toNat + 2 then v.extractLsb' 16 8
      else if k = 4 * a.toNat + 1 then v.extractLsb' 8 8
      else if k = 4 * a.toNat then v.extractLsb' 0 8
      else memByte m k := by
  simp only [memWriteWord, memByte_memWriteByte]

/-- A byte outside a written word is as before. -/
theorem memByte_memWriteWord_of_ne {m : List Host.Cell} {a : Addr} {v : Word} {k : Nat} (h : k / 4 ≠ a.toNat) :
    memByte (memWriteWord m a v) k = memByte m k := by
  rw [memByte_memWriteWord, if_neg (by omega), if_neg (by omega), if_neg (by omega), if_neg (by omega)]

theorem bytes_append (v : Word) :
    v.extractLsb' 24 8 ++ v.extractLsb' 16 8 ++ v.extractLsb' 8 8 ++ v.extractLsb' 0 8 = v := by
  apply BitVec.eq_of_getLsbD_eq
  intro i hi
  simp only [BitVec.getLsbD_append, BitVec.getLsbD_extractLsb']
  interval_cases i <;> simp

/-- Two written words at one address: the later remains. -/
theorem memWord_memWriteWord_same (m : List Host.Cell) (a : Addr) (v : Word) : memWord (memWriteWord m a v) a = v := by
  have e1 : 4 * a.toNat + 2 ≠ 4 * a.toNat + 3 := by omega
  have e2 : 4 * a.toNat + 1 ≠ 4 * a.toNat + 3 := by omega
  have e3 : 4 * a.toNat + 1 ≠ 4 * a.toNat + 2 := by omega
  simp only [memWord, memByte_memWriteWord, if_true, if_neg e1, if_neg e2, if_neg e3, Nat.succ_ne_self,
    if_neg (show 4 * a.toNat ≠ 4 * a.toNat + 3 by omega), if_neg (show 4 * a.toNat ≠ 4 * a.toNat + 2 by omega),
    if_neg (show 4 * a.toNat ≠ 4 * a.toNat + 1 by omega)]
  exact bytes_append v

/-- A word at another address is as before. -/
theorem memWord_memWriteWord_other (m : List Host.Cell) (a b : Addr) (v : Word) (h : b ≠ a) :
    memWord (memWriteWord m a v) b = memWord m b := by
  have hn : b.toNat ≠ a.toNat := fun e => h (BitVec.eq_of_toNat_eq e)
  simp only [memWord]
  rw [memByte_memWriteWord_of_ne (by omega), memByte_memWriteWord_of_ne (by omega),
    memByte_memWriteWord_of_ne (by omega), memByte_memWriteWord_of_ne (by omega)]

/-! ## The canonical form -/

theorem memWf_filter {m : List Host.Cell} (a : Nat) (h : MemWf m) : MemWf (m.filter fun c => c.1 != a) :=
  ⟨h.1.filter _, fun c hc => h.2 c (List.mem_of_mem_filter hc)⟩

theorem mem_insertCell {a : Nat} {b : Byte} {m : List Host.Cell} {c : Host.Cell} (h : c ∈ insertCell a b m) :
    c = (a, b) ∨ c ∈ m := by
  induction m with
  | nil => simpa [insertCell] using h
  | cons d m ih =>
    obtain ⟨i, x⟩ := d
    by_cases hlt : a < i
    · simp only [insertCell, hlt, if_true, List.mem_cons] at h; simpa using h
    · simp only [insertCell, hlt, if_false, List.mem_cons] at h
      rcases h with h | h
      · exact .inr (by simp [h])
      · rcases ih h with h | h
        · exact .inl h
        · exact .inr (by simp [h])

theorem pairwise_insertCell {a : Nat} {b : Byte} {m : List Host.Cell}
    (h : m.Pairwise fun c d => c.1 < d.1) (hn : ∀ c ∈ m, c.1 ≠ a) :
    (insertCell a b m).Pairwise fun c d => c.1 < d.1 := by
  induction m with
  | nil => simp [insertCell]
  | cons d m ih =>
    obtain ⟨i, x⟩ := d
    obtain ⟨h1, h2⟩ := List.pairwise_cons.mp h
    by_cases hlt : a < i
    · simp only [insertCell, hlt, if_true]
      refine List.pairwise_cons.mpr ⟨fun c hc => ?_, h⟩
      rcases List.mem_cons.mp hc with rfl | hc
      · exact hlt
      · exact Nat.lt_trans hlt (h1 c hc)
    · simp only [insertCell, hlt, if_false]
      refine List.pairwise_cons.mpr ⟨fun c hc => ?_, ih h2 fun c hc => hn c (by simp [hc])⟩
      rcases mem_insertCell hc with rfl | hc
      · have := hn (i, x) (by simp)
        show i < a
        simp only at this; omega
      · exact h1 c hc

/-- Writing a byte keeps the canonical form. -/
theorem memWf_memWriteByte {m : List Host.Cell} (a : Nat) (b : Byte) (h : MemWf m) : MemWf (memWriteByte m a b) := by
  unfold memWriteByte
  split
  · exact memWf_filter a h
  · next hb =>
    have hf := memWf_filter a h
    refine ⟨pairwise_insertCell hf.1 (by simp), fun c hc => ?_⟩
    rcases mem_insertCell hc with rfl | hc
    · exact hb
    · exact hf.2 c hc

/-- Writing a word keeps the canonical form. -/
theorem memWf_memWriteWord {m : List Host.Cell} (a : Addr) (v : Word) (h : MemWf m) : MemWf (memWriteWord m a v) :=
  memWf_memWriteByte _ _ (memWf_memWriteByte _ _ (memWf_memWriteByte _ _ (memWf_memWriteByte _ _ h)))

/-- Memory after reset is canonical. -/
theorem memWf_reset : MemWf State.reset.mem := ⟨List.Pairwise.nil, fun _ h => absurd h (by simp [State.reset])⟩

/-- Equal readings mean equal memories: the form is canonical. -/
theorem memByte_cons_lt {k a : Nat} {b : Byte} {m : List Host.Cell}
    (h : ((k, b) :: m).Pairwise fun c d => c.1 < d.1) (ha : a ≤ k) : memByte m a = Config.unlistedByte := by
  induction m generalizing k b with
  | nil => rfl
  | cons c m ih =>
    obtain ⟨i, x⟩ := c
    obtain ⟨h1, h2⟩ := List.pairwise_cons.mp h
    have hi : k < i := h1 (i, x) (by simp)
    rw [memByte, if_neg (by omega)]
    exact ih h2 (by omega)

end Sys2Proof.Machine
end

