-- ==== Sys2Proof/Laws/Ops.lean ====
section
/-! SUPPORT. What each shared operation can do, said once: later proofs cite these and do not unfold the operations. -/
namespace Sys2Proof.Machine

/-! ## Results that may stop -/

theorem bind_eq_ok {α β : Type} {x : Except Stop α} {f : α → Except Stop β} {b : β} :
    (x >>= f) = .ok b ↔ ∃ a, x = .ok a ∧ f a = .ok b := by
  cases x with
  | error e => simp [bind, Except.bind]
  | ok a => simp [bind, Except.bind]

theorem map_eq_ok {α β : Type} {x : Except Stop α} {f : α → β} {b : β} :
    x.map f = .ok b ↔ ∃ a, x = .ok a ∧ f a = b := by
  cases x <;> simp [Except.map]

@[simp] theorem ok_bind {α β : Type} (a : α) (f : α → Except Stop β) : (Except.ok a >>= f) = f a := rfl

@[simp] theorem error_bind {α β : Type} (e : Stop) (f : α → Except Stop β) :
    ((Except.error e : Except Stop α) >>= f) = .error e := rfl

@[simp] theorem pure_eq_ok {α : Type} (a : α) : (pure a : Except Stop α) = .ok a := rfl

/-- A meaning that completes is a next state. -/
@[simp] theorem outcome_ok (s t : State) : outcome s (.ok t) = .next t := rfl

/-- A machine that waits: for an access that cannot be made, or for ever, with a read on a port that never ends. -/
theorem stop_eq_next {s t : State} {e : Stop} :
    stop s e = .next t ↔ (∃ w, e = .stall w ∧ t = { s with stalled := some w }) ∨
      ∃ p c, e = .lockup p c ∧ t = addCycle c { s with stalled := some p.wait } p := by
  cases e <;> simp [stop, eq_comm]

/-- A meaning's next state: it completed, or it waits. -/
theorem outcome_eq_next {s t : State} {x : Except Stop State} :
    outcome s x = .next t ↔ x = .ok t ∨ ∃ e, x = .error e ∧ stop s e = .next t := by
  cases x <;> simp [outcome]

theorem orReserved_eq_ok {α : Type} {a : Addr} {o : Option α} {x : α} :
    orReserved a o = .ok x ↔ o = some x := by
  cases o <;> simp [orReserved, reserved]

/-! ## The peripheral bus -/

/-- A read of the peripheral bus changes at most the two serial ports. -/
theorem periphRead_cases {a : Addr} {s t : State} {w : Word} (h : periphRead a s = .ok (w, t)) :
    ∃ p0 p1, t = { s with port0 := p0, port1 := p1 } := by
  unfold periphRead at h
  simp only [reserved] at h
  split at h
  · obtain ⟨v, -, hv⟩ := map_eq_ok.mp h; cases hv; exact ⟨_, _, rfl⟩
  split at h
  · cases h
  split at h
  · obtain ⟨v, -, hv⟩ := map_eq_ok.mp h; cases hv; exact ⟨_, _, rfl⟩
  split at h
  · obtain ⟨v, -, hv⟩ := map_eq_ok.mp h; cases hv; exact ⟨_, _, rfl⟩
  split at h
  · obtain ⟨v, -, hv⟩ := map_eq_ok.mp h; cases hv; exact ⟨_, _, rfl⟩
  split at h
  · split at h
    · obtain ⟨v, -, hv⟩ := map_eq_ok.mp h; cases hv; exact ⟨_, _, rfl⟩
    · cases h
  split at h
  · cases h; exact ⟨_, _, rfl⟩
  split at h
  · cases h; exact ⟨_, _, rfl⟩
  · cases h

/-- A write of serial port 0 changes the port, and raises interrupt flags at most. -/
theorem writePort0_cases {a : Addr} {off : Nat} {v : Word} {s t : State} (h : writePort0 a off v s = .ok t) :
    ∃ p f, t = raiseFlags f { s with port0 := p } ∨ t = { s with port0 := p } := by
  unfold writePort0 at h
  split at h
  · split at h
    · cases h; exact ⟨_, _, .inl rfl⟩
    · cases h
  · obtain ⟨p, -, hp⟩ := map_eq_ok.mp h; cases hp; exact ⟨p, 0#11, .inr rfl⟩

/-- The same of serial port 1. -/
theorem writePort1_cases {a : Addr} {off : Nat} {v : Word} {s t : State} (h : writePort1 a off v s = .ok t) :
    ∃ p f, t = raiseFlags f { s with port1 := p } ∨ t = { s with port1 := p } := by
  unfold writePort1 at h
  split at h
  · split at h
    · cases h; exact ⟨_, _, .inl rfl⟩
    · cases h
  · obtain ⟨p, -, hp⟩ := map_eq_ok.mp h; cases hp; exact ⟨p, 0#11, .inr rfl⟩

/-- A write of the peripheral bus: one unit's registers, a bus control by its mask, or flags raised by a port. -/
theorem periphWrite_cases {a : Addr} {v : Word} {s t : State} (h : periphWrite a v s = .ok t) :
    (∃ d, t = { s with dma := d }) ∨ (∃ x, t = { s with timer0 := x }) ∨ (∃ x, t = { s with timer1 := x }) ∨
    (∃ p f, t = raiseFlags f { s with port0 := p } ∨ t = { s with port0 := p }) ∨
    (∃ p f, t = raiseFlags f { s with port1 := p } ∨ t = { s with port1 := p }) ∨
    t = { s with expansionCtl := mergeBits expansionMask s.expansionCtl v } ∨
    t = { s with primaryCtl := mergeBits primaryMask s.primaryCtl v } := by
  unfold periphWrite at h
  simp only [reserved] at h
  split at h
  · obtain ⟨d, -, h⟩ := bind_eq_ok.mp h
    obtain ⟨d', -, h⟩ := bind_eq_ok.mp h
    cases h; exact .inl ⟨_, rfl⟩
  split at h
  · cases h
  split at h
  · obtain ⟨x, -, h⟩ := map_eq_ok.mp h; exact .inr (.inl ⟨x, h.symm⟩)
  split at h
  · obtain ⟨x, -, h⟩ := map_eq_ok.mp h; exact .inr (.inr (.inl ⟨x, h.symm⟩))
  split at h
  · exact .inr (.inr (.inr (.inl (writePort0_cases h))))
  split at h
  · split at h
    · exact .inr (.inr (.inr (.inr (.inl (writePort1_cases h)))))
    · cases h
  split at h
  · cases h; exact .inr (.inr (.inr (.inr (.inr (.inl rfl)))))
  split at h
  · cases h; exact .inr (.inr (.inr (.inr (.inr (.inr rfl)))))
  · cases h

/-! ## What is left alone -/

/-- The part of the machine that a load cannot change: all but the account of the buses, what the devices on them still
answer, the reads still to come that the program did not ask for, and the serial ports. -/
def loadPart (s : State) : State :=
  { s with
    bank := 0#24, elapsed := 0, primary := [], expansion := [], onChip := [], port0 := .reset, port1 := .reset, outBefore := 0
    env := { s.env with extReads := [], dummyReads := [] } }

/-- The part that a store cannot change: of the above all but memory, the units on the peripheral bus and IF. -/
def storePart (s : State) : State :=
  { loadPart s with
    mem := [], recentStores := [], dma := .reset, timer0 := .reset, timer1 := .reset, ifr := 0#32, ifSet := 0#11
    primaryCtl := 0#32, expansionCtl := 0#32, outNow := 0
    env := { s.env with extReads := [], dummyReads := [], extWrites := [] } }

/-- The part that H1 cycles cannot change: no CPU register but IF, not the PC, not the CPU's mode but for the clock
restarting out of IDLE2; and not the output pins but for what was still due on IACK and XF0. -/
def cpuPart (s : State) : State :=
  { storePart s with
    env := .none, pins := .quiet, idle := .running, sync0 := .high, sync1 := .high, sync2 := .high, sync3 := .high
    freeCount := 0, shared := 0#11, ifWritten := false, lineAddr := none, iack := none, xf0Next := []
    primaryWrote := false, expansionWrote := false }

/-- What the units keep among themselves: memory in its canonical form, and the bits of IF and of the bus controls that hold
nothing 0. -/
structure UnitsInv (s : State) : Prop where
  mem : MemWf s.mem
  ifr : s.ifr &&& ~~~ifMask = 0#32
  primary : s.primaryCtl &&& ~~~primaryMask = 0#32
  expansion : s.expansionCtl &&& ~~~expansionMask = 0#32

theorem storePart_of_load {s t : State} (h : loadPart t = loadPart s) : storePart t = storePart s := by
  have e := congrArg storePart h
  exact e

theorem cpuPart_of_store {s t : State} (h : storePart t = storePart s) : cpuPart t = cpuPart s := by
  have e := congrArg cpuPart h
  exact e

theorem cpuPart_of_load {s t : State} (h : loadPart t = loadPart s) : cpuPart t = cpuPart s :=
  cpuPart_of_store (storePart_of_load h)

/-- A load keeps the units' invariant. -/
theorem UnitsInv.load {s t : State} (h : loadPart t = loadPart s) (hs : UnitsInv s) : UnitsInv t := by
  have e1 := congrArg State.mem h
  have e2 := congrArg State.ifr h
  have e3 := congrArg State.primaryCtl h
  have e4 := congrArg State.expansionCtl h
  simp only [loadPart] at e1 e2 e3 e4
  exact ⟨e1 ▸ hs.mem, e2 ▸ hs.ifr, e3 ▸ hs.primary, e4 ▸ hs.expansion⟩

/-- Merged bits outside the mask are the old ones. -/
theorem mergeBits_masked {m o n : Word} (h : o &&& ~~~m = 0#32) : mergeBits m o n &&& ~~~m = 0#32 := by
  have hb := fun i => congrArg (·.getLsbD i) h
  apply BitVec.eq_of_getLsbD_eq
  intro i hi
  have := hb i
  simp only [mergeBits, BitVec.getLsbD_and, BitVec.getLsbD_or, BitVec.getLsbD_not, hi, BitVec.getLsbD_zero,
    decide_true, Bool.true_and] at this ⊢
  cases ho : o.getLsbD i <;> cases hm : m.getLsbD i <;> simp_all

/-- Raised flags lie within IF. -/
theorem raised_masked {i : Word} (f : BitVec 11) (h : i &&& ~~~ifMask = 0#32) : (i ||| f.setWidth 32) &&& ~~~ifMask = 0#32 := by
  have hf : f.setWidth 32 &&& ~~~ifMask = 0#32 := by
    apply BitVec.eq_of_getLsbD_eq
    intro k hk
    interval_cases k <;> simp [ifMask]
  rw [BitVec.and_comm, BitVec.and_or_distrib_left, BitVec.and_comm _ i, BitVec.and_comm _ (f.setWidth 32), h, hf]
  rfl

theorem UnitsInv.raise {s : State} (f : BitVec 11) (hs : UnitsInv s) : UnitsInv (raiseFlags f s) :=
  ⟨hs.mem, raised_masked _ hs.ifr, hs.primary, hs.expansion⟩

/-- A write of the peripheral bus keeps the units' invariant. -/
theorem UnitsInv.periph {a : Addr} {v : Word} {s t : State} (h : periphWrite a v s = .ok t) (hs : UnitsInv s) :
    UnitsInv t := by
  rcases periphWrite_cases h with ⟨_, rfl⟩ | ⟨_, rfl⟩ | ⟨_, rfl⟩ | ⟨_, f, rfl | rfl⟩ | ⟨_, f, rfl | rfl⟩ | rfl | rfl
  · exact ⟨hs.mem, hs.ifr, hs.primary, hs.expansion⟩
  · exact ⟨hs.mem, hs.ifr, hs.primary, hs.expansion⟩
  · exact ⟨hs.mem, hs.ifr, hs.primary, hs.expansion⟩
  · exact UnitsInv.raise f ⟨hs.mem, hs.ifr, hs.primary, hs.expansion⟩
  · exact ⟨hs.mem, hs.ifr, hs.primary, hs.expansion⟩
  · exact UnitsInv.raise f ⟨hs.mem, hs.ifr, hs.primary, hs.expansion⟩
  · exact ⟨hs.mem, hs.ifr, hs.primary, hs.expansion⟩
  · exact ⟨hs.mem, hs.ifr, hs.primary, mergeBits_masked hs.expansion⟩
  · exact ⟨hs.mem, hs.ifr, mergeBits_masked hs.primary, hs.expansion⟩

/-! ## Loads -/

/-- Putting an access on a port changes the account of that port only. -/
theorem loadPart_addCycle (c : BusCycle) (s : State) (p : PortName) : loadPart (addCycle c s p) = loadPart s := by
  cases p <;> rfl

theorem loadPart_noteBank (p : PortName) (a : Addr) (s : State) : loadPart (noteBank p a s) = loadPart s := by
  cases p <;> rfl

theorem loadPart_elapsed (n : Nat) (s : State) : loadPart { s with elapsed := n } = loadPart s := rfl

theorem loadPart_noteOnChip (k : Access) (a : Addr) (s : State) : loadPart (noteOnChip k a s) = loadPart s := by
  unfold noteOnChip; split <;> rfl

theorem loadPart_beginRead (p : PortName) (c : BusCycle) (s : State) : loadPart (beginRead p c s) = loadPart s := by
  cases p <;> rfl

/-- The CPU's wait for the port of the peripheral bus takes time and nothing else. -/
theorem awaitPeripheral_cases {k : Access} {s t : State} (h : awaitPeripheral k s = .ok t) : ∃ n, t = { s with elapsed := n } := by
  unfold awaitPeripheral at h
  split at h
  · cases h; exact ⟨_, rfl⟩
  · obtain ⟨n, -, h⟩ := map_eq_ok.mp h; exact ⟨n, h.symm⟩

/-- A read over a port: the word is the device's, or that of memory. -/
theorem extLoad_cases {k : Access} {p : PortName} {a : Addr} {s t : State} {w : Word} (h : extLoad k p a s = .ok (w, t)) :
    loadPart t = loadPart s ∧ w = (nextRead s).word.getD (memWord s.mem a) := by
  obtain ⟨n, -, h⟩ := bind_eq_ok.mp h
  dsimp only at h
  split at h
  · cases h; exact ⟨loadPart_beginRead .., rfl⟩
  · split at h
    · simp only [pure_eq_ok, Except.ok.injEq, Prod.mk.injEq] at h
      obtain ⟨rfl, rfl⟩ := h
      exact ⟨(loadPart_elapsed _ _).trans (loadPart_beginRead ..), rfl⟩
    · cases h

/-- A load changes at most the account of the buses, what the devices still answer and, on the peripheral bus, the serial
ports. -/
theorem loadFor_keeps {k : Access} {a : Addr} {s t : State} {w : Word} (h : loadFor k a s = .ok (w, t)) :
    loadPart t = loadPart s := by
  unfold loadFor at h
  simp only [reserved] at h
  split at h
  · split at h
    · cases h; exact loadPart_noteOnChip ..
    · cases h
  · exact (extLoad_cases h).1
  · exact (extLoad_cases h).1
  · exact (extLoad_cases h).1
  · split at h
    · cases h
    · obtain ⟨u, hu, h⟩ := bind_eq_ok.mp h
      obtain ⟨n, rfl⟩ := awaitPeripheral_cases hu
      obtain ⟨p0, p1, rfl⟩ := periphRead_cases h
      exact (show loadPart _ = loadPart (noteOnChip k a _) from rfl).trans (loadPart_noteOnChip ..)
  · cases h; exact loadPart_noteOnChip ..
  · cases h

/-- A load from on-chip RAM gives the word there. -/
theorem loadFor_ram {k : Access} {a : Addr} {s : State} (h : region s a = .ram) :
    loadFor k a s = .ok (memWord s.mem a, noteOnChip k a s) := by
  simp [loadFor, h]

/-! ## Stores -/

theorem storePart_addCycle (c : BusCycle) (s : State) (p : PortName) : storePart (addCycle c s p) = storePart s :=
  storePart_of_load (loadPart_addCycle c s p)

theorem addCycle_mem (c : BusCycle) (s : State) (p : PortName) : (addCycle c s p).mem = s.mem := by cases p <;> rfl

/-- A write over a port, with its account left open. -/
theorem storePart_written (p : PortName) (a : Addr) (c : BusCycle) (x : List ExtWrite) (n k : Nat) (m : List Host.Cell)
    (l : List RecentStore) (s : State) :
    storePart { noteBank p a (addCycle c { s with env := { s.env with extWrites := x } } p) with
      elapsed := n, outNow := k, mem := m, recentStores := l } = storePart s := by
  cases p <;> simp only [storePart, loadPart, noteBank, addCycle]

/-- The fields a write over a port leaves, by name. -/
theorem written_fields (p : PortName) (a : Addr) (c : BusCycle) (e : Env) (s : State) :
    let t := noteBank p a (addCycle c { s with env := e } p)
    t.ifr = s.ifr ∧ t.primaryCtl = s.primaryCtl ∧ t.expansionCtl = s.expansionCtl ∧ t.dma = s.dma ∧
      t.timer0 = s.timer0 ∧ t.timer1 = s.timer1 := by
  cases p <;> exact ⟨rfl, rfl, rfl, rfl, rfl, rfl⟩

/-- A write over a port: memory changes at most in that word; of the rest, what a store may change. -/
theorem extStore_cases {l : Nat} {d : Bool} {p : PortName} {a : Addr} {v : Word} {s t : State}
    (h : extStore l d p a v s = .ok t) :
    storePart t = storePart s ∧ (t.mem = memWriteWord s.mem a v ∨ t.mem = s.mem) ∧ t.ifr = s.ifr ∧
      t.primaryCtl = s.primaryCtl ∧ t.expansionCtl = s.expansionCtl ∧ t.dma = s.dma ∧ t.timer0 = s.timer0 ∧
      t.timer1 = s.timer1 := by
  obtain ⟨n, -, h⟩ := bind_eq_ok.mp h
  simp only [pure_eq_ok, Except.ok.injEq] at h
  subst h
  refine ⟨storePart_written .., ?_, written_fields ..⟩
  dsimp only
  split
  · exact .inl rfl
  · exact .inr rfl

/-- A store: into memory, or to the peripheral bus. -/
theorem storeAfter_cases {l : Nat} {d : Bool} {a : Addr} {v : Word} {s t : State} (h : storeAfter l d a v s = .ok t) :
    (region s a ≠ .peripheral ∧ storePart t = storePart s ∧ (t.mem = memWriteWord s.mem a v ∨ t.mem = s.mem) ∧
      t.ifr = s.ifr ∧ t.primaryCtl = s.primaryCtl ∧ t.expansionCtl = s.expansionCtl ∧ t.dma = s.dma ∧
      t.timer0 = s.timer0 ∧ t.timer1 = s.timer1) ∨
    (region s a = .peripheral ∧ ∃ u, loadPart u = loadPart s ∧ periphWrite a v u = .ok t) := by
  unfold storeAfter at h
  simp only [reserved] at h
  split at h
  · cases h
  · exact .inl ⟨by simp_all, extStore_cases h⟩
  · exact .inl ⟨by simp_all, extStore_cases h⟩
  · exact .inl ⟨by simp_all, extStore_cases h⟩
  · obtain ⟨u, hu, h⟩ := bind_eq_ok.mp h
    obtain ⟨n, rfl⟩ := awaitPeripheral_cases hu
    exact .inr ⟨by assumption, _, (loadPart_noteOnChip ..).trans (loadPart_elapsed n s), h⟩
  · cases h
    refine .inl ⟨by simp_all, ?_, .inl ?_, ?_⟩
    · cases d <;> rfl
    · cases d <;> rfl
    · cases d <;> exact ⟨rfl, rfl, rfl, rfl, rfl, rfl⟩
  · cases h

theorem storePart_elapsed (n : Nat) (s : State) : storePart { s with elapsed := n } = storePart s := rfl

/-- A store changes at most memory, the account of the buses, the units and IF. -/
theorem storeAfter_keeps {l : Nat} {d : Bool} {a : Addr} {v : Word} {s t : State} (h : storeAfter l d a v s = .ok t) :
    storePart t = storePart s := by
  rcases storeAfter_cases h with ⟨-, h, -⟩ | ⟨-, u, hu, hp⟩
  · exact h
  · rw [← storePart_of_load hu]
    rcases periphWrite_cases hp with ⟨_, rfl⟩ | ⟨_, rfl⟩ | ⟨_, rfl⟩ | ⟨_, _, rfl | rfl⟩ | ⟨_, _, rfl | rfl⟩ | rfl | rfl <;>
      rfl

/-- A store changes no memory byte outside the word. -/
theorem storeAfter_bytes {l : Nat} {d : Bool} {a : Addr} {v : Word} {s t : State} (h : storeAfter l d a v s = .ok t) :
    KeepsBytes [a] s t := by
  intro k hk
  have hk : k / 4 ≠ a.toNat := hk a (by simp)
  rcases storeAfter_cases h with ⟨-, -, hm | hm, -⟩ | ⟨-, u, hu, hp⟩
  · rw [hm]; exact memByte_memWriteWord_of_ne hk
  · rw [hm]
  · have e := congrArg State.mem hu
    change u.mem = s.mem at e
    rw [← e]
    rcases periphWrite_cases hp with ⟨_, rfl⟩ | ⟨_, rfl⟩ | ⟨_, rfl⟩ | ⟨_, _, rfl | rfl⟩ | ⟨_, _, rfl | rfl⟩ | rfl | rfl <;>
      rfl

/-- A store keeps the units' invariant, memory's canonical form among it. -/
theorem UnitsInv.store {l : Nat} {d : Bool} {a : Addr} {v : Word} {s t : State} (h : storeAfter l d a v s = .ok t) (hs : UnitsInv s) :
    UnitsInv t := by
  rcases storeAfter_cases h with ⟨-, -, hm, h1, h2, h3, -⟩ | ⟨-, u, hu, hp⟩
  · refine ⟨?_, h1 ▸ hs.ifr, h2 ▸ hs.primary, h3 ▸ hs.expansion⟩
    rcases hm with hm | hm
    · rw [hm]; exact memWf_memWriteWord a v hs.mem
    · rw [hm]; exact hs.mem
  · exact UnitsInv.periph hp (UnitsInv.load hu hs)

/-! ## The DMA controller -/

/-- Some of the units' work: nothing of the CPU but IF, and the units' invariant is kept. -/
def UnitsWork (s t : State) : Prop := cpuPart t = cpuPart s ∧ (UnitsInv s → UnitsInv t)

theorem UnitsWork.refl (s : State) : UnitsWork s s := ⟨rfl, id⟩

theorem UnitsWork.trans {s t u : State} (h : UnitsWork s t) (k : UnitsWork t u) : UnitsWork s u :=
  ⟨k.1.trans h.1, fun i => k.2 (h.2 i)⟩

theorem unitsWork_load {s t : State} (h : loadPart t = loadPart s) : UnitsWork s t :=
  ⟨cpuPart_of_load h, UnitsInv.load h⟩

theorem unitsWork_store {l : Nat} {d : Bool} {a : Addr} {v : Word} {s t : State} (h : storeAfter l d a v s = .ok t) : UnitsWork s t :=
  ⟨cpuPart_of_store (storeAfter_keeps h), UnitsInv.store h⟩

theorem unitsWork_dma (d : Dma) (s : State) : UnitsWork s { s with dma := d } :=
  ⟨rfl, fun h => ⟨h.mem, h.ifr, h.primary, h.expansion⟩⟩

theorem unitsWork_env (e : Env) (s : State) : UnitsWork s { s with env := e } :=
  ⟨rfl, fun h => ⟨h.mem, h.ifr, h.primary, h.expansion⟩⟩

theorem unitsWork_raise (f : BitVec 11) (s : State) : UnitsWork s (raiseFlags f s) := ⟨rfl, UnitsInv.raise f⟩

theorem unitsWork_setStat (v : BitVec 2) (s : State) : UnitsWork s (setStat v s) := unitsWork_dma _ s

theorem unitsWork_noteAck (i : Nat) (s : State) : UnitsWork s (noteAck i s) := by
  unfold noteAck
  split_ifs <;> exact ⟨rfl, fun h => ⟨h.mem, h.ifr, h.primary, h.expansion⟩⟩

/-- Clearing a bit of IF keeps the rest 0. -/
theorem cleared_masked {w : Word} (i : Nat) (h : w &&& ~~~ifMask = 0#32) : setBit w i false &&& ~~~ifMask = 0#32 := by
  have hb := fun i => congrArg (·.getLsbD i) h
  apply BitVec.eq_of_getLsbD_eq
  intro k hk
  have := hb k
  simp only [setBit, BitVec.getLsbD_and, BitVec.getLsbD_zero] at this ⊢
  cases hw : w.getLsbD k <;> simp_all

theorem unitsWork_dmaTake (i : Nat) (s : State) : UnitsWork s (dmaTake i s) :=
  UnitsWork.trans (t := { s with
    ifr := setBit s.ifr i false, shared := s.shared ||| (1#11 <<< i), dma := { s.dma with acked := true } })
    ⟨rfl, fun h => ⟨h.mem, cleared_masked i h.ifr, h.primary, h.expansion⟩⟩ (unitsWork_noteAck i _)

theorem dmaAcknowledge_work {l b : Bool} {s t : State} (h : dmaAcknowledge l b s = some t) : UnitsWork s t := by
  unfold dmaAcknowledge at h
  split at h
  · cases h; exact .refl s
  split at h
  · cases h
  · cases h; exact unitsWork_dmaTake ..

theorem dmaFinish_work (s : State) : UnitsWork s (dmaFinish s) := by
  unfold dmaFinish
  split
  · exact .refl s
  · split <;> exact unitsWork_dma _ s

theorem dmaCountDown_work (s : State) : UnitsWork s (dmaCountDown s) := by
  unfold dmaCountDown
  dsimp only
  split
  · exact (unitsWork_dma _ s).trans (unitsWork_raise ..)
  · exact unitsWork_dma _ s

theorem dmaContinue_work (x : DmaAccess) (s : State) : UnitsWork s (dmaContinue x s) := by
  unfold dmaContinue
  split
  · exact .refl _
  · split
    · exact dmaFinish_work _
    · exact unitsWork_dma ..

theorem dmaBegun_work (w : Bool) (l : Option Nat) (s : State) : UnitsWork s (dmaBegun w l s) := by
  unfold dmaBegun
  dsimp only
  split
  · exact (unitsWork_dma _ s).trans (dmaFinish_work _)
  · exact unitsWork_dma _ s

theorem dmaBeginRead_work {s t : State} (h : dmaBeginRead s = .ok t) : UnitsWork s t := by
  unfold dmaBeginRead at h
  split at h
  · cases h
  · obtain ⟨⟨w, u⟩, hu, h⟩ := bind_eq_ok.mp h
    cases h
    exact (unitsWork_load (loadFor_keeps hu)).trans ((unitsWork_dma _ u).trans (dmaBegun_work ..))

theorem dmaBeginWrite_work {s t : State} (h : dmaBeginWrite s = .ok t) : UnitsWork s t := by
  unfold dmaBeginWrite at h
  split at h
  · cases h
  · obtain ⟨u, hu, h⟩ := bind_eq_ok.mp h
    cases h
    exact (unitsWork_store hu).trans ((dmaCountDown_work u).trans (dmaBegun_work ..))

theorem dmaPart_work {n : List Addr} {w : Bool} {s t : State} (h : dmaPart n w s = .ok t) : UnitsWork s t := by
  have part : ∀ {u : State}, (if w then dmaBeginWrite u else dmaBeginRead u) = .ok t → UnitsWork u t := by
    intro u hu
    cases w with
    | true => exact dmaBeginWrite_work hu
    | false => exact dmaBeginRead_work hu
  unfold dmaPart at h
  by_cases hb : (!dmaMayBegin n (if w = true then s.dma.dst else s.dma.src) s) = true
  · rw [if_pos hb] at h; cases h; exact .refl s
  · rw [if_neg hb] at h
    split at h
    · cases h; exact unitsWork_env ..
    · exact (unitsWork_env _ s).trans (part h)
    · exact part h

/-- What the DMA controller does in one H1 cycle. -/
theorem dmaStep_work {n : List Addr} {l : Bool} {s t : State} (h : dmaStep n l s = .ok t) : UnitsWork s t := by
  have rest : ∀ {b w : Bool} {u : State},
      (match dmaAcknowledge l b u with | none => Except.ok u | some s1 => dmaPart n w s1) = .ok t → UnitsWork u t := by
    intro b w u hu
    split at hu
    · cases hu; exact .refl _
    · next hs => exact (dmaAcknowledge_work hs).trans (dmaPart_work hu)
  unfold dmaStep at h
  split at h
  · cases h
    exact (unitsWork_setStat _ s).trans (dmaContinue_work ..)
  · split at h
    · cases h; exact (unitsWork_dma _ s).trans (unitsWork_setStat ..)
    · split at h
      · unfold dmaMid at h
        split at h
        · cases h; exact unitsWork_setStat ..
        · exact (unitsWork_setStat _ s).trans (rest h)
      · unfold dmaBetween at h
        split at h
        · cases h; exact unitsWork_setStat ..
        split at h
        · cases h; exact unitsWork_setStat ..
        · exact (unitsWork_setStat _ s).trans (rest h)

/-- Another place in the step is no change of the machine. -/
theorem unitsWork_elapsed (n : Nat) (s : State) : UnitsWork s { s with elapsed := n } :=
  unitsWork_load (s := s) (t := { s with elapsed := n }) rfl

theorem dmaSteps_work {l : List Addr} {k : Nat} {t : State} :
    ∀ {n : Nat} {s : State}, dmaSteps l k n s = .ok t → UnitsWork s t
  | 0, s, h => by cases h; exact .refl _
  | n + 1, s, h => by
    unfold dmaSteps at h
    split at h
    · next u hu =>
      exact (unitsWork_elapsed _ s).trans ((dmaStep_work hu).trans ((unitsWork_dma _ u).trans (dmaSteps_work h)))
    · cases h

/-- What falls within an instruction. -/
theorem dmaWithin_work {l : List Addr} {s t : State} (h : dmaWithin l s = .ok t) : UnitsWork s t := by
  unfold dmaWithin at h
  split at h
  · cases h; exact .refl s
  · obtain ⟨u, hu, h⟩ := bind_eq_ok.mp h
    cases h
    exact (unitsWork_env _ s).trans ((dmaSteps_work hu).trans (unitsWork_elapsed ..))

/-- Nothing falls within an instruction unless the environment says so. -/
@[simp] theorem dmaWithin_none {l : List Addr} {s : State} (h : s.env.dmaWithin = []) : dmaWithin l s = .ok s := by
  unfold dmaWithin; rw [h]

/-! ## Data accesses of an instruction -/

/-- An operand's load, whatever the DMA controller does before it. -/
theorem load_work {a : Addr} {s t : State} {w : Word} (h : load a s = .ok (w, t)) : UnitsWork s t := by
  obtain ⟨u, hu, h⟩ := bind_eq_ok.mp h
  exact (dmaWithin_work hu).trans (unitsWork_load (loadFor_keeps h))

/-- A store, whatever the DMA controller does before it. -/
theorem storeWith_work {l : List Addr} {a : Addr} {v : Word} {s t : State} (h : storeWith l a v s = .ok t) :
    UnitsWork s t := by
  obtain ⟨u, hu, h⟩ := bind_eq_ok.mp h
  exact (dmaWithin_work hu).trans (unitsWork_store h)

/-- The second of two stores, whatever the DMA controller does before it. -/
theorem storeSecond_work {f a : Addr} {v : Word} {s t : State} (h : storeSecond f a v s = .ok t) : UnitsWork s t := by
  obtain ⟨u, hu, h⟩ := bind_eq_ok.mp h
  exact (dmaWithin_work hu).trans (unitsWork_store h)

/-- A parallel store: a store at a later cycle, whatever the DMA controller does before it. -/
theorem storeLater_cases {a : Addr} {v : Word} {s t : State} (h : storeLater a v s = .ok t) :
    ∃ u w, dmaWithin [a] s = .ok u ∧ storeFor false a v { u with elapsed := u.elapsed + storeDelay } = .ok w ∧
      t = { w with elapsed := w.elapsed - storeDelay } := by
  obtain ⟨u, hu, h⟩ := bind_eq_ok.mp h
  obtain ⟨w, hw, h⟩ := bind_eq_ok.mp h
  cases h
  exact ⟨u, w, hu, hw, rfl⟩

theorem storeLater_work {a : Addr} {v : Word} {s t : State} (h : storeLater a v s = .ok t) : UnitsWork s t := by
  obtain ⟨u, w, hu, hw, rfl⟩ := storeLater_cases h
  exact (dmaWithin_work hu).trans ((unitsWork_elapsed _ u).trans ((unitsWork_store hw).trans (unitsWork_elapsed _ w)))

theorem store_work {a : Addr} {v : Word} {s t : State} (h : store a v s = .ok t) : UnitsWork s t := storeWith_work h

theorem load_eq {a : Addr} {s : State} (h : s.env.dmaWithin = []) : load a s = loadFor .data a s := by
  simp [load, dmaWithin_none h]

theorem storeWith_eq {l : List Addr} {a : Addr} {v : Word} {s : State} (h : s.env.dmaWithin = []) :
    storeWith l a v s = storeFor false a v s := by
  simp [storeWith, dmaWithin_none h]

theorem store_eq {a : Addr} {v : Word} {s : State} (h : s.env.dmaWithin = []) : store a v s = storeFor false a v s :=
  storeWith_eq h

/-- Without a cycle of the DMA controller, a load changes at most what `loadPart` leaves out. -/
theorem load_keeps {a : Addr} {s t : State} {w : Word} (hd : s.env.dmaWithin = []) (h : load a s = .ok (w, t)) :
    loadPart t = loadPart s := loadFor_keeps (load_eq hd ▸ h)

theorem store_keeps {a : Addr} {v : Word} {s t : State} (hd : s.env.dmaWithin = []) (h : store a v s = .ok t) :
    storePart t = storePart s := storeAfter_keeps (store_eq hd ▸ h)

theorem store_bytes {a : Addr} {v : Word} {s t : State} (hd : s.env.dmaWithin = []) (h : store a v s = .ok t) :
    KeepsBytes [a] s t := storeAfter_bytes (store_eq hd ▸ h)

theorem storeLater_keeps {a : Addr} {v : Word} {s t : State} (hd : s.env.dmaWithin = []) (h : storeLater a v s = .ok t) :
    storePart t = storePart s := by
  obtain ⟨u, w, hu, hw, rfl⟩ := storeLater_cases h
  rw [dmaWithin_none hd] at hu
  cases hu
  exact (storePart_elapsed _ w).trans ((storeAfter_keeps hw).trans (storePart_elapsed _ s))

theorem storeLater_bytes {a : Addr} {v : Word} {s t : State} (hd : s.env.dmaWithin = []) (h : storeLater a v s = .ok t) :
    KeepsBytes [a] s t := by
  obtain ⟨u, w, hu, hw, rfl⟩ := storeLater_cases h
  rw [dmaWithin_none hd] at hu
  cases hu
  exact fun b hb => storeAfter_bytes (s := { s with elapsed := s.elapsed + storeDelay }) hw b hb

theorem storeSecond_eq {f a : Addr} {v : Word} {s : State} (h : s.env.dmaWithin = []) :
    storeSecond f a v s = storeAfter (if !offChip s f && offChip s a then 1 else 0) false a v s := by
  simp [storeSecond, dmaWithin_none h]

theorem storeSecond_keeps {f a : Addr} {v : Word} {s t : State} (hd : s.env.dmaWithin = [])
    (h : storeSecond f a v s = .ok t) : storePart t = storePart s := storeAfter_keeps (storeSecond_eq hd ▸ h)

theorem storeSecond_bytes {f a : Addr} {v : Word} {s t : State} (hd : s.env.dmaWithin = [])
    (h : storeSecond f a v s = .ok t) : KeepsBytes [a] s t := storeAfter_bytes (storeSecond_eq hd ▸ h)

/-- The one more read of an operand changes what a load may. -/
theorem dummyRead_keeps (a : Addr) (s : State) : loadPart (dummyRead a s) = loadPart s := by
  unfold dummyRead
  split
  · dsimp only
    split
    · split
      · next h => exact (loadFor_keeps h).trans rfl
      · rfl
    · rfl
  · rfl

/-- Nothing is read twice but directly after a single external store. -/
@[simp] theorem dummyRead_none {a : Addr} {s : State} (h : (offChip s a && s.outBefore == 1) = false) : dummyRead a s = s := by
  unfold dummyRead; rw [h]; rfl

/-- An operand of a three-operand or parallel instruction. -/
theorem readOperand_work {l : List Addr} {a : Addr} {s t : State} {w : Word} (h : readOperand l a s = .ok (w, t)) :
    UnitsWork s t := by
  obtain ⟨u, hu, h⟩ := bind_eq_ok.mp h
  exact (unitsWork_load (dummyRead_keeps a s)).trans ((dmaWithin_work hu).trans (unitsWork_load (loadFor_keeps h)))

theorem readOperand_keeps {l : List Addr} {a : Addr} {s t : State} {w : Word} (hd : s.env.dmaWithin = [])
    (h : readOperand l a s = .ok (w, t)) : loadPart t = loadPart s := by
  have e : (dummyRead a s).env.dmaWithin = [] :=
    (congrArg (fun x : State => x.env.dmaWithin) (dummyRead_keeps a s)).trans hd
  obtain ⟨u, hu, h⟩ := bind_eq_ok.mp h
  rw [dmaWithin_none e] at hu
  cases hu
  exact (loadFor_keeps h).trans (dummyRead_keeps a s)

/-- On-chip, or not after an external store, an operand is read as any other. -/
theorem readOperand_eq {l : List Addr} {a : Addr} {s : State} (hd : s.env.dmaWithin = [])
    (h : (offChip s a && s.outBefore == 1) = false) : readOperand l a s = loadFor .data a s := by
  simp [readOperand, dummyRead_none h, dmaWithin_none hd]

/-- The first of two reads: an operand's read, and one more cycle where they are apart. -/
theorem readFirst_cases {b : Bool} {o a : Addr} {s t : State} {w : Word} (h : readFirst b o a s = .ok (w, t)) :
    ∃ l u, readOperand l a s = .ok (w, u) ∧ t = if b then { u with elapsed := u.elapsed + 1 } else u := by
  obtain ⟨⟨x, u⟩, hu, h⟩ := bind_eq_ok.mp h
  cases h
  exact ⟨_, u, hu, rfl⟩

theorem readFirst_work {b : Bool} {o a : Addr} {s t : State} {w : Word} (h : readFirst b o a s = .ok (w, t)) :
    UnitsWork s t := by
  obtain ⟨l, u, hu, rfl⟩ := readFirst_cases h
  cases b
  · exact readOperand_work hu
  · exact (readOperand_work hu).trans (unitsWork_elapsed _ u)

theorem readFirst_keeps {b : Bool} {o a : Addr} {s t : State} {w : Word} (hd : s.env.dmaWithin = [])
    (h : readFirst b o a s = .ok (w, t)) : loadPart t = loadPart s := by
  obtain ⟨l, u, hu, rfl⟩ := readFirst_cases h
  cases b
  · exact readOperand_keeps hd hu
  · exact (loadPart_elapsed _ u).trans (readOperand_keeps hd hu)

/-! ## Addresses and operands -/

/-- An updated auxiliary register is the only change of an address update. -/
theorem updateAr_eq {δ : Type} (i : Ind δ) (o : Option Addr) (s : State) :
    ∃ v, updateAr i o s = { s with ar := s.ar.set i.arCode.toNat v } := by
  cases o with
  | none =>
    refine ⟨s.ar[i.arCode.toNat], ?_⟩
    simp [updateAr, Vector.set_getElem_self]
  | some a => exact ⟨_, rfl⟩

/-- The address of a memory operand: at most auxiliary registers change. -/
theorem memAddr_cases {m : MemOp} {s t : State} {a : Addr} (h : memAddr m s = .ok (a, t)) :
    ∃ v, t = { s with ar := v } := by
  cases m with
  | dir d => cases h; exact ⟨_, rfl⟩
  | ind i =>
    obtain ⟨g, -, hg⟩ := map_eq_ok.mp h
    cases hg
    obtain ⟨v, hv⟩ := updateAr_eq i g.2 s
    exact ⟨_, hv⟩

/-- Two parallel addresses: at most auxiliary registers change. -/
theorem indirectPair_cases {hi lo : Ind Unit} {s t : State} {a b : Addr} (h : indirectPair hi lo s = .ok (a, b, t)) :
    ∃ v, t = { s with ar := v } := by
  obtain ⟨g, -, h⟩ := bind_eq_ok.mp h
  obtain ⟨g', -, h⟩ := bind_eq_ok.mp h
  cases h
  split
  · obtain ⟨v, hv⟩ := updateAr_eq hi g.2 s
    exact ⟨_, hv⟩
  · obtain ⟨v, hv⟩ := updateAr_eq lo g'.2 s
    obtain ⟨u, hu⟩ := updateAr_eq hi g.2 (updateAr lo g'.2 s)
    exact ⟨_, by rw [hu, hv]⟩

/-- One three-operand address: at most auxiliary registers change. -/
theorem indirect3_cases {i : Ind Unit} {s t : State} {a : Addr} (h : indirect3 i s = .ok (a, t)) :
    ∃ v, t = { s with ar := v } := by
  obtain ⟨g, -, hg⟩ := map_eq_ok.mp h
  cases hg
  obtain ⟨v, hv⟩ := updateAr_eq i g.2 s
  exact ⟨_, hv⟩

/-- Reading operands: auxiliary registers, and what a load may change; where no cycle of the DMA controller falls before it,
only what `loadPart` leaves out. -/
def Fetched (s t : State) : Prop :=
  ∃ v, UnitsWork { s with ar := v } t ∧ (s.env.dmaWithin = [] → loadPart t = loadPart { s with ar := v })

theorem Fetched.refl (s : State) : Fetched s s := ⟨s.ar, .refl _, fun _ => rfl⟩

theorem fetched_load {s t : State} {v : Vector Word 8} {a : Addr} {w : Word} (h : load a { s with ar := v } = .ok (w, t)) :
    Fetched s t := ⟨v, load_work h, fun hd => load_keeps (s := { s with ar := v }) hd h⟩

/-- A second load after a first. -/
theorem Fetched.load {s t u : State} {a : Addr} {w : Word} (h : Fetched s t) (k : load a t = .ok (w, u)) : Fetched s u := by
  obtain ⟨v, h1, h2⟩ := h
  refine ⟨v, h1.trans (load_work k), fun hd => ?_⟩
  have e := h2 hd
  have hd' : t.env.dmaWithin = [] := (congrArg (fun x : State => x.env.dmaWithin) e).trans hd
  exact (load_keeps hd' k).trans e

/-- An operand of a three-operand or parallel instruction after another. -/
theorem Fetched.operand {l : List Addr} {s t u : State} {a : Addr} {w : Word} (h : Fetched s t)
    (k : readOperand l a t = .ok (w, u)) : Fetched s u := by
  obtain ⟨v, h1, h2⟩ := h
  refine ⟨v, h1.trans (readOperand_work k), fun hd => ?_⟩
  have e := h2 hd
  have hd' : t.env.dmaWithin = [] := (congrArg (fun x : State => x.env.dmaWithin) e).trans hd
  exact (readOperand_keeps hd' k).trans e

/-- The first of two operands after others. -/
theorem Fetched.first {b : Bool} {s t u : State} {o a : Addr} {w : Word} (h : Fetched s t)
    (k : readFirst b o a t = .ok (w, u)) : Fetched s u := by
  obtain ⟨v, h1, h2⟩ := h
  refine ⟨v, h1.trans (readFirst_work k), fun hd => ?_⟩
  have e := h2 hd
  have hd' : t.env.dmaWithin = [] := (congrArg (fun x : State => x.env.dmaWithin) e).trans hd
  exact (readFirst_keeps hd' k).trans e

/-- A memory operand's word. -/
theorem memSrc_fetched {m : MemOp} {s t : State} {w : Word} (h : memSrc m s = .ok (w, t)) : Fetched s t := by
  obtain ⟨⟨a, u⟩, ha, h⟩ := bind_eq_ok.mp h
  obtain ⟨v, rfl⟩ := memAddr_cases ha
  exact fetched_load h

/-- A source of the integer or logical kind. -/
theorem srcWord_fetched {ext : BitVec 16 → Word} {x : Src Reg} {s t : State} {w : Word}
    (h : srcWord ext x s = .ok (w, t)) : Fetched s t := by
  cases x with
  | reg r => cases h; exact .refl s
  | dir a => exact (Fetched.refl s).load h
  | ind i => exact memSrc_fetched h
  | imm v => cases h; exact .refl s

/-- A source of a floating-point kind. -/
theorem srcExt_fetched {mem : Word → Ext} {imm : BitVec 16 → Ext} {x : Src FReg} {s t : State} {w : Ext}
    (h : srcExt mem imm x s = .ok (w, t)) : Fetched s t := by
  cases x with
  | reg r => cases h; exact .refl s
  | dir a =>
    obtain ⟨⟨y, u⟩, hy, he⟩ := map_eq_ok.mp h
    cases he
    exact (Fetched.refl s).load hy
  | ind i =>
    obtain ⟨⟨y, u⟩, hy, he⟩ := map_eq_ok.mp h
    cases he
    exact memSrc_fetched hy
  | imm v => cases h; exact .refl s

/-- Two loads, one after the other. -/
theorem Fetched.loadPair {a b : Addr} {s t u : State} {x y : Word} (h : Fetched s t) (k : loadPair a b t = .ok (x, y, u)) :
    Fetched s u := by
  obtain ⟨⟨_, s1⟩, hu, k⟩ := bind_eq_ok.mp k
  obtain ⟨⟨_, s2⟩, hv, k⟩ := bind_eq_ok.mp k
  cases k
  exact (h.first hu).operand hv

/-- The two loads of a parallel multiply, in either order. -/
theorem Fetched.loadMul {a b : Addr} {s t u : State} {x y : Word} (h : Fetched s t) (k : loadMul a b t = .ok (x, y, u)) :
    Fetched s u := by
  unfold Machine.loadMul at k
  split at k
  · obtain ⟨⟨_, s1⟩, hu, k⟩ := bind_eq_ok.mp k
    obtain ⟨⟨_, s2⟩, hv, k⟩ := bind_eq_ok.mp k
    cases k
    exact (h.first hu).operand hv
  · exact h.loadPair k

/-- The two sources of a three-operand instruction. -/
theorem srcPair_fetched {ρ α : Type} {reg : ρ → State → α} {mem : Word → α} {p q : Src3 ρ} {s t : State} {x y : α}
    (h : srcPair reg mem p q s = .ok (x, y, t)) : Fetched s t := by
  cases p with
  | reg a =>
    cases q with
    | reg b => cases h; exact .refl s
    | ind j =>
      obtain ⟨⟨b, s1⟩, hb, h⟩ := bind_eq_ok.mp h
      obtain ⟨⟨y', s2⟩, hy, h⟩ := bind_eq_ok.mp h
      cases h
      obtain ⟨v, rfl⟩ := indirect3_cases hb
      exact Fetched.operand ⟨v, .refl _, fun _ => rfl⟩ hy
  | ind i =>
    cases q with
    | reg b =>
      obtain ⟨⟨a, s1⟩, ha, h⟩ := bind_eq_ok.mp h
      obtain ⟨⟨x', s2⟩, hx, h⟩ := bind_eq_ok.mp h
      cases h
      obtain ⟨v, rfl⟩ := indirect3_cases ha
      exact Fetched.operand ⟨v, .refl _, fun _ => rfl⟩ hx
    | ind j =>
      obtain ⟨⟨a, b, s1⟩, ha, h⟩ := bind_eq_ok.mp h
      obtain ⟨⟨x', y', s2⟩, hx, h⟩ := bind_eq_ok.mp h
      cases h
      obtain ⟨v, rfl⟩ := indirectPair_cases ha
      exact Fetched.loadPair ⟨v, .refl _, fun _ => rfl⟩ hx

/-- Reading operands leaves the PC. -/
theorem Fetched.pc {s t : State} (h : Fetched s t) : t.pc = s.pc := by
  obtain ⟨v, h, -⟩ := h
  have e := congrArg State.pc h.1
  exact e

/-! ## The stack and exceptions -/

/-- A push, as a store at the incremented SP. -/
theorem push_eq (v : Word) (s : State) :
    push v s = store ((s.sp + 1).extractLsb' 0 24) v { s with sp := s.sp + 1 } := rfl

/-- A pop: the word on top, SP decremented, nothing else but what a load changes. -/
theorem pop_cases {s t : State} {w : Word} (h : pop s = .ok (w, t)) :
    ∃ u, load (s.sp.extractLsb' 0 24) s = .ok (w, u) ∧ t = { u with sp := u.sp - 1 } := by
  obtain ⟨⟨v, u⟩, hu, h⟩ := bind_eq_ok.mp h
  cases h
  exact ⟨u, hu, rfl⟩

/-- An exception taken: GIE cleared, the return address pushed, the PC from the vector. -/
theorem enterException_cases {v ret : Addr} {s t : State} (h : enterException v ret s = .ok t) :
    ∃ s1 w s2, push (ret.setWidth 32) (setGie false s) = .ok s1 ∧ loadFor .vector v s1 = .ok (w, s2) ∧
      t = { s2 with pc := w.extractLsb' 0 24 } := by
  obtain ⟨s1, h1, h⟩ := bind_eq_ok.mp h
  obtain ⟨⟨a, s2⟩, h2, h⟩ := bind_eq_ok.mp h
  obtain ⟨⟨w, s3⟩, h3, h2⟩ := bind_eq_ok.mp h2
  cases h2; cases h
  exact ⟨s1, w, _, h1, h3, rfl⟩

/-- A popped PC. -/
theorem popPc_cases {s t : State} (h : popPc s = .ok t) :
    ∃ w u, load (s.sp.extractLsb' 0 24) s = .ok (w, u) ∧
      t = { u with sp := u.sp - 1, pc := w.extractLsb' 0 24 } := by
  obtain ⟨⟨w, u⟩, hu, h⟩ := bind_eq_ok.mp h
  obtain ⟨u', hu', rfl⟩ := pop_cases hu
  cases h
  exact ⟨w, u', hu', rfl⟩

/-- A return from an exception: the PC popped, GIE set. -/
theorem returnFromException_cases {s t : State} (h : returnFromException s = .ok t) :
    ∃ w u, load (s.sp.extractLsb' 0 24) s = .ok (w, u) ∧
      t = { setGie true { u with sp := u.sp - 1, pc := w.extractLsb' 0 24 } with
        windowGie := u.windowGie || u.intWindow.isSome } := by
  obtain ⟨u, hu, h⟩ := bind_eq_ok.mp h
  cases h
  obtain ⟨w, x, hx, rfl⟩ := popPc_cases hu
  exact ⟨w, x, hx, rfl⟩

end Sys2Proof.Machine
end

