-- ==== Sys2Proof/Laws/Registers.lean ====
section
/-! SUPPORT. What a write of a register changes, and how an instruction of each shape completes. -/
namespace Sys2Proof.Machine

/-- Everything a write of a register may change: registers, and with ST the cache and the marks of repeats and interrupts. -/
theorem writeReg_changes {q : Reg} {v : Word} {s t : State} (h : writeReg q v s = .ok t) :
    ∃ r ar dp ir0 ir1 bk sp st ie ifr iof rs re rc c g l o w x, t = { s with
      r := r, ar := ar, dp := dp, ir0 := ir0, ir1 := ir1, bk := bk, sp := sp, st := st, ie := ie, ifr := ifr, iof := iof
      rs := rs, re := re, rc := rc, cache := c, windowGie := g, loopLoad := l, loopOldRes := o, ifWritten := w
      rcBefore := x } := by
  cases q with
  | st =>
    cases h
    unfold writeSt
    split <;> exact ⟨_, _, _, _, _, _, _, _, _, _, _, _, _, _, _, _, _, _, _, _, rfl⟩
  | ie =>
    change writeIe v s = .ok t at h
    unfold writeIe at h
    split at h
    · cases h
    · cases h; exact ⟨_, _, _, _, _, _, _, _, _, _, _, _, _, _, _, _, _, _, _, _, rfl⟩
  | _ => cases h; exact ⟨_, _, _, _, _, _, _, _, _, _, _, _, _, _, _, _, _, _, _, _, rfl⟩

theorem writeReg_pc {q : Reg} {v : Word} {s t : State} (h : writeReg q v s = .ok t) : t.pc = s.pc := by
  obtain ⟨_, _, _, _, _, _, _, _, _, _, _, _, _, _, _, _, _, _, _, _, rfl⟩ := writeReg_changes h; rfl

theorem writeReg_mem {q : Reg} {v : Word} {s t : State} (h : writeReg q v s = .ok t) : t.mem = s.mem := by
  obtain ⟨_, _, _, _, _, _, _, _, _, _, _, _, _, _, _, _, _, _, _, _, rfl⟩ := writeReg_changes h; rfl

/-- A result delivered: the register written by its own rule, then the flags where it is one of R0-R7. -/
theorem deliver_eq {dst : Reg} {e : Effect Word} {s t : State} (h : writeReg dst e.out s = .ok t) :
    deliver dst e s = .ok (if setsFlags dst then applyFlags e.flags t else t) := by
  simp [deliver, h]

/-- A delivered result, taken apart. -/
theorem deliver_cases {dst : Reg} {e : Effect Word} {s u : State} (h : deliver dst e s = .ok u) :
    ∃ t, writeReg dst e.out s = .ok t ∧ u = if setsFlags dst then applyFlags e.flags t else t := by
  obtain ⟨t, ht, h⟩ := bind_eq_ok.mp h
  cases h
  exact ⟨t, ht, rfl⟩

/-- How an instruction that delivers an integer result completes. -/
theorem givesInt_of_deliver {i : Instr} {s s₁ : State} {dst : Reg} {x : Expected Word} {e : Effect Word}
    (hexec : exec i s = outcome s ((deliver dst e s₁).map advance)) (hpc : s₁.pc = s.pc) (hout : e.out = x.out)
    (hfl : ∀ st, FlagsAre x st (e.flags st)) : GivesInt i s s₁ dst x := by
  intro s₂ h
  rw [← hout] at h
  have hp : s₂.pc = s.pc := (writeReg_pc h).trans hpc
  rw [hexec, deliver_eq h]
  by_cases hd : setsFlags dst = true
  · refine ⟨e.flags s₂.st, ?_, ?_⟩
    · simp [hd, Except.map, applyFlags, advance, hp]
    · simpa [hd] using hfl _
  · refine ⟨s₂.st, ?_, ?_⟩
    · simp [hd, Except.map, advance, hp]
    · simp [hd]

/-- How an instruction that delivers a 40-bit result completes. -/
theorem givesFlt_of_deliver {i : Instr} {s s₁ : State} {dst : FReg} {x : Expected Ext} {e : Effect Ext}
    (hexec : exec i s = .next (advance (deliverFlt dst e s₁))) (hpc : s₁.pc = s.pc) (hout : e.out = x.out)
    (hfl : ∀ st, FlagsAre x st (e.flags st)) : GivesFlt i s s₁ dst x := by
  refine ⟨e.flags s₁.st, ?_, hfl _⟩
  rw [hexec]
  simp [deliverFlt, applyFlags, advance, writeExt, hpc, hout]

/-- How an instruction that writes flags only completes. -/
theorem givesFlags_of_apply {α : Type} {i : Instr} {s s₁ : State} {x : Expected α} {f : Word → Word}
    (hexec : exec i s = .next (advance (applyFlags f s₁))) (hpc : s₁.pc = s.pc)
    (hfl : ∀ st, FlagsAre x st (f st)) : GivesFlags i s s₁ x := by
  refine ⟨f s₁.st, ?_, hfl _⟩
  rw [hexec]
  simp [applyFlags, advance, hpc]

/-- The general form on an integer destination, once its source has been read. -/
theorem twoInt_of_src {get : Src Reg → State → Except Stop (Word × State)} {op : Word → Word → Word → Effect Word}
    {src : Src Reg} {dst : Reg} {s s₁ : State} {b : Word} (h : get src s = .ok (b, s₁)) :
    twoInt get op src dst s = (deliver dst (op s₁.st b (readReg dst s₁)) s₁).map advance := by
  simp only [twoInt, h, ok_bind]
  cases deliver dst (op s₁.st b (readReg dst s₁)) s₁ <;> rfl

/-- The general form on a floating-point destination, once its source has been read. -/
theorem twoFlt_of_src {op : Ext → Ext → Effect Ext} {src : Src FReg} {dst : FReg} {s s₁ : State} {b : Ext}
    (h : srcFlt src s = .ok (b, s₁)) :
    twoFlt op src dst s = .ok (advance (deliverFlt dst (op b (readExt dst s₁)) s₁)) := by
  simp only [twoFlt, h, ok_bind, pure_eq_ok]

/-- The three-operand form on an integer destination, once its sources have been read. -/
theorem threeInt_of_src {op : Word → Word → Word → Effect Word} {x y : Src3 Reg} {dst : Reg} {s s₁ : State} {a b : Word}
    (h : srcPairInt x y s = .ok (a, b, s₁)) :
    threeInt op x y dst s = (deliver dst (op s₁.st a b) s₁).map advance := by
  simp only [threeInt, h, ok_bind]
  cases deliver dst (op s₁.st a b) s₁ <;> rfl

/-- The three-operand form on a floating-point destination. -/
theorem threeFlt_of_src {op : Ext → Ext → Effect Ext} {x y : Src3 FReg} {dst : FReg} {s s₁ : State} {a b : Ext}
    (h : srcPairFlt x y s = .ok (a, b, s₁)) :
    threeFlt op x y dst s = .ok (advance (deliverFlt dst (op a b) s₁)) := by
  simp only [threeFlt, h, ok_bind, pure_eq_ok]

/-- One register, read and written. -/
theorem oneInt_eq {op : Word → Word → Effect Word} {dst : Reg} {s : State} :
    oneInt op dst s = (deliver dst (op s.st (readReg dst s)) s).map advance := by
  simp only [oneInt]
  cases deliver dst (op s.st (readReg dst s)) s <;> rfl

/-- Reading a source leaves the PC. -/
theorem srcWord_pc {ext : BitVec 16 → Word} {x : Src Reg} {s t : State} {w : Word} (h : srcWord ext x s = .ok (w, t)) :
    t.pc = s.pc := (srcWord_fetched h).pc

theorem srcExt_pc {mem : Word → Ext} {imm : BitVec 16 → Ext} {x : Src FReg} {s t : State} {w : Ext}
    (h : srcExt mem imm x s = .ok (w, t)) : t.pc = s.pc := (srcExt_fetched h).pc

theorem srcPair_pc {ρ α : Type} {reg : ρ → State → α} {mem : Word → α} {p q : Src3 ρ} {s t : State} {x y : α}
    (h : srcPair reg mem p q s = .ok (x, y, t)) : t.pc = s.pc := (srcPair_fetched h).pc

/-- Outside a repeat mode an instruction reads RC as it is. -/
theorem rcRead_outside {s : State} (h : s.st.getLsbD 8 = false) : rcRead s = s.rc := by
  unfold rcRead; rw [h]; rfl

/-- A free number is within its bound. -/
theorem freeUpTo_le (s : State) (k n : Nat) : freeUpTo s k n ≤ n := by
  induction n with
  | zero => exact Nat.le_refl 0
  | succ n ih => simp only [freeUpTo]; split <;> omega

/-- At most four decrements of RC can be ahead of a read. -/
theorem fetchedEnds_le (s : State) : fetchedEnds s ≤ 4 := by
  unfold fetchedEnds
  split
  · exact Nat.le_refl 4
  · split
    · omega
    · have h := Nat.div_le_self (3 - (s.re.extractLsb' 0 24 - s.pc).toNat)
        (s.re.extractLsb' 0 24 - s.rs.extractLsb' 0 24 + 1).toNat
      omega

end Sys2Proof.Machine
end

