-- ==== Sys2Proof/Laws/Cycle.lean ====
section
/-! SUPPORT. What an H1 cycle of the pins, the peripherals and the DMA controller can change, and how a step is made up. -/
namespace Sys2Proof.Machine

/-! ## A cycle, and several -/

/-- Changes that touch nothing of the CPU and nothing of the units' invariant. -/
theorem unitsWork_of {s t : State} (h : cpuPart t = cpuPart s) (hm : t.mem = s.mem) (hi : t.ifr = s.ifr)
    (hp : t.primaryCtl = s.primaryCtl) (he : t.expansionCtl = s.expansionCtl) : UnitsWork s t :=
  ⟨h, fun i => ⟨hm ▸ i.mem, hi ▸ i.ifr, hp ▸ i.primary, he ▸ i.expansion⟩⟩

theorem pinCycle_work (s : State) : UnitsWork s (pinCycle s) := by
  unfold pinCycle
  split <;> exact unitsWork_of rfl rfl rfl rfl rfl

theorem intCycle_work (s : State) : UnitsWork s (intCycle s) :=
  (unitsWork_of (s := s) (t := { s with
      sync0 := (syncCycle s.sync0 s.pins.int0).1, sync1 := (syncCycle s.sync1 s.pins.int1).1
      sync2 := (syncCycle s.sync2 s.pins.int2).1, sync3 := (syncCycle s.sync3 s.pins.int3).1 })
    rfl rfl rfl rfl rfl).trans (unitsWork_raise ..)

theorem timersCycle_work (s : State) : UnitsWork s (timersCycle s) :=
  (unitsWork_of (s := s) (t := { s with
      timer0 := (timerCycle s.timer0 s.pins.tclk0).1, timer1 := (timerCycle s.timer1 s.pins.tclk1).1 })
    rfl rfl rfl rfl rfl).trans (unitsWork_raise ..)

/-- A port's registers replaced. -/
theorem unitsWork_port0 (p : SerialPort) (s : State) : UnitsWork s { s with port0 := p } :=
  unitsWork_of rfl rfl rfl rfl rfl

theorem unitsWork_port1 (p : SerialPort) (s : State) : UnitsWork s { s with port1 := p } :=
  unitsWork_of rfl rfl rfl rfl rfl

theorem portsCycle_work (s : State) : UnitsWork s (portsCycle s) := by
  have h := (unitsWork_port0 (serialCycle s.port0 s.pins.port0).1 s).trans (unitsWork_raise
    (flagBit 4 (serialCycle s.port0 s.pins.port0).2.1 ||| flagBit 5 (serialCycle s.port0 s.pins.port0).2.2) _)
  unfold portsCycle
  dsimp only
  split
  · exact h.trans ((unitsWork_port1 _ _).trans (unitsWork_raise ..))
  · exact h

/-- What other masters write keeps memory's canonical form. -/
theorem memWf_masterWrite (s : State) : ∀ (l : List (Addr × Word)) {m : List Host.Cell}, MemWf m → MemWf (masterWrite s m l)
  | [], _, h => h
  | (a, v) :: l, m, h => by
    unfold masterWrite
    apply memWf_masterWrite s l
    split
    · exact memWf_memWriteWord a v h
    · exact h

theorem masterCycle_work (s : State) : UnitsWork s (masterCycle s) := by
  unfold masterCycle
  split
  · exact ⟨rfl, fun i => ⟨memWf_masterWrite s _ i.mem, i.ifr, i.primary, i.expansion⟩⟩
  · exact .refl s

theorem endCycle_work (s : State) : UnitsWork s (endCycle s) := unitsWork_of rfl rfl rfl rfl rfl

theorem dmaCycle_work {l : Bool} {s t : State} (h : dmaCycle l s = .ok t) : UnitsWork s t := by
  unfold dmaCycle at h
  split at h
  · cases h; exact unitsWork_dma ..
  · exact dmaStep_work h

/-- One H1 cycle is the units' work only. -/
theorem tick_work {l : Bool} {s t : State} (h : tick l s = .ok t) : UnitsWork s t := by
  unfold tick at h
  have h0 : UnitsWork s { s with freeCount := s.freeCount + freeStride, shared := 0#11 } := unitsWork_of rfl rfl rfl rfl rfl
  dsimp only at h
  split at h
  · cases h
    refine h0.trans (UnitsWork.trans ?_ ((masterCycle_work _).trans (pinCycle_work _)))
    split
    · exact unitsWork_of rfl rfl rfl rfl rfl
    · exact .refl _
  · obtain ⟨u, hu, rfl⟩ := map_eq_ok.mp h
    exact h0.trans ((masterCycle_work _).trans ((intCycle_work _).trans ((timersCycle_work _).trans
      ((portsCycle_work _).trans ((dmaCycle_work hu).trans ((endCycle_work u).trans (pinCycle_work _)))))))

/-- Several H1 cycles are the units' work only. -/
theorem ticks_work {t : State} : ∀ {n : Nat} {s : State}, ticks n s = .ok t → UnitsWork s t
  | 0, s, h => by cases h; exact .refl _
  | n + 1, s, h => by
    unfold ticks at h
    split at h
    · split at h
      · next u hu => exact (tick_work hu).trans (ticks_work h)
      · cases h
    · cases h; exact .refl _

theorem stopClocks_work (s : State) : UnitsWork s (stopClocks s) := by
  unfold stopClocks
  split
  · exact unitsWork_of rfl rfl rfl rfl rfl
  · exact .refl s

/-- The cycles of the previous step are the units' work only. -/
theorem passTime_work {s t : State} (h : passTime s = .ok t) : UnitsWork s t := by
  obtain ⟨u, hu, rfl⟩ := map_eq_ok.mp h
  have h0 : UnitsWork s { s with elapsed := 0, ifSet := 0#11 } := unitsWork_of rfl rfl rfl rfl rfl
  have h1 : UnitsWork u { u with ifWritten := false } := unitsWork_of rfl rfl rfl rfl rfl
  exact h0.trans ((ticks_work hu).trans (h1.trans (stopClocks_work _)))

/-- So what no unit changes is as it was: the reset count and the boot among it. -/
theorem passTime_keeps {s t : State} (h : passTime s = .ok t) :
    t.resetLow = s.resetLow ∧ t.booting = s.booting ∧ t.intWindow = s.intWindow ∧ t.windowGie = s.windowGie ∧
      t.lockWait = s.lockWait ∧ t.device = s.device ∧ t.rom = s.rom := by
  have k := (passTime_work h).1
  have e1 := congrArg State.resetLow k
  have e2 := congrArg State.booting k
  have e3 := congrArg State.intWindow k
  have e4 := congrArg State.windowGie k
  have e5 := congrArg State.lockWait k
  have e6 := congrArg State.device k
  have e7 := congrArg State.rom k
  exact ⟨e1, e2, e3, e4, e5, e6, e7⟩

/-! ## Outcomes of a step -/

theorem conclude_eq_next {s t : State} {x : Except Stop State} :
    conclude s x = .next t ↔
      x = .ok t ∨ ∃ e u, x = .error e ∧ stop (ready s) e = .next u ∧ t = waiting u := by
  cases x with
  | ok u => simp [conclude]
  | error e => cases h : stop (ready s) e <;> simp [conclude, waited, h, eq_comm]

theorem retired_eq_next {f : Flow} {w : Word} {s t : State} {x : Host.Outcome State Fault Refusal} :
    retired f w s x = .next t ↔ ∃ u, x = .next u ∧ t = retire f w s u := by
  cases x <;> simp [retired, eq_comm]

/-- A step's instruction: fetched, decoded, free of hazards and run; or its fetch waits. -/
theorem instruction_eq_next {s t : State} (h : instruction s = .next t) :
    (∃ w u i, fetch (ready s) = .ok (w, u) ∧ decode w = .ok i ∧ hazard i u = none ∧
      ∃ v, exec i u = .next v ∧ t = retire (flowOf i) w u v) ∨
    ∃ e u, stop (ready s) e = .next u ∧ t = waiting u := by
  unfold instruction at h
  split at h
  · next e he =>
    rcases conclude_eq_next.mp h with hx | ⟨e', u, -, hu, rfl⟩
    · cases hx
    · exact .inr ⟨e', u, hu, rfl⟩
  · next w u hf =>
    split at h
    · next i hi =>
      unfold runInstr at h
      split at h
      · cases h
      · next hz =>
        obtain ⟨v, hv, rfl⟩ := retired_eq_next.mp h
        exact .inl ⟨w, u, i, hf, hi, hz, v, hv, rfl⟩
    · cases h

/-! ## Fetches -/

/-- The part that a fetch cannot change: what a load cannot, but for the cache, and the extra fetches still to come. -/
def fetchPart (s : State) : State :=
  { loadPart s with cache := .reset, env := { s.env with extReads := [], dummyReads := [], extraFetches := [] } }

theorem fetchPart_of_load {s t : State} (h : loadPart t = loadPart s) : fetchPart t = fetchPart s := by
  have e := congrArg fetchPart h
  exact e

/-- A fetch from memory is a load. -/
theorem fetchMemory_keeps {k : Access} {a : Addr} {s t : State} {w : Word} (h : fetchMemory k a s = .ok (w, t)) :
    loadPart t = loadPart s := by
  obtain ⟨⟨y, v⟩, hy, h⟩ := bind_eq_ok.mp h
  cases h
  exact loadFor_keeps hy

/-- A fetch changes what a load may, and the cache. -/
theorem fetchAt_keeps {k : Access} {a : Addr} {s t : State} {w : Word} (h : fetchAt k a s = .ok (w, t)) :
    fetchPart t = fetchPart s := by
  unfold fetchAt at h
  split at h
  · split at h
    · cases h
      split <;> rfl
    · obtain ⟨⟨x, u⟩, hu, h⟩ := bind_eq_ok.mp h
      have e := fetchPart_of_load (fetchMemory_keeps hu)
      cases h
      split
      · exact e
      · rw [← e]; rfl
  · exact fetchPart_of_load (fetchMemory_keeps h)

/-- Fetches that return nothing change what fetches may. -/
theorem extraFetches_keeps (a : Addr) (l : List (Fin 4)) (s : State) : fetchPart (extraFetches a l s) = fetchPart s := by
  induction l generalizing s with
  | nil => rfl
  | cons d l ih =>
    unfold extraFetches
    split
    · next w t ht => exact (ih t).trans (fetchAt_keeps ht)
    · exact ih s

theorem fetchExtra_keeps (a : Addr) (s : State) : fetchPart (fetchExtra a s) = fetchPart s :=
  (extraFetches_keeps ..).trans rfl

/-- A step's fetch: the held word and nothing else, or what a fetch may change. -/
theorem fetch_keeps {s t : State} {w : Word} (h : fetch s = .ok (w, t)) : fetchPart t = fetchPart s := by
  unfold fetch at h
  split at h
  · cases h; rfl
  · obtain ⟨⟨x, u⟩, hu, he⟩ := map_eq_ok.mp h
    cases he
    exact (fetchExtra_keeps ..).trans (fetchAt_keeps hu)

/-! ## Interlocked loads -/

/-- A step of an interlocked load before it has its word: the account of its port and of its wait, and XF0. -/
theorem lockedRead_waits {p : PortName} {a : Addr} {s t : State} (h : lockedRead p a s = .ok (none, t)) :
    ∃ iof x r n w, loadPart t = loadPart { s with
      iof := iof, xf0Next := x, lockReady := r, lockWait := n, stalled := w } := by
  have cycle : ∀ {n : Nat} {r : Bool} {u : State}, loadPart u = loadPart { s with lockReady := r } →
      lockedCycle p a n u = (none, t) → ∃ iof x r n w, loadPart t = loadPart { s with
        iof := iof, xf0Next := x, lockReady := r, lockWait := n, stalled := w } := by
    intro n r u hu hc
    unfold lockedCycle at hc
    dsimp only at hc
    split at hc
    · cases hc
    · cases hc
      have e := fun (b : Bool) (o : Option Wait) => congrArg (fun x : State => { x with
        iof := setBit u.iof 2 false, xf0Next := xf0Before u.elapsed u, lockWait := n + 2, lockReady := b, stalled := o }) hu
      exact ⟨_, _, _, _, _, e _ _⟩
  have begun := fun c => loadPart_beginRead p c s
  unfold lockedRead at h
  split at h
  · exact cycle (r := s.lockReady) rfl (Except.ok.inj h)
  · obtain ⟨n, -, h⟩ := bind_eq_ok.mp h
    split at h
    · cases h
    · dsimp only [pure_eq_ok] at h
      split at h
      · exact cycle (congrArg (fun x : State => { x with lockReady := false }) (begun _)) (Except.ok.inj h)
      · cases h
        have e := congrArg (fun x : State => { x with lockReady := false, lockWait := 1, stalled := some p.wait })
          (begun (readCycle s a (readLead s p a n) (s.elapsed + readLead s p a n) none))
        exact ⟨s.iof, s.xf0Next, false, 1, some p.wait, e⟩

end Sys2Proof.Machine
end

