-- ==== Sys2Proof/Laws/Effects.lean ====
section
/-! SUPPORT. What the integer operations give, in the terms of their rules: exact sums, products and shifts. -/
namespace Sys2Proof.Machine

theorem carryIn_eq (c : Bool) : carryIn c = c.toNat := by cases c <;> rfl

theorem addEffect_eq (st a b : Word) (c : Bool) :
    addEffect st a b c = intEffect st (a.toInt + b.toInt + c.toNat) (2 ^ 32 ≤ a.toNat + b.toNat + c.toNat) := by
  simp [addEffect, carryIn_eq]

theorem subEffect_eq (st a b : Word) (c : Bool) :
    subEffect st a b c = intEffect st (a.toInt - b.toInt - c.toNat) (a.toNat < b.toNat + c.toNat) := by
  simp [subEffect, carryIn_eq]

theorem absEffect_out (st a : Word) : (absEffect st a).out = (absIs st |a.toInt|).out := by
  simp [absEffect, absIs, sat_eq_clamp, stOvm]

theorem flagsAre_abs (st' st a : Word) : FlagsAre (absIs st' |a.toInt|) st ((absEffect st' a).flags st) := by
  have := flagsAre_opFlags (clamp (st'.getLsbD 7) |a.toInt|) (tooBig |a.toInt|) false false
    (clamp (st'.getLsbD 7) |a.toInt| = 0#32) st
  simpa [absEffect, absIs, sat_eq_clamp, Int.natCast_natAbs, stOvm, not_fits] using this

theorem extractLsb'_24 (a : Word) : a.extractLsb' 0 24 = a.setWidth 24 := by
  apply BitVec.eq_of_getLsbD_eq
  intro i hi
  simp

theorem mpyProduct_eq (a b : Word) : mpyProduct a b = product24 a b := by
  simp [mpyProduct, product24, extractLsb'_24]

theorem mpyEffect_out (st a b : Word) : (mpyEffect st a b).out = (productIs st (product24 a b)).out := by
  simp [mpyEffect, productIs, sat_eq_clamp, stOvm, mpyProduct_eq]

theorem flagsAre_mpy (st' st a b : Word) :
    FlagsAre (productIs st' (product24 a b)) st ((mpyEffect st' a b).flags st) := by
  have := flagsAre_opFlags (clamp (st'.getLsbD 7) (product24 a b)) (tooBig (product24 a b)) false
    (clamp (st'.getLsbD 7) (product24 a b)).msb (clamp (st'.getLsbD 7) (product24 a b) = 0#32) st
  simpa [mpyEffect, productIs, sat_eq_clamp, stOvm, not_fits, mpyProduct_eq] using this

/-! ## Shifts as arithmetic -/

theorem shiftLeft_eq_nat (v : Word) (n : Nat) : v <<< n = BitVec.ofNat 32 (v.toNat * 2 ^ n) := by
  apply BitVec.eq_of_toNat_eq
  simp [BitVec.toNat_shiftLeft, Nat.shiftLeft_eq]

theorem shiftLeft_eq_int (v : Word) (n : Nat) : v <<< n = BitVec.ofInt 32 (v.toInt * 2 ^ n) := by
  rw [BitVec.ofInt_mul, BitVec.ofInt_toInt, BitVec.shiftLeft_eq_mul_twoPow]
  congr 1
  rw [show ((2 : Int) ^ n) = ((2 ^ n : Nat) : Int) by push_cast; rfl, BitVec.ofInt_natCast]
  apply BitVec.eq_of_toNat_eq
  simp [BitVec.toNat_twoPow]

theorem shiftRight_eq_nat (v : Word) (n : Nat) : v >>> n = BitVec.ofNat 32 (v.toNat / 2 ^ n) := by
  apply BitVec.eq_of_toNat_eq
  rw [BitVec.toNat_ushiftRight, Nat.shiftRight_eq_div_pow, BitVec.toNat_ofNat,
    Nat.mod_eq_of_lt (Nat.lt_of_le_of_lt (Nat.div_le_self ..) v.isLt)]

theorem sshiftRight_eq_int (v : Word) (n : Nat) : v.sshiftRight n = BitVec.ofInt 32 (v.toInt / 2 ^ n) := by
  apply BitVec.eq_of_toInt_eq
  rw [BitVec.toInt_sshiftRight, Int.shiftRight_eq_div_pow, BitVec.toInt_ofInt]
  symm
  have h := BitVec.toInt_lt (x := v)
  have h' := BitVec.le_toInt v
  have hp : (1 : Int) ≤ 2 ^ n := one_le_pow₀ (by norm_num)
  push_cast
  apply Int.bmod_eq_of_le
  · have : -(2 ^ 31) ≤ v.toInt / 2 ^ n := by
      rw [Int.le_ediv_iff_mul_le (by omega)]
      norm_num at h' ⊢
      nlinarith
    simpa using this
  · have : v.toInt / 2 ^ n < 2 ^ 31 := by
      rw [Int.ediv_lt_iff_lt_mul (by omega)]
      norm_num at h ⊢
      nlinarith
    simpa using this

/-- ASH as its rule says it, output and flags (R341). -/
theorem ashEffect_eq (c v : Word) :
    (ashEffect c v).out = (ashIs c v).out ∧ ∀ st, FlagsAre (ashIs c v) st ((ashEffect c v).flags st) := by
  unfold ashEffect ashIs shiftCount countOf
  generalize (BitVec.extractLsb' 0 7 c).toInt = k
  dsimp only
  by_cases h1 : 0 < k
  · obtain ⟨n, rfl⟩ : ∃ n : Nat, k = n := ⟨k.toNat, by omega⟩
    have e : ((n : Int) ≤ 32) = (n ≤ 32) := by simp
    simp only [h1, if_true, Int.natAbs_natCast, Int.toNat_natCast, e]
    refine ⟨shiftLeft_eq_int _ _, fun st => ?_⟩
    rw [← shiftLeft_eq_int, not_fits]
    exact flagsAre_shift _ _ _ _
  · by_cases h2 : k < 0
    · obtain ⟨n, rfl⟩ : ∃ n : Nat, k = -n := ⟨(-k).toNat, by omega⟩
      have e : ((n : Int) ≤ 32) = (n ≤ 32) := by simp
      simp only [h1, h2, if_true, if_false, Int.natAbs_neg, Int.natAbs_natCast, neg_neg, Int.toNat_natCast, e]
      refine ⟨sshiftRight_eq_int _ _, fun st => ?_⟩
      rw [← sshiftRight_eq_int]
      exact flagsAre_shift _ _ _ _
    · simp only [h1, h2, if_false]
      exact ⟨rfl, fun st => flagsAre_shift _ _ _ _⟩

/-- LSH as its rule says it, output and flags (R346). -/
theorem lshEffect_eq (c v : Word) :
    (lshEffect c v).out = (lshIs c v).out ∧ ∀ st, FlagsAre (lshIs c v) st ((lshEffect c v).flags st) := by
  unfold lshEffect lshIs shiftCount countOf
  generalize (BitVec.extractLsb' 0 7 c).toInt = k
  dsimp only
  by_cases h1 : 0 < k
  · obtain ⟨n, rfl⟩ : ∃ n : Nat, k = n := ⟨k.toNat, by omega⟩
    have e : ((n : Int) ≤ 32) = (n ≤ 32) := by simp
    simp only [h1, if_true, Int.natAbs_natCast, Int.toNat_natCast, e]
    refine ⟨shiftLeft_eq_nat _ _, fun st => ?_⟩
    rw [← shiftLeft_eq_nat]
    exact flagsAre_shift _ _ _ _
  · by_cases h2 : k < 0
    · obtain ⟨n, rfl⟩ : ∃ n : Nat, k = -n := ⟨(-k).toNat, by omega⟩
      have e : ((n : Int) ≤ 32) = (n ≤ 32) := by simp
      simp only [h1, h2, if_true, if_false, Int.natAbs_neg, Int.natAbs_natCast, neg_neg, Int.toNat_natCast, e]
      refine ⟨shiftRight_eq_nat _ _, fun st => ?_⟩
      rw [← shiftRight_eq_nat]
      exact flagsAre_shift _ _ _ _
    · simp only [h1, h2, if_false]
      exact ⟨rfl, fun st => flagsAre_shift _ _ _ _⟩

/-- ROL is a rotation (R356). -/
theorem rolEffect_eq (x : Word) : rolEffect x = logicEffectC (x.rotateLeft 1) (x.getLsbD 31) := by
  unfold rolEffect
  congr 1
  apply BitVec.eq_of_getLsbD_eq
  intro i hi
  simp only [BitVec.getLsbD_append, BitVec.getLsbD_rotateLeft, BitVec.getLsbD_extractLsb']
  interval_cases i <;> simp

/-- ROR is a rotation (R358). -/
theorem rorEffect_eq (x : Word) : rorEffect x = logicEffectC (x.rotateRight 1) (x.getLsbD 0) := by
  have h : (x.extractLsb' 0 1 ++ x.extractLsb' 1 31 : Word) = x.rotateRight 1 := by
    apply BitVec.eq_of_getLsbD_eq
    intro i hi
    rw [BitVec.getLsbD_append, BitVec.getLsbD_rotateRight]
    simp only [BitVec.getLsbD_extractLsb']
    interval_cases i <;> simp
  rw [rorEffect, h]

/-- One step of a division, by its rule's numbers (R361). -/
theorem subcOut_eq (d b : Word) :
    subcOut d b = BitVec.ofNat 32 (if b.toNat ≤ d.toNat then 2 * (d.toNat - b.toNat) + 1 else 2 * d.toNat) := by
  unfold subcOut
  have hd := d.isLt
  split
  · next h =>
    apply BitVec.eq_of_toNat_eq
    have hs : (d - b).toNat = d.toNat - b.toNat := by rw [BitVec.toNat_sub]; omega
    have key : ∀ x : Nat, x % 2 = 0 → x ||| 1 = x + 1 := by
      intro x hx
      have := Nat.two_pow_add_eq_or_of_lt (i := 1) (b := 1) (by norm_num) (x / 2)
      rw [show 2 ^ 1 * (x / 2) = x by omega] at this
      exact this.symm
    rw [BitVec.toNat_or, BitVec.toNat_shiftLeft, hs, Nat.shiftLeft_eq, show BitVec.toNat 1#32 = 1 from rfl,
      key _ (by omega), BitVec.toNat_ofNat]
    omega
  · apply BitVec.eq_of_toNat_eq
    rw [BitVec.toNat_shiftLeft, BitVec.toNat_ofNat, Nat.shiftLeft_eq]
    omega

end Sys2Proof.Machine
end

