-- ==== Sys2Proof/Laws/Fields.lean ====
section
/-! SUPPORT. The fields of an encoded word, form by form: what the decoder reads of what the encoder wrote. -/
namespace Sys2Proof

/-! ## General form -/

theorem encG_op (op : BitVec 9) (g : BitVec 2) (d : BitVec 5) (f : BitVec 16) :
    encG op g d f &&& 0xFF800000#32 = op ++ 0#23 := by
  apply BitVec.eq_of_getLsbD_eq
  intro i hi
  simp only [encG, BitVec.getLsbD_and, BitVec.getLsbD_append]
  interval_cases i <;> simp

theorem encG_opG (op : BitVec 9) (g : BitVec 2) (d : BitVec 5) (f : BitVec 16) :
    encG op g d f &&& 0xFFE00000#32 = op ++ g ++ 0#21 := by
  apply BitVec.eq_of_getLsbD_eq
  intro i hi
  simp only [encG, BitVec.getLsbD_and, BitVec.getLsbD_append]
  interval_cases i <;> simp

@[simp] theorem encG_form (op : BitVec 9) (g : BitVec 2) (d : BitVec 5) (f : BitVec 16) :
    (encG op g d f).extractLsb' 29 3 = op.extractLsb' 6 3 := by
  apply BitVec.eq_of_getLsbD_eq
  intro i hi
  simp only [encG, BitVec.getLsbD_extractLsb', BitVec.getLsbD_append]
  interval_cases i <;> simp

@[simp] theorem encG_sub (op : BitVec 9) (g : BitVec 2) (d : BitVec 5) (f : BitVec 16) :
    (encG op g d f).extractLsb' 23 6 = op.extractLsb' 0 6 := by
  apply BitVec.eq_of_getLsbD_eq
  intro i hi
  simp only [encG, BitVec.getLsbD_extractLsb', BitVec.getLsbD_append]
  interval_cases i <;> simp

@[simp] theorem encG_g (op : BitVec 9) (g : BitVec 2) (d : BitVec 5) (f : BitVec 16) :
    (encG op g d f).extractLsb' 21 2 = g := by
  apply BitVec.eq_of_getLsbD_eq
  intro i hi
  simp only [encG, BitVec.getLsbD_extractLsb', BitVec.getLsbD_append]
  interval_cases i <;> simp

@[simp] theorem encG_dst (op : BitVec 9) (g : BitVec 2) (d : BitVec 5) (f : BitVec 16) :
    (encG op g d f).extractLsb' 16 5 = d := by
  apply BitVec.eq_of_getLsbD_eq
  intro i hi
  simp only [encG, BitVec.getLsbD_extractLsb', BitVec.getLsbD_append]
  interval_cases i <;> simp

@[simp] theorem encG_field (op : BitVec 9) (g : BitVec 2) (d : BitVec 5) (f : BitVec 16) :
    (encG op g d f).extractLsb' 0 16 = f := by
  apply BitVec.eq_of_getLsbD_eq
  intro i hi
  simp only [encG, BitVec.getLsbD_extractLsb', BitVec.getLsbD_append]
  interval_cases i <;> simp

/-! ## Operand fields -/

/-- A register is the one its machine address names (R20). -/
@[simp] theorem Reg.ofCode_code (r : Reg) : Reg.ofCode r.code = .ok r := by
  cases r with
  | r n => revert n; decide
  | ar n => revert n; decide
  | _ => decide

@[simp] theorem FReg.ofCode_code (n : FReg) : FReg.ofCode (FReg.code n) = .ok n := by revert n; decide

@[simp] theorem Cond.ofCode_code (c : Cond) : Cond.ofCode c.code = .ok c := by cases c <;> decide

/-- An indirect operand is the one its mod field, register and displacement name (R250 to R262). -/
theorem Ind.ofCode_code8 (i : Ind (BitVec 8)) : Ind.ofCode i.modCode i.arCode i.dispCode = .ok i := by
  cases i with
  | idx op st n =>
    cases st <;> cases op <;> simp [Ind.ofCode, Ind.modCode, Ind.arCode, Ind.dispCode, IndOp.code, IndOp.ofCode]
  | plain n => simp [Ind.ofCode, Ind.modCode, Ind.arCode]
  | bitrev n => simp [Ind.ofCode, Ind.modCode, Ind.arCode]

theorem Ind.ofCode_code (i : Ind Unit) : Ind.ofCode i.modCode i.arCode () = .ok i := by
  cases i with
  | idx op st n =>
    cases st <;> cases op <;> simp [Ind.ofCode, Ind.modCode, Ind.arCode, IndOp.code, IndOp.ofCode]
  | plain n => simp [Ind.ofCode, Ind.modCode, Ind.arCode]
  | bitrev n => simp [Ind.ofCode, Ind.modCode, Ind.arCode]

theorem Ind.field16_mod (i : Ind (BitVec 8)) : i.field16.extractLsb' 11 5 = i.modCode := by
  apply BitVec.eq_of_getLsbD_eq
  intro k hk
  simp only [Ind.field16, BitVec.getLsbD_extractLsb', BitVec.getLsbD_append]
  interval_cases k <;> simp

theorem Ind.field16_ar (i : Ind (BitVec 8)) : i.field16.extractLsb' 8 3 = i.arCode := by
  apply BitVec.eq_of_getLsbD_eq
  intro k hk
  simp only [Ind.field16, BitVec.getLsbD_extractLsb', BitVec.getLsbD_append]
  interval_cases k <;> simp

theorem Ind.field16_disp (i : Ind (BitVec 8)) : i.field16.extractLsb' 0 8 = i.dispCode := by
  apply BitVec.eq_of_getLsbD_eq
  intro k hk
  simp only [Ind.field16, BitVec.getLsbD_extractLsb', BitVec.getLsbD_append]
  interval_cases k <;> simp

/-- The 16-bit field of an indirect operand holds it. -/
@[simp] theorem Ind.ofField16_field16 (i : Ind (BitVec 8)) : Ind.ofField16 i.field16 = .ok i := by
  rw [Ind.ofField16, Ind.field16_mod, Ind.field16_ar, Ind.field16_disp, Ind.ofCode_code8]

theorem Ind.field8_mod (i : Ind Unit) : i.field8.extractLsb' 3 5 = i.modCode := by
  apply BitVec.eq_of_getLsbD_eq
  intro k hk
  simp only [Ind.field8, BitVec.getLsbD_extractLsb', BitVec.getLsbD_append]
  interval_cases k <;> simp

theorem Ind.field8_ar (i : Ind Unit) : i.field8.extractLsb' 0 3 = i.arCode := by
  apply BitVec.eq_of_getLsbD_eq
  intro k hk
  simp only [Ind.field8, BitVec.getLsbD_extractLsb', BitVec.getLsbD_append]
  interval_cases k <;> simp

/-- The 8-bit field of an indirect operand holds it. -/
@[simp] theorem Ind.ofField8_field8 (i : Ind Unit) : Ind.ofField8 i.field8 = .ok i := by
  rw [Ind.ofField8, Ind.field8_mod, Ind.field8_ar, Ind.ofCode_code]

theorem regField_code (c : BitVec 5) : (0#11 ++ c).extractLsb' 0 5 = c := by
  apply BitVec.eq_of_getLsbD_eq
  intro k hk
  simp only [BitVec.getLsbD_extractLsb', BitVec.getLsbD_append]
  interval_cases k <;> simp

theorem regField8_code (c : BitVec 5) : (0#3 ++ c).extractLsb' 0 5 = c := by
  apply BitVec.eq_of_getLsbD_eq
  intro k hk
  simp only [BitVec.getLsbD_extractLsb', BitVec.getLsbD_append]
  interval_cases k <;> simp

/-- A source's G field and bits 15-0 hold it (R142). -/
theorem Src.ofField_field {ρ : Type} {ofCode : BitVec 5 → Except DecodeError ρ} {code : ρ → BitVec 5}
    (h : ∀ r, ofCode (code r) = .ok r) (x : Src ρ) : Src.ofField ofCode x.gCode (x.field code) = .ok x := by
  cases x with
  | reg r => simp [Src.ofField, Src.gCode, Src.field, regField_code, h, Except.map]
  | dir a => simp [Src.ofField, Src.gCode, Src.field]
  | ind i => simp [Src.ofField, Src.gCode, Src.field, Except.map]
  | imm v => simp [Src.ofField, Src.gCode, Src.field]

@[simp] theorem Src.ofField_int (x : Src Reg) : Src.ofField Reg.ofCode x.gCode (x.field Reg.code) = .ok x :=
  Src.ofField_field Reg.ofCode_code x

@[simp] theorem Src.ofField_flt (x : Src FReg) : Src.ofField FReg.ofCode x.gCode (x.field FReg.code) = .ok x :=
  Src.ofField_field FReg.ofCode_code x

@[simp] theorem MemOp.ofField_field (m : MemOp) : MemOp.ofField m.gCode m.field = .ok m := by
  cases m <;> simp [MemOp.ofField, MemOp.gCode, MemOp.field, Except.map]

@[simp] theorem NopOp.ofField_field (m : NopOp) : NopOp.ofField m.gCode 0#5 m.field = .ok m := by
  cases m <;> simp [NopOp.ofField, NopOp.gCode, NopOp.field, Except.map]

/-- A three-operand source's T bit and field hold it (R150). -/
theorem Src3.ofField_field {ρ : Type} {ofCode : BitVec 5 → Except DecodeError ρ} {code : ρ → BitVec 5}
    (h : ∀ r, ofCode (code r) = .ok r) (x : Src3 ρ) : Src3.ofField ofCode x.tCode (x.field code) = .ok x := by
  cases x with
  | reg r => simp [Src3.ofField, Src3.tCode, Src3.field, regField8_code, h, Except.map]
  | ind i => simp [Src3.ofField, Src3.tCode, Src3.field, Except.map]

@[simp] theorem Target.ofField_field (t : Target) : Target.ofField t.bCode t.field = .ok t := by
  cases t with
  | reg r => simp [Target.ofField, Target.bCode, Target.field, regField_code, Except.map]
  | rel d => simp [Target.ofField, Target.bCode, Target.field]

/-! ## The other forms -/

theorem encT_op {ρ : Type} (code : ρ → BitVec 5) (op : BitVec 9) (x y : Src3 ρ) (d : BitVec 5) :
    encT code op x y d &&& 0xFF800000#32 = op ++ 0#23 := by
  apply BitVec.eq_of_getLsbD_eq
  intro i hi
  simp only [encT, BitVec.getLsbD_and, BitVec.getLsbD_append]
  interval_cases i <;> simp

theorem encCB_opD (op : BitVec 6) (n : BitVec 3) (d : BitVec 1) (c : Cond) (t : Target) :
    encCB op n d c t &&& 0xFC200000#32 = op ++ 0#4 ++ d ++ 0#21 := by
  apply BitVec.eq_of_getLsbD_eq
  intro i hi
  simp only [encCB, BitVec.getLsbD_and, BitVec.getLsbD_append]
  interval_cases i <;> simp

/-- The bits between B and the condition: ARn and D (R160). -/
@[simp] theorem encCB_mid (op : BitVec 6) (n : BitVec 3) (d : BitVec 1) (c : Cond) (t : Target) :
    (encCB op n d c t).extractLsb' 21 4 = n ++ d := by
  apply BitVec.eq_of_getLsbD_eq
  intro i hi
  simp only [encCB, BitVec.getLsbD_extractLsb', BitVec.getLsbD_append]
  interval_cases i <;> simp

theorem encCB_op (op : BitVec 6) (n : BitVec 3) (d : BitVec 1) (c : Cond) (t : Target) :
    encCB op n d c t &&& 0xFC000000#32 = op ++ 0#26 := by
  apply BitVec.eq_of_getLsbD_eq
  intro i hi
  simp only [encCB, BitVec.getLsbD_and, BitVec.getLsbD_append]
  interval_cases i <;> simp

theorem encP_op (op : BitVec 6) (p : BitVec 2) (d1 d2 : BitVec 1) (s1 s2 : FReg) (hi lo : Ind Unit) :
    encP op p d1 d2 s1 s2 hi lo &&& 0xFC000000#32 = op ++ 0#26 := by
  apply BitVec.eq_of_getLsbD_eq
  intro i h
  simp only [encP, BitVec.getLsbD_and, BitVec.getLsbD_append]
  interval_cases i <;> simp

theorem encPS_op (op : BitVec 7) (a b c : FReg) (hi lo : Ind Unit) :
    encPS op a b c hi lo &&& 0xFE000000#32 = op ++ 0#25 := by
  apply BitVec.eq_of_getLsbD_eq
  intro i h
  simp only [encPS, BitVec.getLsbD_and, BitVec.getLsbD_append]
  interval_cases i <;> simp

theorem encLI_op (op : BitVec 8) (a : Addr) : (op ++ a) &&& 0xFF000000#32 = op ++ 0#24 := by
  apply BitVec.eq_of_getLsbD_eq
  intro i hi
  simp only [BitVec.getLsbD_and, BitVec.getLsbD_append]
  interval_cases i <;> simp

theorem encTrap_op (op : BitVec 7) (c : BitVec 5) (m : BitVec 11) (n : BitVec 5) :
    (op ++ 0#4 ++ c ++ m ++ n) &&& 0xFE000000#32 = op ++ 0#25 := by
  apply BitVec.eq_of_getLsbD_eq
  intro i hi
  simp only [BitVec.getLsbD_and, BitVec.getLsbD_append]
  interval_cases i <;> simp

theorem encRet_op (op : BitVec 9) (c : BitVec 5) : (op ++ 0#2 ++ c ++ 0#16) &&& 0xFF800000#32 = op ++ 0#23 := by
  apply BitVec.eq_of_getLsbD_eq
  intro i hi
  simp only [BitVec.getLsbD_and, BitVec.getLsbD_append]
  interval_cases i <;> simp

/-- The four opcode bits of a conditional load, before the condition (R164). -/
theorem encG_condOp (x : BitVec 4) (c : BitVec 5) (g : BitVec 2) (d : BitVec 5) (f : BitVec 16) :
    encG (x ++ c) g d f &&& 0xF0000000#32 = x ++ 0#28 := by
  apply BitVec.eq_of_getLsbD_eq
  intro i hi
  simp only [encG, BitVec.getLsbD_and, BitVec.getLsbD_append]
  interval_cases i <;> simp

end Sys2Proof
end

