-- ==== Sys2Proof/Laws/PerInstr.lean ====
section
/-! SUPPORT. Per instruction: the word the encoder writes has the bits its row of the opcode table fixes. -/
namespace Sys2Proof.Laws

/-- The mask of an instruction's row of the opcode table (R147 to R165). -/
def rowMask : Instr → Word
  | .absf .. => 0xFF800000#32
  | .absi .. => 0xFF800000#32
  | .addc .. => 0xFF800000#32
  | .addf .. => 0xFF800000#32
  | .addi .. => 0xFF800000#32
  | .and .. => 0xFF800000#32
  | .andn .. => 0xFF800000#32
  | .ash .. => 0xFF800000#32
  | .cmpf .. => 0xFF800000#32
  | .cmpi .. => 0xFF800000#32
  | .fix .. => 0xFF800000#32
  | .float .. => 0xFF800000#32
  | .lde .. => 0xFF800000#32
  | .ldf .. => 0xFF800000#32
  | .ldi .. => 0xFF800000#32
  | .ldm .. => 0xFF800000#32
  | .lsh .. => 0xFF800000#32
  | .mpyf .. => 0xFF800000#32
  | .mpyi .. => 0xFF800000#32
  | .negb .. => 0xFF800000#32
  | .negf .. => 0xFF800000#32
  | .negi .. => 0xFF800000#32
  | .norm .. => 0xFF800000#32
  | .not .. => 0xFF800000#32
  | .or .. => 0xFF800000#32
  | .rnd .. => 0xFF800000#32
  | .subb .. => 0xFF800000#32
  | .subc .. => 0xFF800000#32
  | .subf .. => 0xFF800000#32
  | .subi .. => 0xFF800000#32
  | .subrb .. => 0xFF800000#32
  | .subrf .. => 0xFF800000#32
  | .subri .. => 0xFF800000#32
  | .tstb .. => 0xFF800000#32
  | .xor .. => 0xFF800000#32
  | .ldfi .. => 0xFF800000#32
  | .ldii .. => 0xFF800000#32
  | .stf .. => 0xFF800000#32
  | .stfi .. => 0xFF800000#32
  | .sti .. => 0xFF800000#32
  | .stii .. => 0xFF800000#32
  | .pop .. => 0xFF800000#32
  | .popf .. => 0xFF800000#32
  | .push .. => 0xFF800000#32
  | .pushf .. => 0xFF800000#32
  | .rol .. => 0xFF800000#32
  | .rolc .. => 0xFF800000#32
  | .ror .. => 0xFF800000#32
  | .rorc .. => 0xFF800000#32
  | .rpts .. => 0xFF800000#32
  | .iack .. => 0xFF800000#32
  | .nop .. => 0xFF800000#32
  | .ldp .. => 0xFFE00000#32
  | .idle => 0xFFFFFFFF#32
  | .idle2 => 0xFFFFFFFF#32
  | .maxspeed => 0xFFFFFFFF#32
  | .lopower => 0xFFFFFFFF#32
  | .sigi => 0xFFFFFFFF#32
  | .swi => 0xFFFFFFFF#32
  | .addc3 .. => 0xFF800000#32
  | .addf3 .. => 0xFF800000#32
  | .addi3 .. => 0xFF800000#32
  | .and3 .. => 0xFF800000#32
  | .andn3 .. => 0xFF800000#32
  | .ash3 .. => 0xFF800000#32
  | .cmpf3 .. => 0xFF800000#32
  | .cmpi3 .. => 0xFF800000#32
  | .lsh3 .. => 0xFF800000#32
  | .mpyf3 .. => 0xFF800000#32
  | .mpyi3 .. => 0xFF800000#32
  | .or3 .. => 0xFF800000#32
  | .subb3 .. => 0xFF800000#32
  | .subf3 .. => 0xFF800000#32
  | .subi3 .. => 0xFF800000#32
  | .tstb3 .. => 0xFF800000#32
  | .xor3 .. => 0xFF800000#32
  | .ldfCond .. => 0xF0000000#32
  | .ldiCond .. => 0xF0000000#32
  | .br .. => 0xFF000000#32
  | .brd .. => 0xFF000000#32
  | .call .. => 0xFF000000#32
  | .rptb .. => 0xFF000000#32
  | .bCond .. => 0xFC200000#32
  | .bCondD .. => 0xFC200000#32
  | .dbCond .. => 0xFC200000#32
  | .dbCondD .. => 0xFC200000#32
  | .callCond .. => 0xFC000000#32
  | .trapCond .. => 0xFE000000#32
  | .retiCond .. => 0xFF800000#32
  | .retsCond .. => 0xFF800000#32
  | .mpyf3_addf3 .. => 0xFC000000#32
  | .mpyf3_subf3 .. => 0xFC000000#32
  | .mpyi3_addi3 .. => 0xFC000000#32
  | .mpyi3_subi3 .. => 0xFC000000#32
  | .stf_stf .. => 0xFE000000#32
  | .sti_sti .. => 0xFE000000#32
  | .ldf_ldf .. => 0xFE000000#32
  | .ldi_ldi .. => 0xFE000000#32
  | .absf_stf .. => 0xFE000000#32
  | .absi_sti .. => 0xFE000000#32
  | .addf3_stf .. => 0xFE000000#32
  | .addi3_sti .. => 0xFE000000#32
  | .and3_sti .. => 0xFE000000#32
  | .ash3_sti .. => 0xFE000000#32
  | .fix_sti .. => 0xFE000000#32
  | .float_stf .. => 0xFE000000#32
  | .ldf_stf .. => 0xFE000000#32
  | .ldi_sti .. => 0xFE000000#32
  | .lsh3_sti .. => 0xFE000000#32
  | .mpyf3_stf .. => 0xFE000000#32
  | .mpyi3_sti .. => 0xFE000000#32
  | .negf_stf .. => 0xFE000000#32
  | .negi_sti .. => 0xFE000000#32
  | .not_sti .. => 0xFE000000#32
  | .or3_sti .. => 0xFE000000#32
  | .subf3_stf .. => 0xFE000000#32
  | .subi3_sti .. => 0xFE000000#32
  | .xor3_sti .. => 0xFE000000#32

/-- The fixed bits of an instruction's row of the opcode table. -/
def rowMatch : Instr → Word
  | .absf .. => 0x00000000#32
  | .absi .. => 0x00800000#32
  | .addc .. => 0x01000000#32
  | .addf .. => 0x01800000#32
  | .addi .. => 0x02000000#32
  | .and .. => 0x02800000#32
  | .andn .. => 0x03000000#32
  | .ash .. => 0x03800000#32
  | .cmpf .. => 0x04000000#32
  | .cmpi .. => 0x04800000#32
  | .fix .. => 0x05000000#32
  | .float .. => 0x05800000#32
  | .lde .. => 0x06800000#32
  | .ldf .. => 0x07000000#32
  | .ldi .. => 0x08000000#32
  | .ldm .. => 0x09000000#32
  | .lsh .. => 0x09800000#32
  | .mpyf .. => 0x0A000000#32
  | .mpyi .. => 0x0A800000#32
  | .negb .. => 0x0B000000#32
  | .negf .. => 0x0B800000#32
  | .negi .. => 0x0C000000#32
  | .norm .. => 0x0D000000#32
  | .not .. => 0x0D800000#32
  | .or .. => 0x10000000#32
  | .rnd .. => 0x11000000#32
  | .subb .. => 0x16800000#32
  | .subc .. => 0x17000000#32
  | .subf .. => 0x17800000#32
  | .subi .. => 0x18000000#32
  | .subrb .. => 0x18800000#32
  | .subrf .. => 0x19000000#32
  | .subri .. => 0x19800000#32
  | .tstb .. => 0x1A000000#32
  | .xor .. => 0x1A800000#32
  | .ldfi .. => 0x07800000#32
  | .ldii .. => 0x08800000#32
  | .stf .. => 0x14000000#32
  | .stfi .. => 0x14800000#32
  | .sti .. => 0x15000000#32
  | .stii .. => 0x15800000#32
  | .pop .. => 0x0E000000#32
  | .popf .. => 0x0E800000#32
  | .push .. => 0x0F000000#32
  | .pushf .. => 0x0F800000#32
  | .rol .. => 0x11800000#32
  | .rolc .. => 0x12000000#32
  | .ror .. => 0x12800000#32
  | .rorc .. => 0x13000000#32
  | .rpts .. => 0x13800000#32
  | .iack .. => 0x1B000000#32
  | .nop .. => 0x0C800000#32
  | .ldp .. => 0x08600000#32
  | .idle => 0x06000000#32
  | .idle2 => 0x06000001#32
  | .maxspeed => 0x10800000#32
  | .lopower => 0x10800001#32
  | .sigi => 0x16000000#32
  | .swi => 0x66000000#32
  | .addc3 .. => 0x20000000#32
  | .addf3 .. => 0x20800000#32
  | .addi3 .. => 0x21000000#32
  | .and3 .. => 0x21800000#32
  | .andn3 .. => 0x22000000#32
  | .ash3 .. => 0x22800000#32
  | .cmpf3 .. => 0x23000000#32
  | .cmpi3 .. => 0x23800000#32
  | .lsh3 .. => 0x24000000#32
  | .mpyf3 .. => 0x24800000#32
  | .mpyi3 .. => 0x25000000#32
  | .or3 .. => 0x25800000#32
  | .subb3 .. => 0x26000000#32
  | .subf3 .. => 0x26800000#32
  | .subi3 .. => 0x27000000#32
  | .tstb3 .. => 0x27800000#32
  | .xor3 .. => 0x28000000#32
  | .ldfCond .. => 0x40000000#32
  | .ldiCond .. => 0x50000000#32
  | .br .. => 0x60000000#32
  | .brd .. => 0x61000000#32
  | .call .. => 0x62000000#32
  | .rptb .. => 0x64000000#32
  | .bCond .. => 0x68000000#32
  | .bCondD .. => 0x68200000#32
  | .dbCond .. => 0x6C000000#32
  | .dbCondD .. => 0x6C200000#32
  | .callCond .. => 0x70000000#32
  | .trapCond .. => 0x74000000#32
  | .retiCond .. => 0x78000000#32
  | .retsCond .. => 0x78800000#32
  | .mpyf3_addf3 .. => 0x80000000#32
  | .mpyf3_subf3 .. => 0x84000000#32
  | .mpyi3_addi3 .. => 0x88000000#32
  | .mpyi3_subi3 .. => 0x8C000000#32
  | .stf_stf .. => 0xC0000000#32
  | .sti_sti .. => 0xC2000000#32
  | .ldf_ldf .. => 0xC4000000#32
  | .ldi_ldi .. => 0xC6000000#32
  | .absf_stf .. => 0xC8000000#32
  | .absi_sti .. => 0xCA000000#32
  | .addf3_stf .. => 0xCC000000#32
  | .addi3_sti .. => 0xCE000000#32
  | .and3_sti .. => 0xD0000000#32
  | .ash3_sti .. => 0xD2000000#32
  | .fix_sti .. => 0xD4000000#32
  | .float_stf .. => 0xD6000000#32
  | .ldf_stf .. => 0xD8000000#32
  | .ldi_sti .. => 0xDA000000#32
  | .lsh3_sti .. => 0xDC000000#32
  | .mpyf3_stf .. => 0xDE000000#32
  | .mpyi3_sti .. => 0xE0000000#32
  | .negf_stf .. => 0xE2000000#32
  | .negi_sti .. => 0xE4000000#32
  | .not_sti .. => 0xE6000000#32
  | .or3_sti .. => 0xE8000000#32
  | .subf3_stf .. => 0xEA000000#32
  | .subi3_sti .. => 0xEC000000#32
  | .xor3_sti .. => 0xEE000000#32

/-- The encoded word has the fixed bits of its instruction's row, whatever the operands. -/
def OpcodeBits.Statement (i : Instr) : Prop := encode i &&& rowMask i = rowMatch i

theorem OpcodeBits.absf (src : Src FReg) (dst : FReg) : OpcodeBits.Statement (.absf src dst) :=
  (encG_op _ _ _ _).trans rfl
theorem OpcodeBits.absi (src : Src Reg) (dst : Reg) : OpcodeBits.Statement (.absi src dst) :=
  (encG_op _ _ _ _).trans rfl
theorem OpcodeBits.addc (src : Src Reg) (dst : Reg) : OpcodeBits.Statement (.addc src dst) :=
  (encG_op _ _ _ _).trans rfl
theorem OpcodeBits.addf (src : Src FReg) (dst : FReg) : OpcodeBits.Statement (.addf src dst) :=
  (encG_op _ _ _ _).trans rfl
theorem OpcodeBits.addi (src : Src Reg) (dst : Reg) : OpcodeBits.Statement (.addi src dst) :=
  (encG_op _ _ _ _).trans rfl
theorem OpcodeBits.and (src : Src Reg) (dst : Reg) : OpcodeBits.Statement (.and src dst) :=
  (encG_op _ _ _ _).trans rfl
theorem OpcodeBits.andn (src : Src Reg) (dst : Reg) : OpcodeBits.Statement (.andn src dst) :=
  (encG_op _ _ _ _).trans rfl
theorem OpcodeBits.ash (src : Src Reg) (dst : Reg) : OpcodeBits.Statement (.ash src dst) :=
  (encG_op _ _ _ _).trans rfl
theorem OpcodeBits.cmpf (src : Src FReg) (dst : FReg) : OpcodeBits.Statement (.cmpf src dst) :=
  (encG_op _ _ _ _).trans rfl
theorem OpcodeBits.cmpi (src : Src Reg) (dst : Reg) : OpcodeBits.Statement (.cmpi src dst) :=
  (encG_op _ _ _ _).trans rfl
theorem OpcodeBits.fix (src : Src FReg) (dst : Reg) : OpcodeBits.Statement (.fix src dst) :=
  (encG_op _ _ _ _).trans rfl
theorem OpcodeBits.float (src : Src Reg) (dst : FReg) : OpcodeBits.Statement (.float src dst) :=
  (encG_op _ _ _ _).trans rfl
theorem OpcodeBits.lde (src : Src FReg) (dst : FReg) : OpcodeBits.Statement (.lde src dst) :=
  (encG_op _ _ _ _).trans rfl
theorem OpcodeBits.ldf (src : Src FReg) (dst : FReg) : OpcodeBits.Statement (.ldf src dst) :=
  (encG_op _ _ _ _).trans rfl
theorem OpcodeBits.ldi (src : Src Reg) (dst : Reg) : OpcodeBits.Statement (.ldi src dst) :=
  (encG_op _ _ _ _).trans rfl
theorem OpcodeBits.ldm (src : Src FReg) (dst : FReg) : OpcodeBits.Statement (.ldm src dst) :=
  (encG_op _ _ _ _).trans rfl
theorem OpcodeBits.lsh (src : Src Reg) (dst : Reg) : OpcodeBits.Statement (.lsh src dst) :=
  (encG_op _ _ _ _).trans rfl
theorem OpcodeBits.mpyf (src : Src FReg) (dst : FReg) : OpcodeBits.Statement (.mpyf src dst) :=
  (encG_op _ _ _ _).trans rfl
theorem OpcodeBits.mpyi (src : Src Reg) (dst : Reg) : OpcodeBits.Statement (.mpyi src dst) :=
  (encG_op _ _ _ _).trans rfl
theorem OpcodeBits.negb (src : Src Reg) (dst : Reg) : OpcodeBits.Statement (.negb src dst) :=
  (encG_op _ _ _ _).trans rfl
theorem OpcodeBits.negf (src : Src FReg) (dst : FReg) : OpcodeBits.Statement (.negf src dst) :=
  (encG_op _ _ _ _).trans rfl
theorem OpcodeBits.negi (src : Src Reg) (dst : Reg) : OpcodeBits.Statement (.negi src dst) :=
  (encG_op _ _ _ _).trans rfl
theorem OpcodeBits.norm (src : Src FReg) (dst : FReg) : OpcodeBits.Statement (.norm src dst) :=
  (encG_op _ _ _ _).trans rfl
theorem OpcodeBits.not (src : Src Reg) (dst : Reg) : OpcodeBits.Statement (.not src dst) :=
  (encG_op _ _ _ _).trans rfl
theorem OpcodeBits.or (src : Src Reg) (dst : Reg) : OpcodeBits.Statement (.or src dst) := (encG_op _ _ _ _).trans rfl
theorem OpcodeBits.rnd (src : Src FReg) (dst : FReg) : OpcodeBits.Statement (.rnd src dst) :=
  (encG_op _ _ _ _).trans rfl
theorem OpcodeBits.subb (src : Src Reg) (dst : Reg) : OpcodeBits.Statement (.subb src dst) :=
  (encG_op _ _ _ _).trans rfl
theorem OpcodeBits.subc (src : Src Reg) (dst : Reg) : OpcodeBits.Statement (.subc src dst) :=
  (encG_op _ _ _ _).trans rfl
theorem OpcodeBits.subf (src : Src FReg) (dst : FReg) : OpcodeBits.Statement (.subf src dst) :=
  (encG_op _ _ _ _).trans rfl
theorem OpcodeBits.subi (src : Src Reg) (dst : Reg) : OpcodeBits.Statement (.subi src dst) :=
  (encG_op _ _ _ _).trans rfl
theorem OpcodeBits.subrb (src : Src Reg) (dst : Reg) : OpcodeBits.Statement (.subrb src dst) :=
  (encG_op _ _ _ _).trans rfl
theorem OpcodeBits.subrf (src : Src FReg) (dst : FReg) : OpcodeBits.Statement (.subrf src dst) :=
  (encG_op _ _ _ _).trans rfl
theorem OpcodeBits.subri (src : Src Reg) (dst : Reg) : OpcodeBits.Statement (.subri src dst) :=
  (encG_op _ _ _ _).trans rfl
theorem OpcodeBits.tstb (src : Src Reg) (dst : Reg) : OpcodeBits.Statement (.tstb src dst) :=
  (encG_op _ _ _ _).trans rfl
theorem OpcodeBits.xor (src : Src Reg) (dst : Reg) : OpcodeBits.Statement (.xor src dst) :=
  (encG_op _ _ _ _).trans rfl
theorem OpcodeBits.ldfi (src : MemOp) (dst : FReg) : OpcodeBits.Statement (.ldfi src dst) :=
  (encG_op _ _ _ _).trans rfl
theorem OpcodeBits.ldii (src : MemOp) (dst : Reg) : OpcodeBits.Statement (.ldii src dst) :=
  (encG_op _ _ _ _).trans rfl
theorem OpcodeBits.stf (src : FReg) (dst : MemOp) : OpcodeBits.Statement (.stf src dst) := (encG_op _ _ _ _).trans rfl
theorem OpcodeBits.stfi (src : FReg) (dst : MemOp) : OpcodeBits.Statement (.stfi src dst) :=
  (encG_op _ _ _ _).trans rfl
theorem OpcodeBits.sti (src : Reg) (dst : MemOp) : OpcodeBits.Statement (.sti src dst) := (encG_op _ _ _ _).trans rfl
theorem OpcodeBits.stii (src : Reg) (dst : MemOp) : OpcodeBits.Statement (.stii src dst) :=
  (encG_op _ _ _ _).trans rfl
theorem OpcodeBits.pop (dst : Reg) : OpcodeBits.Statement (.pop dst) := (encG_op _ _ _ _).trans rfl
theorem OpcodeBits.popf (dst : FReg) : OpcodeBits.Statement (.popf dst) := (encG_op _ _ _ _).trans rfl
theorem OpcodeBits.push (src : Reg) : OpcodeBits.Statement (.push src) := (encG_op _ _ _ _).trans rfl
theorem OpcodeBits.pushf (src : FReg) : OpcodeBits.Statement (.pushf src) := (encG_op _ _ _ _).trans rfl
theorem OpcodeBits.rol (dst : Reg) : OpcodeBits.Statement (.rol dst) := (encG_op _ _ _ _).trans rfl
theorem OpcodeBits.rolc (dst : Reg) : OpcodeBits.Statement (.rolc dst) := (encG_op _ _ _ _).trans rfl
theorem OpcodeBits.ror (dst : Reg) : OpcodeBits.Statement (.ror dst) := (encG_op _ _ _ _).trans rfl
theorem OpcodeBits.rorc (dst : Reg) : OpcodeBits.Statement (.rorc dst) := (encG_op _ _ _ _).trans rfl
theorem OpcodeBits.rpts (src : Src Reg) : OpcodeBits.Statement (.rpts src) := (encG_op _ _ _ _).trans rfl
theorem OpcodeBits.iack (src : MemOp) : OpcodeBits.Statement (.iack src) := (encG_op _ _ _ _).trans rfl
theorem OpcodeBits.nop (src : NopOp) : OpcodeBits.Statement (.nop src) := (encG_op _ _ _ _).trans rfl
theorem OpcodeBits.ldp (dst : Reg) (imm : BitVec 16) : OpcodeBits.Statement (.ldp dst imm) :=
  (encG_opG _ _ _ _).trans rfl
theorem OpcodeBits.idle : OpcodeBits.Statement .idle := rfl
theorem OpcodeBits.idle2 : OpcodeBits.Statement .idle2 := rfl
theorem OpcodeBits.maxspeed : OpcodeBits.Statement .maxspeed := rfl
theorem OpcodeBits.lopower : OpcodeBits.Statement .lopower := rfl
theorem OpcodeBits.sigi : OpcodeBits.Statement .sigi := rfl
theorem OpcodeBits.swi : OpcodeBits.Statement .swi := rfl
theorem OpcodeBits.addc3 (src1 src2 : Src3 Reg) (dst : Reg) : OpcodeBits.Statement (.addc3 src1 src2 dst) :=
  (encT_op _ _ _ _ _).trans rfl
theorem OpcodeBits.addf3 (src1 src2 : Src3 FReg) (dst : FReg) : OpcodeBits.Statement (.addf3 src1 src2 dst) :=
  (encT_op _ _ _ _ _).trans rfl
theorem OpcodeBits.addi3 (src1 src2 : Src3 Reg) (dst : Reg) : OpcodeBits.Statement (.addi3 src1 src2 dst) :=
  (encT_op _ _ _ _ _).trans rfl
theorem OpcodeBits.and3 (src1 src2 : Src3 Reg) (dst : Reg) : OpcodeBits.Statement (.and3 src1 src2 dst) :=
  (encT_op _ _ _ _ _).trans rfl
theorem OpcodeBits.andn3 (src1 src2 : Src3 Reg) (dst : Reg) : OpcodeBits.Statement (.andn3 src1 src2 dst) :=
  (encT_op _ _ _ _ _).trans rfl
theorem OpcodeBits.ash3 (src1 src2 : Src3 Reg) (dst : Reg) : OpcodeBits.Statement (.ash3 src1 src2 dst) :=
  (encT_op _ _ _ _ _).trans rfl
theorem OpcodeBits.cmpf3 (src1 src2 : Src3 FReg) : OpcodeBits.Statement (.cmpf3 src1 src2) :=
  (encT_op _ _ _ _ _).trans rfl
theorem OpcodeBits.cmpi3 (src1 src2 : Src3 Reg) : OpcodeBits.Statement (.cmpi3 src1 src2) :=
  (encT_op _ _ _ _ _).trans rfl
theorem OpcodeBits.lsh3 (src1 src2 : Src3 Reg) (dst : Reg) : OpcodeBits.Statement (.lsh3 src1 src2 dst) :=
  (encT_op _ _ _ _ _).trans rfl
theorem OpcodeBits.mpyf3 (src1 src2 : Src3 FReg) (dst : FReg) : OpcodeBits.Statement (.mpyf3 src1 src2 dst) :=
  (encT_op _ _ _ _ _).trans rfl
theorem OpcodeBits.mpyi3 (src1 src2 : Src3 Reg) (dst : Reg) : OpcodeBits.Statement (.mpyi3 src1 src2 dst) :=
  (encT_op _ _ _ _ _).trans rfl
theorem OpcodeBits.or3 (src1 src2 : Src3 Reg) (dst : Reg) : OpcodeBits.Statement (.or3 src1 src2 dst) :=
  (encT_op _ _ _ _ _).trans rfl
theorem OpcodeBits.subb3 (src1 src2 : Src3 Reg) (dst : Reg) : OpcodeBits.Statement (.subb3 src1 src2 dst) :=
  (encT_op _ _ _ _ _).trans rfl
theorem OpcodeBits.subf3 (src1 src2 : Src3 FReg) (dst : FReg) : OpcodeBits.Statement (.subf3 src1 src2 dst) :=
  (encT_op _ _ _ _ _).trans rfl
theorem OpcodeBits.subi3 (src1 src2 : Src3 Reg) (dst : Reg) : OpcodeBits.Statement (.subi3 src1 src2 dst) :=
  (encT_op _ _ _ _ _).trans rfl
theorem OpcodeBits.tstb3 (src1 src2 : Src3 Reg) : OpcodeBits.Statement (.tstb3 src1 src2) :=
  (encT_op _ _ _ _ _).trans rfl
theorem OpcodeBits.xor3 (src1 src2 : Src3 Reg) (dst : Reg) : OpcodeBits.Statement (.xor3 src1 src2 dst) :=
  (encT_op _ _ _ _ _).trans rfl
theorem OpcodeBits.ldfCond (c : Cond) (src : Src FReg) (dst : FReg) : OpcodeBits.Statement (.ldfCond c src dst) :=
  (encG_condOp _ _ _ _ _).trans rfl
theorem OpcodeBits.ldiCond (c : Cond) (src : Src Reg) (dst : Reg) : OpcodeBits.Statement (.ldiCond c src dst) :=
  (encG_condOp _ _ _ _ _).trans rfl
theorem OpcodeBits.br (target : Addr) : OpcodeBits.Statement (.br target) := (encLI_op _ _).trans rfl
theorem OpcodeBits.brd (target : Addr) : OpcodeBits.Statement (.brd target) := (encLI_op _ _).trans rfl
theorem OpcodeBits.call (target : Addr) : OpcodeBits.Statement (.call target) := (encLI_op _ _).trans rfl
theorem OpcodeBits.rptb (target : Addr) : OpcodeBits.Statement (.rptb target) := (encLI_op _ _).trans rfl
theorem OpcodeBits.bCond (c : Cond) (target : Target) : OpcodeBits.Statement (.bCond c target) :=
  (encCB_opD _ _ _ _ _).trans rfl
theorem OpcodeBits.bCondD (c : Cond) (target : Target) : OpcodeBits.Statement (.bCondD c target) :=
  (encCB_opD _ _ _ _ _).trans rfl
theorem OpcodeBits.dbCond (n : BitVec 3) (c : Cond) (target : Target) : OpcodeBits.Statement (.dbCond n c target) :=
  (encCB_opD _ _ _ _ _).trans rfl
theorem OpcodeBits.dbCondD (n : BitVec 3) (c : Cond) (target : Target) : OpcodeBits.Statement (.dbCondD n c target) :=
  (encCB_opD _ _ _ _ _).trans rfl
theorem OpcodeBits.callCond (c : Cond) (target : Target) : OpcodeBits.Statement (.callCond c target) :=
  (encCB_op _ _ _ _ _).trans rfl
theorem OpcodeBits.trapCond (c : Cond) (n : BitVec 5) : OpcodeBits.Statement (.trapCond c n) :=
  (encTrap_op _ _ _ _).trans rfl
theorem OpcodeBits.retiCond (c : Cond) : OpcodeBits.Statement (.retiCond c) := (encRet_op _ _).trans rfl
theorem OpcodeBits.retsCond (c : Cond) : OpcodeBits.Statement (.retsCond c) := (encRet_op _ _).trans rfl
theorem OpcodeBits.mpyf3_addf3 (p : BitVec 2) (d1 d2 : BitVec 1) (src1 src2 : FReg) (src3 src4 : Ind Unit) :
    OpcodeBits.Statement (.mpyf3_addf3 p d1 d2 src1 src2 src3 src4) :=
  (encP_op _ _ _ _ _ _ _ _).trans rfl
theorem OpcodeBits.mpyf3_subf3 (p : BitVec 2) (d1 d2 : BitVec 1) (src1 src2 : FReg) (src3 src4 : Ind Unit) :
    OpcodeBits.Statement (.mpyf3_subf3 p d1 d2 src1 src2 src3 src4) :=
  (encP_op _ _ _ _ _ _ _ _).trans rfl
theorem OpcodeBits.mpyi3_addi3 (p : BitVec 2) (d1 d2 : BitVec 1) (src1 src2 : FReg) (src3 src4 : Ind Unit) :
    OpcodeBits.Statement (.mpyi3_addi3 p d1 d2 src1 src2 src3 src4) :=
  (encP_op _ _ _ _ _ _ _ _).trans rfl
theorem OpcodeBits.mpyi3_subi3 (p : BitVec 2) (d1 d2 : BitVec 1) (src1 src2 : FReg) (src3 src4 : Ind Unit) :
    OpcodeBits.Statement (.mpyi3_subi3 p d1 d2 src1 src2 src3 src4) :=
  (encP_op _ _ _ _ _ _ _ _).trans rfl
theorem OpcodeBits.stf_stf (src2 src1 : FReg) (dst1 dst2 : Ind Unit) :
    OpcodeBits.Statement (.stf_stf src2 src1 dst1 dst2) :=
  (encPS_op _ _ _ _ _ _).trans rfl
theorem OpcodeBits.sti_sti (src2 src1 : FReg) (dst1 dst2 : Ind Unit) :
    OpcodeBits.Statement (.sti_sti src2 src1 dst1 dst2) :=
  (encPS_op _ _ _ _ _ _).trans rfl
theorem OpcodeBits.ldf_ldf (dst2 dst1 : FReg) (src1 src2 : Ind Unit) :
    OpcodeBits.Statement (.ldf_ldf dst2 dst1 src1 src2) :=
  (encPS_op _ _ _ _ _ _).trans rfl
theorem OpcodeBits.ldi_ldi (dst2 dst1 : FReg) (src1 src2 : Ind Unit) :
    OpcodeBits.Statement (.ldi_ldi dst2 dst1 src1 src2) :=
  (encPS_op _ _ _ _ _ _).trans rfl
theorem OpcodeBits.absf_stf (dst1 src3 : FReg) (dst2 src2 : Ind Unit) :
    OpcodeBits.Statement (.absf_stf dst1 src3 dst2 src2) :=
  (encPS_op _ _ _ _ _ _).trans rfl
theorem OpcodeBits.absi_sti (dst1 src3 : FReg) (dst2 src2 : Ind Unit) :
    OpcodeBits.Statement (.absi_sti dst1 src3 dst2 src2) :=
  (encPS_op _ _ _ _ _ _).trans rfl
theorem OpcodeBits.addf3_stf (dst1 src1 src3 : FReg) (dst2 src2 : Ind Unit) :
    OpcodeBits.Statement (.addf3_stf dst1 src1 src3 dst2 src2) :=
  (encPS_op _ _ _ _ _ _).trans rfl
theorem OpcodeBits.addi3_sti (dst1 src1 src3 : FReg) (dst2 src2 : Ind Unit) :
    OpcodeBits.Statement (.addi3_sti dst1 src1 src3 dst2 src2) :=
  (encPS_op _ _ _ _ _ _).trans rfl
theorem OpcodeBits.and3_sti (dst1 src1 src3 : FReg) (dst2 src2 : Ind Unit) :
    OpcodeBits.Statement (.and3_sti dst1 src1 src3 dst2 src2) :=
  (encPS_op _ _ _ _ _ _).trans rfl
theorem OpcodeBits.ash3_sti (dst1 src1 src3 : FReg) (dst2 src2 : Ind Unit) :
    OpcodeBits.Statement (.ash3_sti dst1 src1 src3 dst2 src2) :=
  (encPS_op _ _ _ _ _ _).trans rfl
theorem OpcodeBits.fix_sti (dst1 src3 : FReg) (dst2 src2 : Ind Unit) :
    OpcodeBits.Statement (.fix_sti dst1 src3 dst2 src2) :=
  (encPS_op _ _ _ _ _ _).trans rfl
theorem OpcodeBits.float_stf (dst1 src3 : FReg) (dst2 src2 : Ind Unit) :
    OpcodeBits.Statement (.float_stf dst1 src3 dst2 src2) :=
  (encPS_op _ _ _ _ _ _).trans rfl
theorem OpcodeBits.ldf_stf (dst1 src3 : FReg) (dst2 src2 : Ind Unit) :
    OpcodeBits.Statement (.ldf_stf dst1 src3 dst2 src2) :=
  (encPS_op _ _ _ _ _ _).trans rfl
theorem OpcodeBits.ldi_sti (dst1 src3 : FReg) (dst2 src2 : Ind Unit) :
    OpcodeBits.Statement (.ldi_sti dst1 src3 dst2 src2) :=
  (encPS_op _ _ _ _ _ _).trans rfl
theorem OpcodeBits.lsh3_sti (dst1 src1 src3 : FReg) (dst2 src2 : Ind Unit) :
    OpcodeBits.Statement (.lsh3_sti dst1 src1 src3 dst2 src2) :=
  (encPS_op _ _ _ _ _ _).trans rfl
theorem OpcodeBits.mpyf3_stf (dst1 src1 src3 : FReg) (dst2 src2 : Ind Unit) :
    OpcodeBits.Statement (.mpyf3_stf dst1 src1 src3 dst2 src2) :=
  (encPS_op _ _ _ _ _ _).trans rfl
theorem OpcodeBits.mpyi3_sti (dst1 src1 src3 : FReg) (dst2 src2 : Ind Unit) :
    OpcodeBits.Statement (.mpyi3_sti dst1 src1 src3 dst2 src2) :=
  (encPS_op _ _ _ _ _ _).trans rfl
theorem OpcodeBits.negf_stf (dst1 src3 : FReg) (dst2 src2 : Ind Unit) :
    OpcodeBits.Statement (.negf_stf dst1 src3 dst2 src2) :=
  (encPS_op _ _ _ _ _ _).trans rfl
theorem OpcodeBits.negi_sti (dst1 src3 : FReg) (dst2 src2 : Ind Unit) :
    OpcodeBits.Statement (.negi_sti dst1 src3 dst2 src2) :=
  (encPS_op _ _ _ _ _ _).trans rfl
theorem OpcodeBits.not_sti (dst1 src3 : FReg) (dst2 src2 : Ind Unit) :
    OpcodeBits.Statement (.not_sti dst1 src3 dst2 src2) :=
  (encPS_op _ _ _ _ _ _).trans rfl
theorem OpcodeBits.or3_sti (dst1 src1 src3 : FReg) (dst2 src2 : Ind Unit) :
    OpcodeBits.Statement (.or3_sti dst1 src1 src3 dst2 src2) :=
  (encPS_op _ _ _ _ _ _).trans rfl
theorem OpcodeBits.subf3_stf (dst1 src1 src3 : FReg) (dst2 src2 : Ind Unit) :
    OpcodeBits.Statement (.subf3_stf dst1 src1 src3 dst2 src2) :=
  (encPS_op _ _ _ _ _ _).trans rfl
theorem OpcodeBits.subi3_sti (dst1 src1 src3 : FReg) (dst2 src2 : Ind Unit) :
    OpcodeBits.Statement (.subi3_sti dst1 src1 src3 dst2 src2) :=
  (encPS_op _ _ _ _ _ _).trans rfl
theorem OpcodeBits.xor3_sti (dst1 src1 src3 : FReg) (dst2 src2 : Ind Unit) :
    OpcodeBits.Statement (.xor3_sti dst1 src1 src3 dst2 src2) :=
  (encPS_op _ _ _ _ _ _).trans rfl

end Sys2Proof.Laws
end

