-- ==== Sys2Proof/Tests/Slice0.lean ====
section
/-! SUPPORT. Tests: words decoded, ill-formed terms refused, the spec's examples run, and a witness for the hypotheses
of every statement. -/
namespace Sys2Proof.Tests

open Sys2Proof Sys2Proof.Machine

/-! ## Helpers -/

/-- A register set to a value, for a test's state. -/
def setReg : Reg → Ext → State → State
  | .r n, v, s => writeExt n v s
  | .ar n, v, s => writeAr n (v.setWidth 32) s
  | .dp, v, s => { s with dp := v.setWidth 32 }
  | .ir0, v, s => { s with ir0 := v.setWidth 32 }
  | .ir1, v, s => { s with ir1 := v.setWidth 32 }
  | .bk, v, s => { s with bk := v.setWidth 32 }
  | .sp, v, s => { s with sp := v.setWidth 32 }
  | .st, v, s => { s with st := v.setWidth 32 }
  | .ie, v, s => { s with ie := v.setWidth 32 }
  | .ifr, v, s => { s with ifr := v.setWidth 32 }
  | .iof, v, s => { s with iof := v.setWidth 32 }
  | .rs, v, s => { s with rs := v.setWidth 32 }
  | .re, v, s => { s with re := v.setWidth 32 }
  | .rc, v, s => { s with rc := v.setWidth 32 }

/-- A small state: reset, with a PC, ST, some registers and some words of memory; XF0 is an output. -/
def given (pc : Addr) (st : Word) (regs : List (Reg × Ext)) (mem : List (Addr × Word)) : State :=
  regs.foldl (fun s x => setReg x.1 x.2 s)
    { State.reset with pc := pc, st := st, iof := 2#32, mem := mem.foldl (fun m x => memWriteWord m x.1 x.2) [] }

/-- What can be seen of the next state of an outcome, none where there is none. -/
def stateOf {α : Type} (o : Host.Outcome State Fault Refusal) (look : State → α) : Option α :=
  match o with
  | .next t => some (look t)
  | .fault _ => none
  | .refused _ => none

/-- What can be seen of the state after the instruction of a word, none where it does not complete. -/
def sees {α : Type} (w : Word) (s : State) (look : State → α) : Option α :=
  match decode w with
  | .ok i => stateOf (exec i s) look
  | .error _ => none

/-- The outcome of the instruction of a word is this refusal. -/
def refuses (w : Word) (s : State) (r : Refusal) : Bool :=
  match decode w with
  | .ok i =>
    match exec i s with
    | .next _ => false
    | .fault _ => false
    | .refused q => q = r
  | .error _ => false

/-- What can be seen of the state after one step. -/
def stepSees {α : Type} (s : State) (look : State → α) : Option α :=
  match step s with
  | .next t => some (look t)
  | .fault _ => none
  | .refused _ => none

theorem exists_of_stepSees {s : State} {b : Unit} (h : stepSees s (fun _ => ()) = some b) : ∃ t, step s = .next t := by
  unfold stepSees at h
  split at h
  · next t ht => exact ⟨t, ht⟩
  · cases h
  · cases h

/-! ## Well-formed terms -/

/-- An LDM immediate with bits above 11 is refused (R307, U12). -/
theorem test_wf_ldm_refused : (Instr.ldm (.imm 0x1000) 3).wellFormed = false := by decide

theorem test_wf_ldm_accepted : (Instr.ldm (.imm 0x0FFF) 3).wellFormed = true := by decide

/-- The immediate form of LDI is LDP's term (R308). -/
theorem test_wf_ldi_refused : (Instr.ldi (.imm 5) (.r 3)).wellFormed = false := by decide

theorem test_wf_ldi_accepted : (Instr.ldi (.reg .sp) (.r 3)).wellFormed = true := by decide

/-- An ill-formed term does not come back from its word. -/
theorem test_wf_ldi_word : decode (encode (.ldi (.imm 5) (.r 3))) = .ok (.ldp (.r 3) 5) := by decide

/-! ## Words that are no instruction -/

theorem test_refused_opcode : decode 0x06800000#32 = .ok (.lde (.reg 0) 0) ∧
    decode 0x1B800000#32 = .error .illegalOpcode ∧ decode 0x06000002#32 = .error .illegalOpcode ∧
    decode 0xF0000000#32 = .error .illegalOpcode ∧ decode 0x28800000#32 = .error .illegalOpcode ∧
    decode 0x7C000000#32 = .error .illegalOpcode ∧ decode 0x90000000#32 = .error .illegalOpcode := by decide

/-- Bits the rows of NOP, Bcond and CALLcond fix at 0 (R160, R165). -/
theorem test_refused_fixedBits : decode 0x0C810000#32 = .error .illegalOpcode ∧
    decode 0x0C800001#32 = .ok (.nop .none) ∧ decode 0x68400000#32 = .error .illegalOpcode ∧
    decode 0x69000000#32 = .error .illegalOpcode ∧ decode 0x70200000#32 = .error .illegalOpcode ∧
    decode 0x71000000#32 = .error .illegalOpcode := by decide

theorem test_refused_fields : decode 0x0200001C#32 = .error .reservedRegister ∧
    decode 0x01800008#32 = .error .floatRegister ∧ decode 0x680B0000#32 = .error .badCondition ∧
    decode 0x68150000#32 = .error .badCondition ∧ decode 0x0240D000#32 = .error .reservedMod ∧
    decode 0x15000000#32 = .error .modeNotAdmitted ∧ decode 0x09601000#32 = .error .ldmImmediate := by decide

/-! ## Decoding, every constructor -/

theorem test_decode_general_1 :
    decode 0x00010005 = .ok (.absf (.reg 5) 1) ∧
    decode 0x00A10131 = .ok (.absi (.dir 0x0131) (.r 1)) ∧
    decode 0x01473AF2 = .ok (.addc (.ind (.idx .postSubCirc (.disp 242) 2)) (.r 7)) ∧
    decode 0x01E36DFE = .ok (.addf (.imm 0x6DFE) 3) ∧
    decode 0x020F0005 = .ok (.addi (.reg (.r 5)) (.ar 7)) ∧
    decode 0x02B4EA97 = .ok (.and (.dir 0xEA97) .sp) ∧
    decode 0x03465200 = .ok (.andn (.ind (.idx .preAddMod .ir0 2)) (.r 6)) ∧
    decode 0x03EBD189 = .ok (.ash (.imm 0xD189) (.ar 3)) ∧
    decode 0x04020001 = .ok (.cmpf (.reg 1) 2) ∧
    decode 0x04A0CBAB = .ok (.cmpi (.dir 0xCBAB) (.r 0)) := by decide

theorem test_decode_general_2 :
    decode 0x055BC700 = .ok (.fix (.ind (.plain 7)) .rc) ∧
    decode 0x05E6AC59 = .ok (.float (.imm 0xAC59) 6) ∧
    decode 0x06820006 = .ok (.lde (.reg 6) 2) ∧
    decode 0x0722A803 = .ok (.ldf (.dir 0xA803) 2) ∧
    decode 0x085B4500 = .ok (.ldi (.ind (.idx .preAdd .ir0 5)) .rc) ∧
    decode 0x096001C2 = .ok (.ldm (.imm 0x01C2) 0) ∧
    decode 0x09890009 = .ok (.lsh (.reg (.ar 1)) (.ar 1)) ∧
    decode 0x0A27EBFA = .ok (.mpyf (.dir 0xEBFA) 7) ∧
    decode 0x0AC24300 = .ok (.mpyi (.ind (.idx .preAdd .ir0 3)) (.r 2)) ∧
    decode 0x0B7427F5 = .ok (.negb (.imm 0x27F5) .sp) := by decide

theorem test_decode_general_3 :
    decode 0x0B860006 = .ok (.negf (.reg 6) 6) ∧
    decode 0x0C373C9A = .ok (.negi (.dir 0x3C9A) .ifr) ∧
    decode 0x0D4209B8 = .ok (.norm (.ind (.idx .preSub (.disp 184) 1)) 2) ∧
    decode 0x0DE5F2DC = .ok (.not (.imm 0xF2DC) (.r 5)) ∧
    decode 0x10050000 = .ok (.or (.reg (.r 0)) (.r 5)) ∧
    decode 0x1125A47A = .ok (.rnd (.dir 0xA47A) 5) ∧
    decode 0x16CF8300 = .ok (.subb (.ind (.idx .preAdd .ir1 3)) (.ar 7)) ∧
    decode 0x176D01E6 = .ok (.subc (.imm 0x01E6) (.ar 5)) ∧
    decode 0x17860001 = .ok (.subf (.reg 1) 6) ∧
    decode 0x182722A4 = .ok (.subi (.dir 0x22A4) (.r 7)) := by decide

theorem test_decode_general_4 :
    decode 0x18D43F08 = .ok (.subrb (.ind (.idx .postSubCirc (.disp 8) 7)) .sp) ∧
    decode 0x19600B99 = .ok (.subrf (.imm 0x0B99) 0) ∧
    decode 0x198D0007 = .ok (.subri (.reg (.r 7)) (.ar 5)) ∧
    decode 0x1A327D5C = .ok (.tstb (.dir 0x7D5C) .ir1) ∧
    decode 0x1AC49A00 = .ok (.xor (.ind (.idx .preSubMod .ir1 2)) (.r 4)) ∧
    decode 0x07C7B900 = .ok (.ldfi (.ind (.idx .postSubCirc .ir1 1)) 7) ∧
    decode 0x08A67DE0 = .ok (.ldii (.dir 0x7DE0) (.r 6)) ∧
    decode 0x1446A600 = .ok (.stf 6 (.ind (.idx .postAdd .ir1 6))) ∧
    decode 0x14A7496A = .ok (.stfi 7 (.dir 0x496A)) ∧
    decode 0x15538300 = .ok (.sti .bk (.ind (.idx .preAdd .ir1 3))) := by decide

theorem test_decode_general_5 :
    decode 0x15B5F1FD = .ok (.stii .st (.dir 0xF1FD)) ∧
    decode 0x0E220000 = .ok (.pop (.r 2)) ∧
    decode 0x0EA10000 = .ok (.popf 1) ∧
    decode 0x0F2C0000 = .ok (.push (.ar 4)) ∧
    decode 0x0FA60000 = .ok (.pushf 6) ∧
    decode 0x11E30001 = .ok (.rol (.r 3)) ∧
    decode 0x12750001 = .ok (.rolc .st) ∧
    decode 0x12E3FFFF = .ok (.ror (.r 3)) ∧
    decode 0x137AFFFF = .ok (.rorc .re) ∧
    decode 0x13BB1570 = .ok (.rpts (.dir 0x1570)) := by decide

theorem test_decode_general_6 :
    decode 0x1B205160 = .ok (.iack (.dir 0x5160)) ∧
    decode 0x0CC08000 = .ok (.nop (.ind (.idx .preAdd .ir1 0))) ∧
    decode 0x087B048E = .ok (.ldp .rc 0x048E) := by decide

theorem test_decode_words :
    decode 0x06000000 = .ok .idle ∧
    decode 0x06000001 = .ok .idle2 ∧
    decode 0x10800000 = .ok .maxspeed ∧
    decode 0x10800001 = .ok .lopower ∧
    decode 0x16000000 = .ok .sigi ∧
    decode 0x66000000 = .ok .swi := by decide

theorem test_decode_threeOperand_1 :
    decode 0x20796FA3 = .ok (.addc3 (.ind (.idx .postSub .ir0 7)) (.ind (.idx .postAdd .ir1 3)) .rs) ∧
    decode 0x20810604 = .ok (.addf3 (.reg 6) (.reg 4) 1) ∧
    decode 0x21224906 = .ok (.addi3 (.ind (.idx .preSub .ir0 1)) (.reg (.r 6)) (.r 2)) ∧
    decode 0x21C2089D = .ok (.and3 (.reg (.ar 0)) (.ind (.idx .preSubMod .ir1 5)) (.r 2)) ∧
    decode 0x2265ABC6 = .ok (.andn3 (.ind (.idx .postSub .ir1 3)) (.ind (.plain 6)) (.r 5)) ∧
    decode 0x22900208 = .ok (.ash3 (.reg (.r 2)) (.reg (.ar 0)) .dp) ∧
    decode 0x23209F06 = .ok (.cmpf3 (.ind (.idx .preSubMod .ir1 7)) (.reg 6)) ∧
    decode 0x23C002BA = .ok (.cmpi3 (.reg (.r 2)) (.ind (.idx .postSubCirc .ir1 2))) ∧
    decode 0x24615ACB = .ok (.lsh3 (.ind (.idx .preSubMod .ir0 2)) (.ind (.bitrev 3)) (.r 1)) ∧
    decode 0x24850001 = .ok (.mpyf3 (.reg 0) (.reg 1) 5) := by decide

theorem test_decode_threeOperand_2 :
    decode 0x25359504 = .ok (.mpyi3 (.ind (.idx .preAddMod .ir1 5)) (.reg (.r 4)) .st) ∧
    decode 0x25DA02AB = .ok (.or3 (.reg (.r 2)) (.ind (.idx .postSub .ir1 3)) .re) ∧
    decode 0x26799050 = .ok (.subb3 (.ind (.idx .preAddMod .ir1 0)) (.ind (.idx .preAddMod .ir0 0)) .rs) ∧
    decode 0x26860704 = .ok (.subf3 (.reg 7) (.reg 4) 6) ∧
    decode 0x272D1313 = .ok (.subi3 (.ind (.idx .preAddMod (.disp ()) 3)) (.reg .bk) (.ar 5)) ∧
    decode 0x27C00649 = .ok (.tstb3 (.reg (.r 6)) (.ind (.idx .preSub .ir0 1))) ∧
    decode 0x286D198D = .ok (.xor3 (.ind (.idx .preSubMod (.disp ()) 1)) (.ind (.idx .preSub .ir1 5)) (.ar 5)) := 
      by decide

theorem test_decode_condLoads :
    decode 0x47010000 = .ok (.ldfCond .nuf (.reg 0) 1) ∧
    decode 0x5537F645 = .ok (.ldiCond .ge (.dir 0xF645) .ifr) := by decide

theorem test_decode_longImmediate :
    decode 0x609151DC = .ok (.br 0x9151DC) ∧
    decode 0x612E5F5A = .ok (.brd 0x2E5F5A) ∧
    decode 0x62553F82 = .ok (.call 0x553F82) ∧
    decode 0x64738170 = .ok (.rptb 0x738170) := by decide

theorem test_decode_conditional :
    decode 0x68010002 = .ok (.bCond .lo (.reg (.r 2))) ∧
    decode 0x6A31D980 = .ok (.bCondD .lv (.rel 0xD980)) ∧
    decode 0x6D0E000B = .ok (.dbCond 4 .nuf (.reg (.ar 3))) ∧
    decode 0x6EF37D22 = .ok (.dbCondD 3 .luf (.rel 0x7D22)) ∧
    decode 0x70020013 = .ok (.callCond .ls (.reg .bk)) ∧
    decode 0x7409002A = .ok (.trapCond .gt 10) ∧
    decode 0x78100000 = .ok (.retiCond .nlv) ∧
    decode 0x78890000 = .ok (.retsCond .gt) := by decide

theorem test_decode_parallelMultiply :
    decode 0x83C1CE38 = .ok (.mpyf3_addf3 3 1 1 0 1 (.bitrev 6) (.idx .postSubCirc (.disp ()) 0)) ∧
    decode 0x86E69050 = .ok (.mpyf3_subf3 2 1 1 4 6 (.idx .preAddMod .ir1 0) (.idx .preAddMod .ir0 0)) ∧
    decode 0x89B2BA5A = .ok (.mpyi3_addi3 1 1 0 6 2 (.idx .postSubCirc .ir1 2) (.idx .preSubMod .ir0 2)) ∧
    decode 0x8DC88D09 = .ok (.mpyi3_subi3 1 1 1 1 0 (.idx .preSub .ir1 5) (.idx .preSub (.disp ()) 1)) := by decide

theorem test_decode_parallelStore_1 :
    decode 0xC0450C90 = .ok (.stf_stf 1 5 (.idx .preSub (.disp ()) 4) (.idx .preAddMod .ir1 0)) ∧
    decode 0xC3809F62 = .ok (.sti_sti 6 0 (.idx .preSubMod .ir1 7) (.idx .postAdd .ir0 2)) ∧
    decode 0xC4B8C74D = .ok (.ldf_ldf 2 7 (.plain 7) (.idx .preSub .ir0 5)) ∧
    decode 0xC6089521 = .ok (.ldi_ldi 0 1 (.idx .preAddMod .ir1 5) (.idx .postAdd (.disp ()) 1)) ∧
    decode 0xC944C62E = .ok (.absf_stf 5 4 (.plain 6) (.idx .postSub (.disp ()) 6)) ∧
    decode 0xCA07C6BA = .ok (.absi_sti 0 7 (.plain 6) (.idx .postSubCirc .ir1 2)) ∧
    decode 0xCD57CB48 = .ok (.addf3_stf 5 2 7 (.bitrev 3) (.idx .preSub .ir0 0)) ∧
    decode 0xCF753885 = .ok (.addi3_sti 5 6 5 (.idx .postSubCirc (.disp ()) 0) (.idx .preAdd .ir1 5)) ∧
    decode 0xD1365160 = .ok (.and3_sti 4 6 6 (.idx .preAddMod .ir0 1) (.idx .postAdd .ir0 0)) ∧
    decode 0xD3E613AD = .ok (.ash3_sti 7 4 6 (.idx .preAddMod (.disp ()) 3) (.idx .postSub .ir1 5)) := by decide

theorem test_decode_parallelStore_2 :
    decode 0xD5C3198D = .ok (.fix_sti 7 3 (.idx .preSubMod (.disp ()) 1) (.idx .preSub .ir1 5)) ∧
    decode 0xD7407E0C = .ok (.float_stf 5 0 (.idx .postSubCirc .ir0 6) (.idx .preSub (.disp ()) 4)) ∧
    decode 0xD981509F = .ok (.ldf_stf 6 1 (.idx .preAddMod .ir0 0) (.idx .preSubMod .ir1 7)) ∧
    decode 0xDB8367C7 = .ok (.ldi_sti 6 3 (.idx .postAdd .ir0 7) (.plain 7)) ∧
    decode 0xDCE93195 = .ok (.lsh3_sti 3 5 1 (.idx .postAddCirc (.disp ()) 1) (.idx .preAddMod .ir1 5)) ∧
    decode 0xDE0EABC6 = .ok (.mpyf3_stf 0 1 6 (.idx .postSub .ir1 3) (.plain 6)) ∧
    decode 0xE07071C6 = .ok (.mpyi3_sti 1 6 0 (.idx .postAddCirc .ir0 1) (.plain 6)) ∧
    decode 0xE2C75ACB = .ok (.negf_stf 3 7 (.idx .preSubMod .ir0 2) (.bitrev 3)) ∧
    decode 0xE441CE38 = .ok (.negi_sti 1 1 (.bitrev 6) (.idx .postSubCirc (.disp ()) 0)) ∧
    decode 0xE7835651 = .ok (.not_sti 6 3 (.idx .preAddMod .ir0 6) (.idx .preAddMod .ir0 1)) := by decide

theorem test_decode_parallelStore_3 :
    decode 0xE801BC13 = .ok (.or3_sti 0 0 1 (.idx .postSubCirc .ir1 4) (.idx .preAddMod (.disp ()) 3)) ∧
    decode 0xEBEA4919 = .ok (.subf3_stf 7 5 2 (.idx .preSub .ir0 1) (.idx .preSubMod (.disp ()) 1)) ∧
    decode 0xEC6E097E = .ok (.subi3_sti 1 5 6 (.idx .preSub (.disp ()) 1) (.idx .postSubCirc .ir0 6)) ∧
    decode 0xEEE69050 = .ok (.xor3_sti 3 4 6 (.idx .preAddMod .ir1 0) (.idx .preAddMod .ir0 0)) := by decide

/-! ## The spec's examples, one for each instruction -/

/-- Guide example `ABSF R4, R7` (95_test_vectors.md). -/
theorem test_absf :
    sees 0x00070004 (given 0x1000 0x0 [(.r 4, 0x5C8000F971)] []) (fun t => (held (.r 7) t, t.st)) =
      some (0x5C7FFF068F, 0x0) := by decide

/-- Guide example `ABSI R0, R0` (95_test_vectors.md). -/
theorem test_absi :
    sees 0x00800000 (given 0x1000 0x0 [(.r 0, 0xFFFFFFCB)] []) (fun t => (held (.r 0) t, t.st)) =
      some (0x35, 0x0) := by decide

/-- Guide example `ADDC 0, R1` (95_test_vectors.md). -/
theorem test_addc :
    sees 0x01610000 (given 0x1000 0x1 [(.r 1, 0xFFFFFFFF)] []) (fun t => (held (.r 1) t, t.st)) =
      some (0x0, 0x5) := by decide

/-- Guide example `ADDF *AR4++(IR1), R5` (95_test_vectors.md). -/
theorem test_addf :
    sees 0x01C5A400 (given 0x1000 0x0 [(.r 5, 0x579800000), (.ar 4, 0x809800), (.ir1, 0x12B)] [(0x809800, 0x86B2800)])
      (fun t => (held (.r 5) t, held (.ar 4) t, t.st)) =
      some (0x9052C0000, 0x80992B, 0x0) := by decide

/-- Guide example `ADDI R3, R7` (95_test_vectors.md). -/
theorem test_addi :
    sees 0x02070003 (given 0x1000 0x0 [(.r 3, 0xFFFFFFCB), (.r 7, 0x35)] []) (fun t => (held (.r 7) t, t.st)) =
      some (0x0, 0x5) := by decide

/-- Guide example `AND R1, R2` (95_test_vectors.md). -/
theorem test_and :
    sees 0x02820001 (given 0x1000 0x1 [(.r 1, 0x80), (.r 2, 0xAFF)] []) (fun t => (held (.r 2) t, t.st)) =
      some (0x80, 0x1) := by decide

/-- Guide example `ANDN @980Ch, R2` (95_test_vectors.md). -/
theorem test_andn :
    sees 0x0322980C (given 0x1000 0x0 [(.r 2, 0xC2F), (.dp, 0x80)] [(0x80980C, 0xA02)])
      (fun t => (held (.r 2) t, t.st)) =
      some (0x42D, 0x0) := by decide

/-- Guide example `ASH R1, R3` (95_test_vectors.md). -/
theorem test_ash :
    sees 0x03830001 (given 0x1000 0x0 [(.r 1, 0x10), (.r 3, 0xAE000)] []) (fun t => (held (.r 3) t, t.st)) =
      some (0xE0000000, 0x2A) := by decide

/-- Guide example `CMPF *+AR4, R6` (95_test_vectors.md). -/
theorem test_cmpf :
    sees 0x04460401 (given 0x1000 0x0 [(.r 6, 0x70C800000), (.ar 4, 0x8098F2)] [(0x8098F3, 0x70C8000)])
      (fun t => (t.st, t.pc)) =
      some (0x4, 0x1001) := by decide

/-- Guide example `CMPI R3, R7` (95_test_vectors.md). -/
theorem test_cmpi :
    sees 0x04870003 (given 0x1000 0x0 [(.r 3, 0x898), (.r 7, 0x3E8)] []) (fun t => (t.st, t.pc)) =
      some (0x9, 0x1001) := by decide

/-- Guide example `FIX R1, R2` (95_test_vectors.md). -/
theorem test_fix :
    sees 0x05020001 (given 0x1000 0x0 [(.r 1, 0xA28200000)] []) (fun t => (held (.r 2) t, t.st)) =
      some (0x541, 0x0) := by decide

/-- Guide example `FLOAT *++AR2(2), R5` (95_test_vectors.md). -/
theorem test_float :
    sees 0x05C51202 (given 0x1000 0x0 [(.ar 2, 0x809800)] [(0x809802, 0xAE)])
      (fun t => (held (.r 5) t, held (.ar 2) t, t.st)) =
      some (0x72E000000, 0x809802, 0x0) := by decide

/-- Guide example `LSH R4, R7` (95_test_vectors.md). -/
theorem test_lsh :
    sees 0x09870004 (given 0x1000 0x0 [(.r 4, 0x18), (.r 7, 0x2AC)] []) (fun t => (held (.r 7) t, t.st)) =
      some (0xAC000000, 0x8) := by decide

/-- Guide example `MPYF R0, R2` (95_test_vectors.md). -/
theorem test_mpyf :
    sees 0x0A020000 (given 0x1000 0x0 [(.r 0, 0x70C800000), (.r 2, 0x34C200000)] [])
      (fun t => (held (.r 2) t, t.st)) =
      some (0xA600F2000, 0x0) := by decide

/-- Guide example `MPYI R1, R5` (95_test_vectors.md). -/
theorem test_mpyi :
    sees 0x0A850001 (given 0x1000 0x0 [(.r 1, 0x33C251), (.r 5, 0x78B600)] []) (fun t => (held (.r 5) t, t.st)) =
      some (0xE21D9600, 0x2A) := by decide

/-- Guide example `NEGB R5, R7` (95_test_vectors.md). -/
theorem test_negb :
    sees 0x0B070005 (given 0x1000 0x1 [(.r 5, 0xFFFFFFCB)] []) (fun t => (held (.r 7) t, t.st)) =
      some (0x34, 0x1) := by decide

/-- Guide example `NEGF *++AR3(2), R1` (95_test_vectors.md). -/
theorem test_negf :
    sees 0x0BC11302 (given 0x1000 0x0 [(.ar 3, 0x809800)] [(0x809802, 0x70C8000)])
      (fun t => (held (.r 1) t, held (.ar 3) t, t.st)) =
      some (0x7F3800000, 0x809802, 0x8) := by decide

/-- Guide example `NEGI 174, R5` (95_test_vectors.md). -/
theorem test_negi :
    sees 0x0C6500AE (given 0x1000 0x0 [] []) (fun t => (held (.r 5) t, t.st)) =
      some (0xFFFFFF52, 0x9) := by decide

/-- Guide example `NORM R1, R2` (95_test_vectors.md). -/
theorem test_norm :
    sees 0x0D020001 (given 0x1000 0x0 [(.r 1, 0x400003AF5)] []) (fun t => (held (.r 2) t, t.st)) =
      some (0xF26BD40000, 0x0) := by decide

/-- Guide example `NOT @982Ch, R4` (95_test_vectors.md). -/
theorem test_not :
    sees 0x0DA4982C (given 0x1000 0x0 [(.dp, 0x80)] [(0x80982C, 0x5E2F)]) (fun t => (held (.r 4) t, t.st)) =
      some (0xFFFFA1D0, 0x8) := by decide

/-- Guide example `OR 0FFFFh, R1` (95_test_vectors.md). -/
theorem test_or :
    sees 0x1061FFFF (given 0x1000 0x0 [(.r 1, 0x12340000)] []) (fun t => (held (.r 1) t, t.st)) =
      some (0x1234FFFF, 0x0) := by decide

/-- Guide example `RND R5, R2` (95_test_vectors.md). -/
theorem test_rnd :
    sees 0x11020005 (given 0x1000 0x0 [(.r 5, 0x733C16EEF)] []) (fun t => (held (.r 2) t, t.st)) =
      some (0x733C16F00, 0x0) := by decide

/-- Guide example `ROL R3` (95_test_vectors.md). -/
theorem test_rol :
    sees 0x11E30001 (given 0x1000 0x0 [(.r 3, 0x80025CD4)] []) (fun t => (held (.r 3) t, t.st)) =
      some (0x4B9A9, 0x1) := by decide

/-- Guide example `ROLC R3` (95_test_vectors.md). -/
theorem test_rolc :
    sees 0x12630001 (given 0x1000 0x1 [(.r 3, 0x420)] []) (fun t => (held (.r 3) t, t.st)) =
      some (0x841, 0x0) := by decide

/-- Guide example `ROR R7` (95_test_vectors.md). -/
theorem test_ror :
    sees 0x12E7FFFF (given 0x1000 0x0 [(.r 7, 0x421)] []) (fun t => (held (.r 7) t, t.st)) =
      some (0x80000210, 0x9) := by decide

/-- Guide example `RORC R4` (95_test_vectors.md). -/
theorem test_rorc :
    sees 0x1364FFFF (given 0x1000 0x0 [(.r 4, 0x80000081)] []) (fun t => (held (.r 4) t, t.st)) =
      some (0x40000040, 0x1) := by decide

/-- Guide example `SUBB *AR5++(4), R5` (95_test_vectors.md). -/
theorem test_subb :
    sees 0x16C52504 (given 0x1000 0x1 [(.r 5, 0xFA), (.ar 5, 0x809800)] [(0x809800, 0xC7)])
      (fun t => (held (.r 5) t, held (.ar 5) t, t.st)) =
      some (0x32, 0x809804, 0x0) := by decide

/-- Guide example `SUBC @98C5h, R1` (95_test_vectors.md). -/
theorem test_subc :
    sees 0x172198C5 (given 0x1000 0x0 [(.r 1, 0x4F6), (.dp, 0x80)] [(0x8098C5, 0x492)])
      (fun t => (held (.r 1) t, t.st)) =
      some (0xC9, 0x0) := by decide

/-- Guide example `SUBF *AR0--(IR0), R5` (95_test_vectors.md). -/
theorem test_subf :
    sees 0x17C56800 (given 0x1000 0x0 [(.r 5, 0x733C00000), (.ar 0, 0x809888), (.ir0, 0x80)] [(0x809888, 0x70C8000)])
      (fun t => (held (.r 5) t, held (.ar 0) t, t.st)) =
      some (0x51D000000, 0x809808, 0x0) := by decide

/-- Guide example `SUBI 220, R7` (95_test_vectors.md). -/
theorem test_subi :
    sees 0x186700DC (given 0x1000 0x0 [(.r 7, 0x226)] []) (fun t => (held (.r 7) t, t.st)) =
      some (0x14A, 0x0) := by decide

/-- Guide example `SUBRB R0, R1` (95_test_vectors.md). -/
theorem test_subrb :
    sees 0x18810000 (given 0x1000 0x1 [(.r 0, 0xFA), (.r 1, 0xC7)] []) (fun t => (held (.r 1) t, t.st)) =
      some (0x32, 0x0) := by decide

/-- Guide example `SUBRF 2.0, R2` (95_test_vectors.md). -/
theorem test_subrf :
    sees 0x19621000 (given 0x1000 0x0 [(.r 2, 0x40000000)] []) (fun t => (held (.r 2) t, t.st)) =
      some (0xFF00000000, 0x0) := by decide

/-- Guide example `SUBRI *AR5++(IR0), R3` (95_test_vectors.md). -/
theorem test_subri :
    sees 0x19C36500 (given 0x1000 0x0 [(.r 3, 0xDC), (.ar 5, 0x809900), (.ir0, 0x8)] [(0x809900, 0x226)])
      (fun t => (held (.r 3) t, held (.ar 5) t, t.st)) =
      some (0x14A, 0x809908, 0x0) := by decide

/-- Guide example `TSTB *-AR4(1), R5` (95_test_vectors.md). -/
theorem test_tstb :
    sees 0x1A450C01 (given 0x1000 0x0 [(.r 5, 0x898), (.ar 4, 0x8099C5)] [(0x8099C4, 0x767)])
      (fun t => (t.st, t.pc)) =
      some (0x4, 0x1001) := by decide

/-- Guide example `XOR R1, R2` (95_test_vectors.md). -/
theorem test_xor :
    sees 0x1A820001 (given 0x1000 0x0 [(.r 1, 0xFFA32), (.r 2, 0xFF5C1)] []) (fun t => (held (.r 2) t, t.st)) =
      some (0xFF3, 0x0) := by decide

/-- Guide example `LDE R0, R5` (95_test_vectors.md). -/
theorem test_lde :
    sees 0x06850000 (given 0x1000 0x0 [(.r 0, 0x200056F30), (.r 5, 0xA056FE332)] [])
      (fun t => (held (.r 5) t, t.st)) =
      some (0x2056FE332, 0x0) := by decide

/-- Guide example `LDF @9800h, R2` (95_test_vectors.md). -/
theorem test_ldf :
    sees 0x07229800 (given 0x1000 0x0 [(.dp, 0x80)] [(0x809800, 0x10C52A0)]) (fun t => (held (.r 2) t, t.st)) =
      some (0x10C52A000, 0x0) := by decide

/-- Guide example `LDFZ R3, R5` (95_test_vectors.md). -/
theorem test_ldfCond :
    sees 0x42850003 (given 0x1000 0x4 [(.r 3, 0x2CFF2CD500), (.r 5, 0x5F0000003E)] [])
      (fun t => (held (.r 5) t, t.st)) =
      some (0x2CFF2CD500, 0x4) := by decide

/-- Guide example `LDI *-AR1(IR0), R5` (95_test_vectors.md). -/
theorem test_ldi :
    sees 0x08454900 (given 0x1000 0x0 [(.ar 1, 0x2C), (.ir0, 0x5)] [(0x27, 0x26)]) (fun t => (held (.r 5) t, t.st)) =
      some (0x26, 0x0) := by decide

/-- Guide example `LDIZ *AR0++, R6` (95_test_vectors.md). -/
theorem test_ldiCond :
    sees 0x52C62001 (given 0x1000 0x0 [(.r 6, 0xFE2), (.ar 0, 0x8098F0)] [(0x8098F0, 0x27C)])
      (fun t => (held (.ar 0) t, t.st)) =
      some (0x8098F1, 0x0) := by decide

/-- Guide example `LDM 156.75, R2` (95_test_vectors.md). -/
theorem test_ldm :
    sees 0x096201CC (given 0x1000 0x0 [] []) (fun t => (held (.r 2) t, t.st)) =
      some (0x1CC00000, 0x0) := by decide

/-- Guide example `LDP @809800h` (95_test_vectors.md). -/
theorem test_ldp :
    sees 0x08700080 (given 0x1000 0x0 [] []) (fun t => (held (.dp) t, t.st)) =
      some (0x80, 0x0) := by decide

/-- Guide example `POP R3` (95_test_vectors.md). -/
theorem test_pop :
    sees 0x0E230000 (given 0x1000 0x0 [(.sp, 0x8098AF)] [(0x8098AF, 0xFFFFFF24)])
      (fun t => (held (.r 3) t, held (.sp) t, t.st)) =
      some (0xFFFFFF24, 0x8098AE, 0x8) := by decide

/-- Guide example `POPF R2` (95_test_vectors.md). -/
theorem test_popf :
    sees 0x0EA20000 (given 0x1000 0x0 [(.sp, 0x809802)] [(0x809802, 0x25C1280)])
      (fun t => (held (.r 2) t, held (.sp) t, t.st)) =
      some (0x25C128000, 0x809801, 0x0) := by decide

/-- Guide example `PUSH R6` (95_test_vectors.md). -/
theorem test_push :
    sees 0x0F260000 (given 0x1000 0x0 [(.r 6, 0x25C128081), (.sp, 0x8098AE)] [])
      (fun t => (held (.sp) t, memWord t.mem 0x8098AF, t.st)) =
      some (0x8098AF, 0x5C128081, 0x0) := by decide

/-- Guide example `PUSHF R2` (95_test_vectors.md). -/
theorem test_pushf :
    sees 0x0FA20000 (given 0x1000 0x0 [(.r 2, 0x25C128081), (.sp, 0x809801)] [])
      (fun t => (held (.sp) t, memWord t.mem 0x809802, t.st)) =
      some (0x809802, 0x25C1280, 0x0) := by decide

/-- Guide example `STF R3, *-AR4` (95_test_vectors.md). -/
theorem test_stf :
    sees 0x14430C01 (given 0x1000 0x0 [(.r 3, 0x733C00000), (.ar 4, 0x80993C)] [])
      (fun t => (memWord t.mem 0x80993B, t.st)) =
      some (0x733C000, 0x0) := by decide

/-- Guide example `STI R4, @982Bh` (95_test_vectors.md). -/
theorem test_sti :
    sees 0x1524982B (given 0x1000 0x0 [(.r 4, 0x42BD7), (.dp, 0x80)] [(0x80982B, 0xE5FC)])
      (fun t => (memWord t.mem 0x80982B, t.st)) =
      some (0x42BD7, 0x0) := by decide

/-- Guide example `ADDC3 *AR5++(IR0), R5, R2` (95_test_vectors.md). -/
theorem test_addc3 :
    sees 0x20420565 (given 0x1000 0x1 [(.r 5, 0x66), (.ar 5, 0x809908), (.ir0, 0x10)] [(0x809908, 0xFFFFFFCB)])
      (fun t => (held (.r 2) t, held (.ar 5) t, t.st)) =
      some (0x32, 0x809918, 0x1) := by decide

/-- Guide example `ADDF3 R6, R5, R1` (95_test_vectors.md). -/
theorem test_addf3 :
    sees 0x20810506 (given 0x1000 0x0 [(.r 5, 0x579800000), (.r 6, 0x86B280000)] [])
      (fun t => (held (.r 1) t, t.st)) =
      some (0x9052C0000, 0x0) := by decide

/-- Guide example `ADDI3 R4, R7, R5` (95_test_vectors.md). -/
theorem test_addi3 :
    sees 0x21050704 (given 0x1000 0x0 [(.r 4, 0xDC), (.r 7, 0xA0)] []) (fun t => (held (.r 5) t, t.st)) =
      some (0x17C, 0x0) := by decide

/-- Guide example `AND3 *AR0--(IR0), *+AR1, R4` (95_test_vectors.md). -/
theorem test_and3 :
    sees 0x21E40168 (given 0x1000 0x0 [(.ar 0, 0x8098F4), (.ar 1, 0x809951), (.ir0, 0x50)]
      [(0x8098F4, 0x30), (0x809952, 0x123)])
      (fun t => (held (.r 4) t, held (.ar 0) t, t.st)) =
      some (0x20, 0x8098A4, 0x0) := by decide

/-- Guide example `ANDN3 R5, R3, R7` (95_test_vectors.md). -/
theorem test_andn3 :
    sees 0x22070305 (given 0x1000 0x0 [(.r 3, 0xC2F), (.r 5, 0xA02)] []) (fun t => (held (.r 7) t, t.st)) =
      some (0x42D, 0x0) := by decide

/-- Guide example `ASH3 *AR3--(1), R5, R0` (95_test_vectors.md). -/
theorem test_ash3 :
    sees 0x22C0052B (given 0x1000 0x0 [(.r 5, 0x2B0), (.ar 3, 0x809921)] [(0x809921, 0x10)])
      (fun t => (held (.r 0) t, held (.ar 3) t, t.st)) =
      some (0x2B00000, 0x809920, 0x0) := by decide

/-- Guide example `CMPF3 *AR2, *AR3--(1)` (95_test_vectors.md). -/
theorem test_cmpf3 :
    sees 0x23602BC2 (given 0x1000 0x0 [(.ar 2, 0x809831), (.ar 3, 0x809852)]
      [(0x809831, 0x77A7000), (0x809852, 0x57A2000)])
      (fun t => (held (.ar 3) t, t.st)) =
      some (0x809851, 0x8) := by decide

/-- Guide example `CMPI3 R7, R4` (95_test_vectors.md). -/
theorem test_cmpi3 :
    sees 0x23800407 (given 0x1000 0x0 [(.r 4, 0x898), (.r 7, 0x3E8)] []) (fun t => (t.st, t.pc)) =
      some (0x0, 0x1001) := by decide

/-- Guide example `LSH3 R4, R7, R2` (95_test_vectors.md). -/
theorem test_lsh3 :
    sees 0x24020704 (given 0x1000 0x0 [(.r 4, 0x18), (.r 7, 0x2AC)] []) (fun t => (held (.r 2) t, t.st)) =
      some (0xAC000000, 0x8) := by decide

/-- Guide example `MPYF3 R0, R7, R1` (95_test_vectors.md). -/
theorem test_mpyf3 :
    sees 0x24810700 (given 0x1000 0x0 [(.r 0, 0x57B400000), (.r 7, 0x733C00000)] [])
      (fun t => (held (.r 1) t, t.st)) =
      some (0xD306A3000, 0x0) := by decide

/-- Guide example `MPYI3 *AR4, *-AR1(1), R2` (95_test_vectors.md). -/
theorem test_mpyi3 :
    sees 0x256209C4 (given 0x1000 0x0 [(.ar 1, 0x8098F3), (.ar 4, 0x809850)] [(0x809850, 0xAD), (0x8098F2, 0xDC)])
      (fun t => (held (.r 2) t, t.st)) =
      some (0x94AC, 0x0) := by decide

/-- Guide example `OR3 *++AR1(IR1), R2, R7` (95_test_vectors.md). -/
theorem test_or3 :
    sees 0x25C70291 (given 0x1000 0x0 [(.r 2, 0x12560000), (.ar 1, 0x809800), (.ir1, 0x4)] [(0x809804, 0x2BCD)])
      (fun t => (held (.r 7) t, held (.ar 1) t, t.st)) =
      some (0x12562BCD, 0x809804, 0x0) := by decide

/-- Guide example `SUBB3 R5, *AR5++(IR0), R0` (95_test_vectors.md). -/
theorem test_subb3 :
    sees 0x26206505 (given 0x1000 0x1 [(.r 5, 0xC7), (.ar 5, 0x809800), (.ir0, 0x4)] [(0x809800, 0xFA)])
      (fun t => (held (.r 0) t, held (.ar 5) t, t.st)) =
      some (0x32, 0x809804, 0x0) := by decide

/-- Guide example `SUBF3 *AR0--(IR0), *AR1, R4` (95_test_vectors.md). -/
theorem test_subf3 :
    sees 0x26E4C168 (given 0x1000 0x0 [(.ar 0, 0x809888), (.ar 1, 0x809851), (.ir0, 0x80)]
      [(0x809888, 0x70C8000), (0x809851, 0x733C000)])
      (fun t => (held (.r 4) t, held (.ar 0) t, t.st)) =
      some (0x51D000000, 0x809808, 0x0) := by decide

/-- Guide example `SUBI3 R7, R2, R0` (95_test_vectors.md). -/
theorem test_subi3 :
    sees 0x27000207 (given 0x1000 0x0 [(.r 2, 0x866), (.r 7, 0x834)] []) (fun t => (held (.r 0) t, t.st)) =
      some (0x32, 0x0) := by decide

/-- Guide example `TSTB3 *AR5--(IR0), *+AR0(1)` (95_test_vectors.md). -/
theorem test_tstb3 :
    sees 0x27E0006D (given 0x1000 0x0 [(.ar 0, 0x80992C), (.ar 5, 0x809885), (.ir0, 0x80)]
      [(0x809885, 0x898), (0x80992D, 0x767)])
      (fun t => (held (.ar 5) t, t.st)) =
      some (0x809805, 0x4) := by decide

/-- Guide example `XOR3 *AR3++(IR0), R7, R4` (95_test_vectors.md). -/
theorem test_xor3 :
    sees 0x28440763 (given 0x1000 0x0 [(.r 7, 0xFFFF), (.ar 3, 0x809800), (.ir0, 0x10)] [(0x809800, 0x5AC3)])
      (fun t => (held (.r 4) t, held (.ar 3) t, t.st)) =
      some (0xA53C, 0x809810, 0x0) := by decide

/-- Guide example `ABSF *++AR3(IR1), R4 || STF R4, *-AR7(1)` (95_test_vectors.md). -/
theorem test_absf_stf :
    sees 0xC9040F93 (given 0x1000 0x0 [(.r 4, 0x733C00000), (.ar 3, 0x809800), (.ar 7, 0x8098C5), (.ir1, 0xAF)]
      [(0x8098AF, 0x58B4000)])
      (fun t => (held (.r 4) t, held (.ar 3) t, memWord t.mem 0x8098C4, t.st)) =
      some (0x574C00000, 0x8098AF, 0x733C000, 0x0) := by decide

/-- Guide example `ABSI *-AR5(1), R5 || STI R1, *AR2--(IR1)` (95_test_vectors.md). -/
theorem test_absi_sti :
    sees 0xCB41AA0D (given 0x1000 0x0 [(.r 1, 0x42), (.ar 2, 0x8098FF), (.ar 5, 0x8099E2), (.ir1, 0xF)]
      [(0x8099E1, 0xFFFFFFCB)])
      (fun t => (held (.r 5) t, held (.ar 2) t, memWord t.mem 0x8098FF, t.st)) =
      some (0x35, 0x8098F0, 0x42, 0x0) := by decide

/-- Guide example `ADDF3 *+AR3(IR1), R2, R5 || STF R4, *AR2` (95_test_vectors.md). -/
theorem test_addf3_stf :
    sees 0xCD54C283 (given 0x1000 0x0 [(.r 2, 0x70C800000), (.r 4, 0x57B400000), (.ar 2, 0x8098F3),
       (.ar 3, 0x809800), (.ir1, 0xA5)]
      [(0x8098A5, 0x733C000)])
      (fun t => (held (.r 5) t, memWord t.mem 0x8098F3, t.st)) =
      some (0x820200000, 0x57B4000, 0x0) := by decide

/-- Guide example `ADDI3 *AR0--(IR0), R5, R0 || STI R3, *AR7` (95_test_vectors.md). -/
theorem test_addi3_sti :
    sees 0xCE2BC768 (given 0x1000 0x0 [(.r 3, 0x35), (.r 5, 0xDC), (.ar 0, 0x80992C), (.ar 7, 0x80983B), (.ir0, 0xC)]
      [(0x80992C, 0x12C)])
      (fun t => (held (.r 0) t, held (.ar 0) t, memWord t.mem 0x80983B, t.st)) =
      some (0x208, 0x809920, 0x35, 0x0) := by decide

/-- Guide example `AND3 *+AR1(IR0), R4, R7 || STI R3, *AR2` (95_test_vectors.md). -/
theorem test_and3_sti :
    sees 0xD1E3C241 (given 0x1000 0x0 [(.r 3, 0x35), (.r 4, 0xA323), (.ar 1, 0x8099F1), (.ar 2, 0x80983F), (.ir0, 0x8)]
      [(0x8099F9, 0x5C53)])
      (fun t => (held (.r 7) t, memWord t.mem 0x80983F, t.st)) =
      some (0x3, 0x35, 0x0) := by decide

/-- Guide example `ASH3 R1, *AR6++(IR1), R0 || STI R5, *AR2` (95_test_vectors.md). -/
theorem test_ash3_sti :
    sees 0xD20DC2A6 (given 0x1000 0x0 [(.r 1, 0xFFE8), (.r 5, 0x35), (.ar 2, 0x8098A2), (.ar 6, 0x809900), (.ir1, 0x8C)]
      [(0x809900, 0xAE000000)])
      (fun t => (held (.r 0) t, held (.ar 6) t, memWord t.mem 0x8098A2, t.st)) =
      some (0xFFFFFFAE, 0x80998C, 0x35, 0x8) := by decide

/-- Guide example `FIX *++AR4(1), R1 || STI R0, *AR2` (95_test_vectors.md). -/
theorem test_fix_sti :
    sees 0xD440C214 (given 0x1000 0x0 [(.r 0, 0xDC), (.ar 2, 0x80983C), (.ar 4, 0x8098A2)] [(0x8098A3, 0x733C000)])
      (fun t => (held (.r 1) t, held (.ar 4) t, memWord t.mem 0x80983C, t.st)) =
      some (0xB3, 0x8098A3, 0xDC, 0x0) := by decide

/-- Guide example `FLOAT *+AR2(IR0), R6 || STF R7, *AR1` (95_test_vectors.md). -/
theorem test_float_stf :
    sees 0xD787C142 (given 0x1000 0x0 [(.r 7, 0x34C200000), (.ar 1, 0x809933), (.ar 2, 0x8098C5), (.ir0, 0x8)]
      [(0x8098CD, 0xAE)])
      (fun t => (held (.r 6) t, memWord t.mem 0x809933, t.st)) =
      some (0x72E000000, 0x34C2000, 0x0) := by decide

/-- Guide example `LDF *AR2--(1), R1 || STF R3, *AR4++(IR1)` (95_test_vectors.md). -/
theorem test_ldf_stf :
    sees 0xD843A42A (given 0x1000 0x0 [(.r 3, 0x57B400000), (.ar 2, 0x8098E7), (.ar 4, 0x809900), (.ir1, 0x10)]
      [(0x8098E7, 0x70C8000)])
      (fun t => (held (.r 1) t, held (.ar 2) t, held (.ar 4) t, memWord t.mem 0x809900, t.st)) =
      some (0x70C800000, 0x8098E6, 0x809910, 0x57B4000, 0x0) := by decide

/-- Guide example `LDI *-AR1(1), R2 || STI R7, *AR5++(IR0)` (95_test_vectors.md). -/
theorem test_ldi_sti :
    sees 0xDA876509 (given 0x1000 0x0 [(.r 7, 0x35), (.ar 1, 0x8098E7), (.ar 5, 0x80982C), (.ir0, 0x8)]
      [(0x8098E6, 0xDC)])
      (fun t => (held (.r 2) t, held (.ar 5) t, memWord t.mem 0x80982C, t.st)) =
      some (0xDC, 0x809834, 0x35, 0x0) := by decide

/-- Guide example `LSH3 R2, *++AR3(1), R0 || STI R4, *-AR5` (95_test_vectors.md). -/
theorem test_lsh3_sti :
    sees 0xDC140D13 (given 0x1000 0x0 [(.r 2, 0x18), (.r 4, 0xDC), (.ar 3, 0x8098C2), (.ar 5, 0x8098A3)]
      [(0x8098C3, 0xAC)])
      (fun t => (held (.r 0) t, held (.ar 3) t, memWord t.mem 0x8098A2, t.st)) =
      some (0xAC000000, 0x8098C3, 0xDC, 0x8) := by decide

/-- Guide example `MPYF3 *-AR2(1), R7, R0 || STF R3, *AR0--(IR0)` (95_test_vectors.md). -/
theorem test_mpyf3_stf :
    sees 0xDE3B680A (given 0x1000 0x0 [(.r 3, 0x86B280000), (.r 7, 0x57B400000), (.ar 0, 0x809860),
       (.ar 2, 0x80982B), (.ir0, 0x8)]
      [(0x80982A, 0x70C8000)])
      (fun t => (held (.r 0) t, held (.ar 0) t, memWord t.mem 0x809860, t.st)) =
      some (0xD09E4A000, 0x809858, 0x86B2800, 0x0) := by decide

/-- Guide example `MPYI3 *++AR0(1), R5, R7 || STI R2, *-AR3(1)` (95_test_vectors.md). -/
theorem test_mpyi3_sti :
    sees 0xE1EA0B10 (given 0x1000 0x0 [(.r 2, 0xDC), (.r 5, 0x32), (.ar 0, 0x80995A), (.ar 3, 0x80982F)]
      [(0x80995B, 0xC8)])
      (fun t => (held (.r 7) t, held (.ar 0) t, memWord t.mem 0x80982E, t.st)) =
      some (0x2710, 0x80995B, 0xDC, 0x0) := by decide

/-- Guide example `NEGF *AR4--(1), R7 || STF R2, *++AR5(1)` (95_test_vectors.md). -/
theorem test_negf_stf :
    sees 0xE3C2152C (given 0x1000 0x0 [(.r 2, 0x733C00000), (.ar 4, 0x8098E1), (.ar 5, 0x809803)]
      [(0x8098E1, 0x57B4000)])
      (fun t => (held (.r 7) t, held (.ar 4) t, held (.ar 5) t, memWord t.mem 0x809804, t.st)) =
      some (0x584C00000, 0x8098E0, 0x809804, 0x733C000, 0x8) := by decide

/-- Guide example `NEGI *-AR3, R2 || STI R2, *AR1++` (95_test_vectors.md). -/
theorem test_negi_sti :
    sees 0xE482210B (given 0x1000 0x0 [(.r 2, 0x19), (.ar 1, 0x8098A5), (.ar 3, 0x80982F)] [(0x80982E, 0xDC)])
      (fun t => (held (.r 2) t, held (.ar 1) t, memWord t.mem 0x8098A5, t.st)) =
      some (0xFFFFFF24, 0x8098A6, 0x19, 0x9) := by decide

/-- Guide example `NOT *+AR2, R3 || STI R7, *--AR4(IR1)` (95_test_vectors.md). -/
theorem test_not_sti :
    sees 0xE6C79C02 (given 0x1000 0x0 [(.r 7, 0xDC), (.ar 2, 0x8099CB), (.ar 4, 0x809850), (.ir1, 0x10)]
      [(0x8099CC, 0xC2F)])
      (fun t => (held (.r 3) t, held (.ar 4) t, memWord t.mem 0x809840, t.st)) =
      some (0xFFFFF3D0, 0x809840, 0xDC, 0x8) := by decide

/-- Guide example `OR3 *++AR2, R5, R2 || STI R6, *AR1--` (95_test_vectors.md). -/
theorem test_or3_sti :
    sees 0xE8AE2912 (given 0x1000 0x0 [(.r 5, 0x800000), (.r 6, 0xDC), (.ar 1, 0x809883), (.ar 2, 0x809830)]
      [(0x809831, 0x9800)])
      (fun t => (held (.r 2) t, held (.ar 1) t, held (.ar 2) t, memWord t.mem 0x809883, t.st)) =
      some (0x809800, 0x809882, 0x809831, 0xDC, 0x0) := by decide

/-- Guide example `SUBF3 R1, *-AR4(IR1), R0 || STF R7, *+AR5(IR0)` (95_test_vectors.md). -/
theorem test_subf3_stf :
    sees 0xEA0F458C (given 0x1000 0x0 [(.r 1, 0x57B400000), (.r 7, 0x733C00000), (.ar 4, 0x8098B8),
       (.ar 5, 0x809850), (.ir0, 0x10), (.ir1, 0x8)]
      [(0x8098B0, 0x70C8000)])
      (fun t => (held (.r 0) t, memWord t.mem 0x809860, t.st)) =
      some (0x61B600000, 0x733C000, 0x0) := by decide

/-- Guide example `SUBI3 R7, *+AR2(IR0), R1 || STI R3, *++AR7` (95_test_vectors.md). -/
theorem test_subi3_sti :
    sees 0xEC7B1742 (given 0x1000 0x0 [(.r 3, 0x35), (.r 7, 0x14), (.ar 2, 0x80982F), (.ar 7, 0x80983B), (.ir0, 0x10)]
      [(0x80983F, 0xDC)])
      (fun t => (held (.r 1) t, held (.ar 7) t, memWord t.mem 0x80983C, t.st)) =
      some (0xC8, 0x80983C, 0x35, 0x0) := by decide

/-- Guide example `XOR3 *AR1++, R3, R3 || STI R6, *-AR2(IR0)` (95_test_vectors.md). -/
theorem test_xor3_sti :
    sees 0xEEDE4A21 (given 0x1000 0x0 [(.r 3, 0x85), (.r 6, 0xDC), (.ar 1, 0x80987E), (.ar 2, 0x8098B4), (.ir0, 0x8)]
      [(0x80987E, 0x85)])
      (fun t => (held (.r 3) t, held (.ar 1) t, memWord t.mem 0x8098AC, t.st)) =
      some (0x0, 0x80987F, 0xDC, 0x4) := by decide

/-- Guide example `LDF *--AR1(IR0), R7 || LDF *AR7++(1), R3` (95_test_vectors.md). -/
theorem test_ldf_ldf :
    sees 0xC5D82759 (given 0x1000 0x0 [(.ar 1, 0x80985F), (.ar 7, 0x80988A), (.ir0, 0x8)]
      [(0x809857, 0x70C8000), (0x80988A, 0x57B4000)])
      (fun t => (held (.r 3) t, held (.r 7) t, held (.ar 1) t, t.st)) =
      some (0x57B400000, 0x70C800000, 0x809857, 0x0) := by decide

/-- Guide example `LDI *-AR1(1), R7 || LDI *AR7++(IR0), R1` (95_test_vectors.md). -/
theorem test_ldi_ldi :
    sees 0xC7C86709 (given 0x1000 0x0 [(.ar 1, 0x809826), (.ar 7, 0x8098C8), (.ir0, 0x10)]
      [(0x809825, 0xFA), (0x8098C8, 0x2EE)])
      (fun t => (held (.r 1) t, held (.r 7) t, held (.ar 7) t, t.st)) =
      some (0x2EE, 0xFA, 0x8098D8, 0x0) := by decide

/-- Guide example `MPYF3 *AR5++(1), *--AR1(IR0), R0 || ADDF3 R5, R7, R3` (95_test_vectors.md). -/
theorem test_mpyf3_addf3 :
    sees 0x806F2559 (given 0x1000 0x0 [(.r 5, 0x733C00000), (.r 7, 0x70C800000), (.ar 1, 0x8098A8),
       (.ar 5, 0x8098C5), (.ir0, 0x4)]
      [(0x8098C5, 0x34C0000), (0x8098A4, 0x1110000)])
      (fun t => (held (.r 0) t, held (.r 3) t, held (.ar 1) t, t.st)) =
      some (0x467180000, 0x820200000, 0x8098A4, 0x0) := by decide

/-- Guide example `MPYF3 R5, *++AR7(IR1), R0 || SUBF3 R7, *AR3--(1), R2` (95_test_vectors.md). -/
theorem test_mpyf3_subf3 :
    sees 0x852F972B (given 0x1000 0x0 [(.r 5, 0x34C000000), (.r 7, 0x733C00000), (.ar 3, 0x8098B2),
       (.ar 7, 0x809904), (.ir1, 0x8)]
      [(0x80990C, 0x1110000), (0x8098B2, 0x70C8000)])
      (fun t => (held (.r 0) t, held (.r 2) t, held (.ar 3) t, t.st)) =
      some (0x467180000, 0x5E3000000, 0x8098B1, 0x0) := by decide

/-- Guide example `MPYI3 R7, R4, R0 || ADDI3 *-AR3, *AR5--(1), R3` (95_test_vectors.md). -/
theorem test_mpyi3_addi3 :
    sees 0x8A7C0B2D (given 0x1000 0x0 [(.r 4, 0x64), (.r 7, 0x14), (.ar 3, 0x80981F), (.ar 5, 0x80996E)]
      [(0x80981E, 0xFFFFFFCB), (0x80996E, 0x35)])
      (fun t => (held (.r 0) t, held (.ar 5) t, t.st)) =
      some (0x7D0, 0x80996D, 0x0) := by decide

/-- Guide example `MPYI3 R2, *++AR0(1), R0 || SUBI3 *AR5--(IR1), R4, R2` (95_test_vectors.md). -/
theorem test_mpyi3_subi3 :
    sees 0x8F1410AD (given 0x1000 0x0 [(.r 2, 0x32), (.r 4, 0x7D0), (.ar 0, 0x8098E3), (.ar 5, 0x8099FC), (.ir1, 0xC)]
      [(0x8098E4, 0x62), (0x8099FC, 0x4B0)])
      (fun t => (held (.r 0) t, held (.r 2) t, held (.ar 0) t, t.st)) =
      some (0x1324, 0x320, 0x8098E4, 0x0) := by decide

/-- Guide example `STF R4, *AR3-- || STF R3, *++AR5` (95_test_vectors.md). -/
theorem test_stf_stf :
    sees 0xC103152B (given 0x1000 0x0 [(.r 3, 0x733C00000), (.r 4, 0x70C800000), (.ar 3, 0x809835), (.ar 5, 0x8099D2)]
      [])
      (fun t => (held (.ar 3) t, held (.ar 5) t, memWord t.mem 0x809835, memWord t.mem 0x8099D3, t.st)) =
      some (0x809834, 0x8099D3, 0x70C8000, 0x733C000, 0x0) := by decide

/-- Guide example `STI R0, *++AR2(IR0) || STI R5, *AR0` (95_test_vectors.md). -/
theorem test_sti_sti :
    sees 0xC205C052 (given 0x1000 0x0 [(.r 0, 0xDC), (.r 5, 0x35), (.ar 0, 0x8098D3), (.ar 2, 0x809830), (.ir0, 0x8)]
      [])
      (fun t => (held (.ar 2) t, memWord t.mem 0x809838, memWord t.mem 0x8098D3, t.st)) =
      some (0x809838, 0xDC, 0x35, 0x0) := by decide

/-- Guide example `BZ R0` (95_test_vectors.md). -/
theorem test_bCond :
    sees 0x68050000 (given 0x2B00 0x4 [(.r 0, 0x3FF00)] []) (fun t => (t.st, t.pc)) =
      some (0x4, 0x3FF00) := by decide

/-- Guide example `BR 805Ch` (95_test_vectors.md). -/
theorem test_br :
    sees 0x6000805C (given 0x80 0x0 [] []) (fun t => (t.st, t.pc)) =
      some (0x0, 0x805C) := by decide

/-- Guide example `CALL 123456h` (95_test_vectors.md). -/
theorem test_call :
    sees 0x62123456 (given 0x5 0x0 [(.sp, 0x809801)] [])
      (fun t => (held (.sp) t, memWord t.mem 0x809802, t.st, t.pc)) =
      some (0x809802, 0x6, 0x0, 0x123456) := by decide

/-- Guide example `CALLNZ R5` (95_test_vectors.md). -/
theorem test_callCond :
    sees 0x70060005 (given 0x123 0x0 [(.r 5, 0x789), (.sp, 0x809835)] [])
      (fun t => (held (.sp) t, memWord t.mem 0x809836, t.st, t.pc)) =
      some (0x809836, 0x124, 0x0, 0x789) := by decide

/-- Guide example `DBLT AR3, R2` (95_test_vectors.md). -/
theorem test_dbCond :
    sees 0x6CC70002 (given 0x5F 0x8 [(.r 2, 0x9F), (.ar 3, 0x12)] []) (fun t => (held (.ar 3) t, t.st, t.pc)) =
      some (0x11, 0x8, 0x9F) := by decide

/-- Guide example `NOP` (95_test_vectors.md). -/
theorem test_nop :
    sees 0x0C800000 (given 0x3A 0x0 [] []) (fun t => (t.st, t.pc)) =
      some (0x0, 0x3B) := by decide

/-- Guide example `IACK *AR5` (95_test_vectors.md). -/
theorem test_iack :
    sees 0x1B40C500 (given 0x300 0x0 [(.ar 5, 0x809900)] [(0x809900, 0x0)]) (fun t => (t.st, t.pc)) =
      some (0x0, 0x301) := by decide

/-- Guide example `RPTB 127h` (95_test_vectors.md). -/
theorem test_rptb :
    sees 0x64000127 (given 0x123 0x0 [] []) (fun t => (held (.rs) t, held (.re) t, t.st)) =
      some (0x124, 0x127, 0x100) := by decide

/-- Guide example `RPTS AR5` (95_test_vectors.md). -/
theorem test_rpts :
    sees 0x139B000D (given 0x123 0x0 [(.ar 5, 0xFF)] []) (fun t => (held (.rs) t, held (.re) t, held (.rc) t, t.st)) =
      some (0x124, 0x124, 0xFF, 0x100) := by decide

/-- Guide example `RETINZ` (95_test_vectors.md). -/
theorem test_retiCond :
    sees 0x78060000 (given 0x456 0x0 [(.sp, 0x809830)] [(0x809830, 0x123)]) (fun t => (held (.sp) t, t.st, t.pc)) =
      some (0x80982F, 0x2000, 0x123) := by decide

/-- Guide example `RETSGE` (95_test_vectors.md). -/
theorem test_retsCond :
    sees 0x788A0000 (given 0x123 0x0 [(.sp, 0x80983C)] [(0x80983C, 0x456)]) (fun t => (held (.sp) t, t.st, t.pc)) =
      some (0x80983B, 0x0, 0x456) := by decide

/-- Guide example `TRAPZ 16` (95_test_vectors.md). -/
theorem test_trapCond :
    sees 0x74050030 (given 0x123 0x4 [(.sp, 0x809870)] [(0x30, 0x10)])
      (fun t => (held (.sp) t, memWord t.mem 0x809871, t.st, t.pc)) =
      some (0x809871, 0x124, 0x4, 0x10) := by decide

/-- Derived vector `BZD 1234h` (95_test_vectors.md). -/
theorem test_bCondD :
    sees 0x6A250231 (given 0x1000 0x4 [] []) (fun t => (t.st, t.pc)) =
      some (0x4, 0x1001) := by decide

/-- Derived vector `IDLE` (95_test_vectors.md). -/
theorem test_idle :
    sees 0x06000000 (given 0x1000 0x0 [] []) (fun t => (t.st, t.pc)) =
      some (0x2000, 0x1001) := by decide

/-! ## The instructions the examples leave out -/

/-- LDFI of on-chip memory is LDF (R501, R506). -/
theorem test_ldfi :
    sees 0x07A19800 (given 0x1000 0x0 [(.dp, 0x80)] [(0x809800, 0x86B2800)]) (fun t => (held (.r 1) t, t.lockWait)) =
      some (0x86B280000, 0) := by decide

/-- LDII off-chip waits while XF1 is high, with XF0 low (R502). -/
theorem test_ldii :
    sees 0x08A11000 { given 0x1000 0x0 [(.iof, 6)] [(0x1000, 7)] with bank := 0x1000 } (fun t => (t.lockWait, t.iof, t.pc)) =
      some (2, 2, 0x1000) := by decide

/-- STFI off-chip leaves XF0 high (R504). -/
theorem test_stfi :
    sees 0x14A11000 (given 0x1000 0x0 [(.r 1, 0x0540000000)] []) (fun t => (memWord t.mem 0x1000, t.iof)) =
      some (0x05400000, 6) := by decide

/-- STII on-chip is STI (R505, R506). -/
theorem test_stii :
    sees 0x15A19800 (given 0x1000 0x0 [(.r 1, 0x5), (.dp, 0x80)] []) (fun t => (memWord t.mem 0x809800, t.iof)) =
      some (5, 2) := by decide

/-- SIGI with XF1 low leaves XF0 high and goes on; the pin is low for that cycle (R503). -/
theorem test_sigi :
    sees 0x16000000 { given 0x1000 0x0 [] [] with pins := { Pins.quiet with xf1 := false } }
      (fun t => (t.iof, t.lockWait, t.pc, xf0Pin t)) = some (6, 0, 0x1001, .low) := by decide

theorem test_idle2 : sees 0x06000001 (given 0x1000 0x0 [] []) (fun t => (t.idle, t.st)) = some (.idle2, 0x2000) := by
  decide

theorem test_idle2_c31 : refuses 0x06000001 { given 0x1000 0x0 [] [] with device := .c31 } .lowPowerAbsent = true := by
  decide

theorem test_lopower :
    sees 0x10800001 (given 0x1000 0x0 [] []) (fun t => (t.lowPower, t.pc)) = some (true, 0x1001) := by decide

theorem test_maxspeed :
    sees 0x10800000 { given 0x1000 0x0 [] [] with lowPower := true } (fun t => (t.lowPower, t.pc)) =
      some (false, 0x1001) := by decide

theorem test_swi : refuses 0x66000000 State.reset .emulatorInterrupt = true := by decide

/-- BRD leaves its target pending for three instructions (R446, R447). -/
theorem test_brd :
    sees 0x61001234 (given 0x1000 0x0 [] []) (fun t => (t.pc, t.delay)) =
      some (0x1001, some { target := some 0x1234, left := 3 }) := by decide

/-- DBcondD: the register is decremented below 0, so the branch is not taken (R452). -/
theorem test_dbCondD :
    sees 0x6EA00004 (given 0x1000 0x0 [(.ar 2, 0xAA000000)] []) (fun t => (held (.ar 2) t, t.delay)) =
      some (0xAAFFFFFF, some { target := none, left := 3 }) := by decide

/-! ## Steps -/

/-- The word placed for the next fetch is what the step runs. -/
theorem test_step_runs :
    stepSees (State.reset.withFetchWord 32 0x02670001) (fun t => (held (.r 7) t, t.pc)) = some (1, 1) := by decide

/-- An enabled interrupt is taken instead of the instruction: GIE 0, flag cleared, PC from the vector (R620). -/
theorem test_step_interrupt :
    stepSees { given 0x1000 0x2000 [(.sp, 0x809900), (.ie, 1), (.ifr, 3)] [(1, 0x4567)] with pins := .quiet }
      (fun t => (t.pc, t.st, t.ifr, memWord t.mem 0x809901)) = some (0x4567, 0, 2, 0x1000) := by decide

/-- The first cycle of RESET clears ST and IF (R802). -/
theorem test_step_reset :
    stepSees { given 0x1000 0x20FF [(.ifr, 3)] [] with pins := { Pins.quiet with reset := false } }
      (fun t => (t.st, t.ifr, t.resetLow)) = some (0, 0, 1) := by decide

/-- A read over the primary bus with SWW = 01 and WTCNT = 3 takes three wait states, whatever RDY is (R668). -/
theorem test_wait_states :
    (load 0x1000 { State.reset with primaryCtl := 0x68, pins := { Pins.quiet with rdy := true } }).map
      (fun x => x.2.elapsed) = .ok 3 := by decide

/-- A held bus keeps an access back, and HOLDA is low (R672). -/
theorem test_wait_held : (load 0x1000 { State.reset with primaryCtl := 0xC }).map (fun x => x.1) = .error (.stall .held) ∧
    holdaPin { State.reset with primaryCtl := 0xC } = .low ∧ holdaPin State.reset = .high := by decide

/-- A write is handed over at once, and a read of the same bus waits until it is over: two cycles. The read takes two more, in
the first of which STRB is high (R95, R681). -/
theorem test_posted_write :
    (store 0x1000 5 { State.reset with primaryCtl := 8 } >>= fun t => load 0x1001 t).map
      (fun x => (x.2.elapsed, (x.2.primary.head?.map fun c => (c.lead, c.start, c.stop)))) =
      .ok (3, some (1, 3, some 4)) := by
  decide

/-- A read in the step after one in which a write ended takes two cycles as well, and one cycle later it takes one; the
address is out in both cycles (R681). -/
theorem test_read_after_write :
    let write : BusCycle := { readCycle State.reset 0x1000 0 0 (some 1) with write := true }
    let s := endCycle { State.reset with primaryCtl := 8, bank := bankOf 8 0x1001, primary := [write] }
    (load 0x1001 s).map (fun x => (x.2.elapsed, strbPin x.2, addressPins x.2, strbPin (endCycle x.2))) =
      .ok (1, .high, .driven 0x1001, .low) ∧
    (load 0x1001 (endCycle s)).map (fun x => (x.2.elapsed, strbPin x.2)) = .ok (0, .low) := by decide

/-- The image of one auxiliary register in both fields: the update of bits 7-0 is not saved (R263, R400). -/
theorem test_shared_register :
    (indirectPair (.plain 0) (.idx .postAdd (.disp ()) 0) State.reset).map (fun x => x.2.2.ar[0]) = .ok 0 ∧
    (indirectPair (.plain 1) (.idx .postAdd (.disp ()) 0) State.reset).map (fun x => x.2.2.ar[0]) = .ok 1 := by decide

/-- A device's own answer to a read, and a write it does not keep (R9). -/
theorem test_device :
    (load 0x1000 { State.reset with env := { Env.none with extReads := [{ word := some 7, waits := 0 }] } }).map
      (fun x => x.1) = .ok 7 ∧
    (store 0x1000 5 { State.reset with env := { Env.none with extWrites := [{ keeps := false, waits := 0 }] } }).map
      (fun t => t.mem) = .ok [] := by decide

/-! ## Witnesses: states and operands that meet the hypotheses of the statements -/

/-- A state whose operands, stack and vectors can all be read: auxiliary registers and SP point on-chip. -/
def calm : State :=
  given 0x1000 0x0 [(.ar 0, 0x809800), (.ar 1, 0x809801), (.sp, 0x809900), (.dp, 0x80), (.r 0, 0x0540000000)] []

theorem test_witness_roundTrip : (Instr.ldm (.imm 0x0FFF) 7).wellFormed = true ∧ Instr.swi.wellFormed = true := by
  decide

/-- The state of the step witnesses: ADDI 1,R7 at the PC. -/
def placed : State := State.reset.withFetchWord 32 0x02670001

theorem test_witness_undisturbed : Undisturbed placed placed :=
  ⟨rfl, rfl, rfl, rfl, rfl, rfl, rfl, rfl, .inl (by decide)⟩

theorem test_witness_stepRuns : ∃ w u i, fetch (ready { placed with windowGie := false }) = .ok (w, u) ∧
    decode w = .ok i ∧ hazard i u = none := ⟨0x02670001#32, _, .addi (.imm 1) (.r 7), rfl, by decide, rfl⟩

theorem test_witness_plain : flowOf (.addi (.imm 1) (.r 7)) = .plain ∧ calm.delay = none ∧
    hazard (.addi (.imm 1) (.r 7)) calm = none ∧
    ∃ t, exec (.addi (.imm 1) (.r 7)) calm = .next t ∧ t.stalled = none ∧ t.lockWait = 0 ∧
      t.st.getLsbD 8 = false := ⟨rfl, rfl, rfl, _, rfl, rfl, rfl, by decide⟩

/-- An instruction at the end of a block goes back to RS and counts RC; one in the last delay slot goes to the branch's target
(R642, R447). -/
theorem test_plain_around :
    let loop : State := { calm with pc := 0x1000, st := 0x100, rs := 0x800, re := 0x1000, rc := 1 }
    let slot : State := { calm with pc := 0x1000, delay := some { target := some 0x900, left := 1 } }
    stateOf (runInstr (.addi (.imm 1) (.r 7)) 0x02670001 loop) (fun t => (t.pc, t.rc, t.st.getLsbD 8)) =
      some (0x800, 0, true) ∧
    stateOf (runInstr (.addi (.imm 1) (.r 7)) 0x02670001 slot) (fun t => (t.pc, t.delay)) = some (0x900, none) := by decide

/-- The invariant is met by a state in the middle of a delayed branch with memory in use. -/
theorem test_witness_inv : State.Inv { calm with
    mem := memWriteWord [] 0x809800 5, delay := some { target := none, left := 3 }, loopLoad := 4 } where
  mem := by
    show MemWf (memWriteWord [] 0x809800 5)
    exact memWf_memWriteWord (m := []) _ _ memWf_reset
  st := by decide
  ie := by decide
  ifr := by decide
  iof := by decide
  primary := by decide
  expansion := by decide
  delay := by
    intro d hd
    have h : d = { target := none, left := 3 } := (Option.some.inj hd).symm
    subst h
    decide
  loop := by decide

theorem test_witness_step : ∃ t, step placed = .next t := exists_of_stepSees (b := ()) (by decide)

theorem test_witness_vector : ∃ s', vector 0#24 State.reset = .ok (0, s') := ⟨_, rfl⟩

theorem test_witness_resetFalls :
    ({ calm with pins := { Pins.quiet with reset := false } } : State).pins.reset = false ∧
    calm.resetLow = 0 := ⟨rfl, rfl⟩

/-- RESET high again after ten cycles: the vector can be read; with HIZ set it waits. -/
theorem test_witness_resetEnds :
    passTime { calm with resetLow := 10 } = .ok { calm with resetLow := 10 } ∧
    (∃ w t, loadFor .vector 0#24 { calm with resetLow := 0, booting := true } = .ok (w, t)) ∧
    ∃ w, loadFor .vector 0#24 { calm with resetLow := 0, booting := true, primaryCtl := 0xC } = .error (.stall w) :=
  ⟨rfl, ⟨_, _, rfl⟩, _, rfl⟩

theorem test_witness_memory : MemWf (memWriteWord [] 0x809800 5) ∧ (0x809801 : Nat) * 4 / 4 ≠ (0x809800#24).toNat :=
  ⟨memWf_memWriteWord _ _ memWf_reset, by decide⟩

theorem test_witness_storeThenLoad : region calm 0x809800 = .ram ∧ region calm 0x809FFF = .ram ∧
    region calm 0 = .primary ∧ region calm 0xFFFFFF = .primary ∧ calm.env.dmaWithin = [] ∧ calm.env.extReads = [] ∧
    calm.env.extWrites = [] ∧ calm.env.pinSchedule = [] ∧ calm.pins.reset = true ∧ portIdle calm .primary = true ∧
    holdsBus calm.pins calm.primaryCtl = false ∧ calm.pins.rdy = false := by decide

/-- HOLD is low: the primary bus is held. -/
def heldBus : State := { calm with pins := { Pins.quiet with hold := false }, dp := 0 }

/-- Operands of each kind that wait, at a held bus: registers AR0 and SP point to it. -/
def heldAll : State := { heldBus with ar := Vector.replicate 8 0x1000#32, sp := 0x1000 }

theorem test_witness_busHeld : region heldBus 0x1000 = .primary ∧ portIdle heldBus .primary = true ∧
    heldBus.env.dmaWithin = [] ∧ holdsBus (pinsIn heldBus heldBus.elapsed) heldBus.primaryCtl = true ∧
    holdsBus (pinsIn calm calm.elapsed) calm.primaryCtl = false ∧ portWait calm .primary 0 0 = some 7 ∧
    portWait { calm with primaryCtl := 0, pins := { Pins.quiet with rdy := true } } .primary 0 0 = none := by decide

theorem test_witness_waitsSources :
    srcInt (.dir 0x1000) heldAll = .error (.stall .held) ∧ srcUns (.ind (.plain 0)) heldAll = .error (.stall .held) ∧
    srcFlt (.dir 0x1000) heldAll = .error (.stall .held) ∧ srcMan (.dir 0x1000) heldAll = .error (.stall .held) ∧
    srcPairInt (.ind (.plain 0)) (.reg .sp) heldAll = .error (.stall .held) ∧
    srcPairFlt (.reg 0) (.ind (.plain 0)) heldAll = .error (.stall .held) ∧
    load (heldAll.sp.extractLsb' 0 24) heldAll = .error (.stall .held) ∧ condHolds heldAll.st .u = true :=
  ⟨rfl, rfl, rfl, rfl, rfl, rfl, rfl, rfl⟩

theorem test_witness_waitsStores :
    store ((heldAll.sp + 1).extractLsb' 0 24) 5 { heldAll with sp := heldAll.sp + 1 } = .error (.stall .held) ∧
    memAddr (.ind (.plain 0)) heldAll = .ok (0x1000, heldAll) ∧ load 0x1000 heldAll = .error (.stall .held) ∧
    store 0x1000 5 heldAll = .error (.stall .held) ∧ interlocked heldAll 0x1000 = true ∧
    heldAll.iof.getLsbD 1 = true ∧ heldAll.iof.getLsbD 5 = false ∧ heldAll.lockWait = 0 ∧
    store 0x1000 5 { heldAll with iof := setBit heldAll.iof 2 true } = .error (.stall .held) :=
  ⟨rfl, rfl, rfl, rfl, rfl, by decide, by decide, rfl, rfl⟩

/-- The parallel forms: the first read waits; one operand on-chip, the other not, in each order; the second store; a trap. -/
theorem test_witness_waitsPairs : indirectPair (.plain 0) (.plain 1) heldAll = .ok (0x1000, 0x1000, heldAll) ∧
    offChip heldAll 0x1000 = true ∧ readFirst true 0x1000 0x1000 heldAll = .error (.stall .held) ∧
    (∃ s, indirectPair (.plain 0) (.plain 1) { heldAll with ar := heldAll.ar.set 1 0x809800#32 } =
      .ok (0x1000, 0x809800, s) ∧ ∃ v t, readFirst true 0x1000 0x809800 s = .ok (v, t) ∧
        readOperand [] 0x1000 t = .error (.stall .held) ∧ storeLater 0x1000 5 t = .error (.stall .held)) ∧
    (∃ s, indirectPair (.plain 0) (.plain 1) { heldAll with ar := heldAll.ar.set 0 0x809800#32 } =
      .ok (0x809800, 0x1000, s) ∧ ∃ t, storeWith [0x1000] 0x809800 5 s = .ok t ∧
        storeSecond 0x809800 0x1000 5 t = .error (.stall .held)) ∧ storeWith [0x1000] 0x1000 5 heldAll = .error (.stall .held) ∧
    ∃ t, store ((calm.sp + 1).extractLsb' 0 24) 5 { heldBus with sp := calm.sp + 1 } = .ok t ∧
      loadFor .vector 0x20 t = .error (.stall .held) :=
  ⟨rfl, by decide, rfl, ⟨_, rfl, _, _, rfl, rfl, rfl⟩, ⟨_, rfl, _, rfl, rfl⟩, rfl, _, rfl, rfl⟩

/-- An IACK whose read begins and never ends (R453, R682): its operand locks up. -/
theorem test_witness_iackLockup :
    let s : State := { calm with dp := 0, primaryCtl := 0, pins := { Pins.quiet with rdy := true } }
    ∃ c, memAddr (.dir 0x1000) s = .ok (0x1000, s) ∧ load 0x1000 s = .error (.lockup .primary c) := ⟨_, rfl, rfl⟩

theorem test_witness_addressMap : region calm 0xFFF = .primary ∧ region calm 0x1000 = .primary ∧
    region calm 0x7FFFFF = .primary ∧ region calm 0x800000 = .reserved ∧ region calm 0x802000 = .reserved ∧
    region calm 0x803FFF = .reserved ∧ region calm 0x804000 = .reserved ∧ region calm 0x807FFF = .reserved ∧
    region calm 0x808000 = .peripheral ∧ region calm 0x8097FF = .peripheral ∧ region calm 0x809800 = .ram ∧
    region calm 0x809FFF = .ram ∧ region calm 0x80A000 = .primary ∧
    region { calm with device := .c30 } 0x801FFF = .mstrb ∧ region { calm with device := .c30 } 0x805FFF = .iostrb := by
  decide

theorem test_witness_reserved : region { calm with pins := { Pins.quiet with mcmp := true } } 0xFFF = .rom ∧
    calm.device ≠ .c30 ∧ calm.env.dmaWithin = [] ∧ region calm 0x808010 = .peripheral ∧
    0x808010#24 ∉ peripheralRegisters calm.device ∧ 0x808060#24 ∉ peripheralRegisters calm.device ∧
    0x8097FF#24 ∉ peripheralRegisters .c30 ∧ portIdle calm .expansion = true ∧ region calm 0x8097FF = .peripheral := by
  decide

/-- A store of the DMA controller at a reserved address, where no register is, and at the ROM (R83, R84). -/
theorem test_dma_reserved :
    storeFor true 0x802000 5 calm = .error (.refuse (.reservedAccess 0x802000)) ∧
    storeFor true 0x808010 5 calm = .error (.refuse (.reservedAccess 0x808010)) ∧
    storeFor true 0xFFF 5 { calm with pins := { Pins.quiet with mcmp := true } } = .error (.refuse (.romWrite 0xFFF)) :=
  ⟨rfl, rfl, rfl⟩

theorem test_witness_registerWrite : (∃ t, writeReg (.r 7) 5 calm = .ok t) ∧ (∃ t, writeReg .rc 5 calm = .ok t) ∧
    (∃ t, writeReg .ie 5 calm = .ok t) := ⟨⟨_, rfl⟩, ⟨_, rfl⟩, ⟨_, rfl⟩⟩

theorem test_witness_statusLoad : (0x1000#32).getLsbD 12 = true ∧ (0x2DFF#32).getLsbD 12 = false := by decide

theorem test_witness_flagRegisters : 0x07FF07FF#32 &&& 0x00C000C0#32 ≠ 0#32 ∧ 0x073F073F#32 &&& 0x00C000C0#32 = 0#32 ∧
    calm.device ≠ .c30 ∧ ({ calm with device := .c30 } : State).device = .c30 ∧ calm.ifSet = 0#11 := by decide

theorem test_witness_rpts : srcUns (.imm 0xFFFF) calm = .ok (0xFFFF, calm) := rfl

/-- A step of an index register that no displacement reaches, its bits 31-24 ignored, and its wrap (R259, R250). -/
theorem test_index_step :
    let s : State := { calm with ar := calm.ar.set 0 0x55000010#32, ir0 := 0xFF000123#32, ir1 := 0x00FFFFFF#32 }
    (indirect (.idx .preAddMod .ir0 0) s).map (fun x => (x.1, x.2.ar[0])) = .ok (0x133, 0x55000133) ∧
    (indirect (.idx .postSub .ir0 0) s).map (fun x => (x.1, x.2.ar[0])) = .ok (0x10, 0x55FFFEED) ∧
    (indirect3 (.idx .preSub .ir1 0) s).map (fun x => (x.1, x.2.ar[0])) = .ok (0x11, 0x55000010) ∧
    ∃ a u, generate disp1 (.idx .postAdd .ir1 0) s = .ok (a, u) := ⟨by decide, by decide, by decide, _, _, rfl⟩

/-- Within the conditions, at the ends of the ranges of BK, the step and the index. -/
theorem test_witness_circular : circOk 1 0 0 = true ∧ circOk 1 0 1 = true ∧ circOk 0xFFFF 0x80FFFE 0xFFFF = true := by
  decide

/-- Outside the conditions, each of the four alone. -/
theorem test_witness_circularRefused : circOk 0 0 0 = false ∧ circOk 0x10000 0 0 = false ∧ circOk 6 0 7 = false ∧
    circOk 6 6 1 = false := by decide

theorem test_witness_circularOperand : circ { calm with bk := 4 }.bk 0x809800 1 true = .ok 0x809801 ∧
    circ calm.bk 0x809800 1 true = .error (.refuse .circularConditions) := by decide

theorem test_witness_operands : region calm (directAddr 0x9800 calm) = .ram ∧ calm.env.dmaWithin = [] ∧
    (∃ w t, load (directAddr 0x9800 calm) calm = .ok (w, t)) ∧
    (∃ a t, indirect (.idx .postAdd (.disp 255) 0) calm = .ok (a, t) ∧ ∃ w u, load a t = .ok (w, u)) ∧
    (∃ a t, indirect3 (.plain 0) calm = .ok (a, t) ∧ ∃ w u, load a t = .ok (w, u)) ∧
    (∃ a b t, indirectPair (.plain 0) (.plain 1) calm = .ok (a, b, t) ∧
      ∃ w u, load a t = .ok (w, u) ∧ ∃ x v, load b u = .ok (x, v)) ∧
    (∃ a u, generate disp1 (.idx .postAdd (.disp ()) 0) calm = .ok (a, u)) ∧
    (0x8001#16).extractLsb' 12 4 = 8#4 ∧ (0x7001#16).extractLsb' 12 4 ≠ 8#4 :=
  ⟨by decide, rfl, ⟨_, _, rfl⟩, ⟨_, _, rfl, _, _, rfl⟩, ⟨_, _, rfl, _, _, rfl⟩, ⟨_, _, _, rfl, _, _, rfl, _, _, rfl⟩,
    ⟨_, _, rfl⟩, by decide, by decide⟩

theorem test_witness_integers : srcInt (.imm 0xFFFF) calm = .ok (0xFFFFFFFF, calm) ∧
    (∃ b t, srcInt (.ind (.idx .postAdd (.disp 255) 0)) calm = .ok (b, t)) ∧
    (∃ t, writeReg (.r 0) 5 calm = .ok t) ∧ ∃ t, writeReg .st 5 calm = .ok t :=
  ⟨rfl, ⟨_, _, rfl⟩, ⟨_, rfl⟩, ⟨_, rfl⟩⟩

theorem test_witness_logic : (∃ b t, srcUns (.dir 0x9800) calm = .ok (b, t)) ∧
    (∃ b t, srcInt (.reg .sp) calm = .ok (b, t)) ∧ ∃ t, writeReg (.r 0) 5 calm = .ok t :=
  ⟨⟨_, _, rfl⟩, ⟨_, _, rfl⟩, ⟨_, rfl⟩⟩

theorem test_witness_threeOperand : (∃ a b t, srcPairInt (.reg (.r 0)) (.reg .rc) calm = .ok (a, b, t)) ∧
    (∃ a b t, srcPairInt (.ind (.plain 0)) (.reg (.r 1)) calm = .ok (a, b, t)) ∧
    (∃ a b t, srcPairInt (.reg (.r 1)) (.ind (.plain 0)) calm = .ok (a, b, t)) ∧
    ∃ a b t, srcPairInt (.ind (.plain 0)) (.ind (.plain 1)) calm = .ok (a, b, t) :=
  ⟨⟨_, _, _, rfl⟩, ⟨_, _, _, rfl⟩, ⟨_, _, _, rfl⟩, ⟨_, _, _, rfl⟩⟩

theorem test_witness_float :
    (∃ b t, srcFlt (.reg 0) calm = .ok (b, t)) ∧ (∃ b t, srcFlt (.imm 0x8000) calm = .ok (b, t)) ∧
    (∃ b t, srcMan (.imm 0x0FFF) calm = .ok (b, t)) ∧
    ∃ a b t, srcPairFlt (.ind (.plain 0)) (.reg 7) calm = .ok (a, b, t) :=
  ⟨⟨_, _, rfl⟩, ⟨_, _, rfl⟩, ⟨_, _, rfl⟩, ⟨_, _, _, rfl⟩⟩

theorem test_witness_conditions : condHolds calm.st .ne = true ∧ condHolds calm.st .eq = false ∧
    Cond.ofCode 20 = .ok .zuf ∧ Cond.ofCode 0 = .ok .u := by decide

/-- Normalisation at the ends of the mantissas that are exact, and beyond them; out of range each way. -/
theorem test_witness_normalisation : (∀ m ∈ [1, -1, 2 ^ 32 - 1, -2 ^ 32, 2 ^ 65 + 1],
    m ≠ 0 ∧ (fnorm m 0).ovf = false ∧ (fnorm m 0).unf = false) ∧ (fnorm 1 160).ovf = true ∧ (fnorm (-1) (-130)).unf = true := by
  decide

/-- Rounding and normalising at values in range, at the ends and at 0 (R208, R209). -/
theorem test_witness_rounding : isZero 0x8000000001#40 = true ∧ isZero 0x7F7FFFFFFF#40 = false ∧
    (fround 0x7F7FFFFFFF#40).ovf = true ∧ (fround 0x007FFFFFFF#40).val = 0x0100000000#40 ∧
    (fround 0x81FFFFFFFF#40).ovf = false ∧ (fnormalize 0x8100000001#40).unf = true ∧
    (fnormalize 0x0000000001#40).unf = false ∧ (fnormalize 0x8000000001#40).unf = true := by decide

/-- Negation at the two values that leave the range, and elsewhere (R204). -/
theorem test_witness_negation : (fneg 0x7F80000000#40).ovf = true ∧ (fneg 0x8100000000#40).unf = true ∧
    (fneg 0x0080000000#40).val = 0x0100000000#40 ∧ (fabs 0x7F80000000#40).val = 0x7F7FFFFFFF#40 ∧
    (fsub 0x0000000000#40 0x0000000000#40).zero = true ∧ (fsub 0x7F7FFFFFFF#40 0x7F80000000#40).ovf = true ∧
    (fsub 0x8180000000#40 0x81FFFFFFFF#40).unf = true ∧ (fmul 0x7F00000000#40 0x7F00000000#40).ovf = true ∧
    (fmul 0x8100000000#40 0x8100000000#40).unf = true := by decide

/-- FIX at the ends of its range and just beyond them, on both sides (R210). -/
theorem test_fix_range :
    ffix 0x1E7FFFFFFF#40 = { val := 0x7FFFFFFF#32, ovf := false, neg := false } ∧
    ffix 0x1F00000000#40 = { val := 0x7FFFFFFF#32, ovf := true, neg := false } ∧
    ffix 0x1E80000000#40 = { val := 0x80000000#32, ovf := false, neg := true } ∧
    ffix 0x1FFFFFFFFF#40 = { val := 0x80000000#32, ovf := true, neg := true } ∧
    ffix 0x81FFFFFFFF#40 = { val := 0xFFFFFFFF#32, ovf := false, neg := true } := by decide

theorem test_witness_floatOps : (fadd 0x0040000000#40 0x8000000000#40).ovf = false ∧
    (fadd 0x0040000000#40 0x8000000000#40).unf = false ∧ isZero 0x0040000000#40 = false ∧
    (fmul 0x0040000000#40 0x0540000000#40).ovf = false ∧ (fmul 0x0040000000#40 0x0540000000#40).unf = false := by
  decide

theorem test_witness_stack : (∃ t, store 0x809901 5 { calm with sp := calm.sp + 1 } = .ok t) ∧
    (∃ w t, load (calm.sp.extractLsb' 0 24) calm = .ok (w, t)) ∧ ∃ a t, memAddr (.ind (.plain 0)) calm = .ok (a, t) ∧
    ∃ u, store a 5 t = .ok u := ⟨⟨_, rfl⟩, ⟨_, _, rfl⟩, _, _, rfl, _, rfl⟩

theorem test_witness_parallel : ∃ a b s₁, indirectPair (.plain 0) (.plain 1) calm = .ok (a, b, s₁) ∧
    (offChip s₁ a && !offChip s₁ b) = false ∧ (offChip s₁ 0x1000 && !offChip s₁ b) = true ∧
    (∃ m s₂, readFirst (offChip s₁ a) b a s₁ = .ok (m, s₂) ∧ ∃ n s₃, readOperand [] b s₂ = .ok (n, s₃)) ∧
    ∃ m s₂, readFirst true 0x1000 b { s₁ with primaryCtl := 8 } = .ok (m, s₂) ∧
      ∃ n s₃, readOperand [] 0x1000 s₂ = .ok (n, s₃) :=
  ⟨_, _, _, rfl, by decide, by decide, ⟨_, _, rfl, _, _, rfl⟩, _, _, rfl, _, _, rfl⟩

theorem test_witness_withStore : ∃ a b s₁, indirectPair (.plain 0) (.plain 1) calm = .ok (a, b, s₁) ∧
    ∃ m s₂, readOperand [] b s₁ = .ok (m, s₂) ∧ ∃ s₃, storeLater a 7 s₂ = .ok s₃ ∧ ∃ s₄, storeWith [b] a 7 s₁ = .ok s₄ ∧
      ∃ s₅, storeSecond a b 8 s₄ = .ok s₅ := ⟨_, _, _, rfl, _, _, rfl, _, rfl, _, rfl, _, rfl⟩

/-- An operand that follows a single external store may be read once more, a dummy read that takes the device's next answer;
no other is (R852, D5). -/
theorem test_dummy_read :
    let again (n : Nat) : State := { calm with
      primaryCtl := 8, outBefore := n
      env := { Env.none with dummyReads := [true], extReads := [{ word := some 1, waits := 0 }, { word := some 2, waits := 0 }] } }
    (readOperand [] 0x1000 (again 1)).map (·.1) = .ok 2 ∧ (readOperand [] 0x1000 (again 0)).map (·.1) = .ok 1 ∧
    (readOperand [] 0x1000 (again 2)).map (·.1) = .ok 1 := by decide

/-- An interlocked state: XF0 an output, XF1 an input, low or high. -/
def lockable (xf1 : Bool) : State := { calm with bank := 0x1000, pins := { Pins.quiet with xf1 := xf1 } }

theorem test_witness_interlocked : ∀ b, interlocked (lockable b) 0x1000 = true ∧ (lockable b).iof.getLsbD 1 = true ∧
    (lockable b).iof.getLsbD 5 = false ∧ (lockable b).pins.xf1 = b ∧ (lockable b).lockWait = 0 ∧
    (lockable b).abandon = false ∧ ({ lockable b with abandon := true } : State).abandon = true ∧
    portStart (lockable b) .primary = .ok 0 ∧ readLead (lockable b) .primary 0x2000 0 ≠ 0 ∧
    readLead (lockable b) .primary 0x1000 0 = 0 ∧ readLead { lockable b with primaryWrote := true } .primary 0x1000 0 ≠ 0 ∧
    portOf (region (lockable b) 0x1000) = some .primary ∧
    portStart (lockable b) .expansion = .ok 0 ∧ (lockable b).elapsed = 0 ∧ region (lockable b) 0x808020 = .peripheral := by decide

/-- The lowest and the highest cycle of a read with seven wait states, and one in which the device keeps RDY high; the
word of the peripheral bus, and the stores with XF0 high. -/
theorem test_witness_interlockedAccess :
    (∀ n ∈ [0, 6, 7], readyAt calm.primaryCtl 0 n false = decide (n = 7)) ∧ readyAt 8 0 0 false = true ∧
    readyAt calm.primaryCtl 8 7 false = false ∧
    portCycles { lockable false with primary := [readCycle calm 0x1000 0 0 none], lockWait := 8 } .primary =
      readCycle calm 0x1000 0 0 none :: [] ∧
    (∃ w t, loadFor .data 0x808020 { lockable false with iof := setBit (lockable false).iof 2 false } = .ok (w, t)) ∧
    (∃ t, store 0x1000 5 { lockable false with iof := setBit (lockable false).iof 2 true } = .ok t) ∧
    memAddr (.dir 0x1000) { lockable false with dp := 0 } = .ok (0x1000, { lockable false with dp := 0 }) ∧
    region calm 0x809800 = .ram :=
  ⟨by decide, by decide, by decide, rfl, ⟨_, _, rfl⟩, ⟨_, rfl⟩, rfl, by decide⟩

/-- The read ends with its word in the cycle in which the bus is ready and XF1 is low, not before (R501). -/
theorem test_ldii_ends :
    let at0 (xf1 : Bool) (n : Nat) : State := { lockable xf1 with
      dp := 0, primary := [{ readCycle calm 0x1000 0 0 none with word := 7 }], lockWait := n }
    (interlockedLoad (.dir 0x1000) (fun w t => .ok { t with sp := w }) (at0 false 8)).map
      (fun t => (t.sp, t.lockWait)) = .ok (7, 0) ∧
    (interlockedLoad (.dir 0x1000) (fun w t => .ok { t with sp := w }) (at0 false 7)).map
      (fun t => (t.lockWait, t.stalled)) = .ok (8, some .primary) ∧
    (interlockedLoad (.dir 0x1000) (fun w t => .ok { t with sp := w }) (at0 true 8)).map
      (fun t => (t.lockWait, t.stalled)) = .ok (9, none) := by decide

/-- An interrupt ends the wait in a cycle in which the bus is no longer ready, once it was; not before (R506). -/
theorem test_ldii_interrupted :
    let at0 (seen : Bool) : State := { lockable true with
      dp := 0, primaryCtl := 0, pins := { Pins.quiet with xf1 := true, rdy := true }, abandon := true, lockReady := seen
      primary := [{ readCycle calm 0x1000 0 0 none with word := 7 }], lockWait := 8 }
    (interlockedLoad (.dir 0x1000) (fun w t => .ok { t with sp := w }) (at0 true)).map
      (fun t => (t.sp, t.lockWait, t.iof.getLsbD 2)) = .ok (7, 0, false) ∧
    (interlockedLoad (.dir 0x1000) (fun w t => .ok { t with sp := w }) (at0 false)).map
      (fun t => (t.lockWait, t.stalled)) = .ok (9, some .primary) := by decide

/-- XF0 rises with the write of STII: two cycles later where its port is busy for two (R504). SIGI's pulse is one cycle long
(R503). -/
theorem test_xf0_pin :
    let s : State := { lockable false with
      dp := 0, iof := setBit calm.iof 2 false, primary := [{ readCycle calm 0x1000 0 0 (some 2) with write := true }] }
    (interlockedStore (.dir 0x1000) (readReg .sp) s).map
      (fun t => (t.elapsed, xf0Pin t, xf0Pin (endCycle t), xf0Pin (endCycle (endCycle t)))) = .ok (2, .low, .low, .high) ∧
    stateOf (exec .sigi (lockable false)) (fun t => (xf0Pin t, xf0Pin (endCycle t))) = some (.low, .high) := by decide

/-- XF0 is low until the read of an LDII of IOF is over, whatever the word loaded: then its bit 2, or high impedance (R501,
R502). -/
theorem test_ldii_iof :
    let after (w : Word) := stateOf (exec (.ldii (.dir 0x1000) .iof) { lockable false with
        dp := 0, primaryCtl := 8, bank := bankOf 8 0x1000, mem := memWriteWord [] 0x1000 w })
      (fun t => (t.iof, xf0Pin t, xf0Pin (endCycle t)))
    after 6 = some (6, .low, .high) ∧ after 0 = some (0, .low, .hiZ) := by decide

/-- A load of 0h to FFFh that waits goes on over the primary bus though MCBL/MP has risen (log 1); one that begins then reads
the ROM, which a LC31 reserves (R83). -/
theorem test_ldii_mode :
    let at0 (n : Nat) : State := { lockable false with
      dp := 0, pins := { (lockable false).pins with mcmp := true }, lockWait := n
      primary := [{ readCycle calm 0x10 0 0 none with word := 7 }] }
    (interlockedLoad (.dir 0x10) (fun w t => .ok { t with sp := w }) (at0 8)).map (fun t => (t.sp, t.lockWait)) = .ok (7, 0) ∧
    (interlockedLoad (.dir 0x10) (fun w t => .ok { t with sp := w }) (at0 0)).map (fun t => t.sp) =
      .error (.refuse (.reservedAccess 0x10)) := by decide

/-- IACK is low for the first cycle of a read of eight, and no longer (R453). -/
theorem test_iack_pulse :
    stateOf (exec (.iack (.dir 0x1000)) { calm with dp := 0, bank := 0x1000 })
      (fun t => (t.elapsed, iackPin t, iackPin (endCycle t))) = some (7, .low, .high) := by decide

/-- In IDLE2 H1 stands high and H3 low (R470). -/
theorem test_idle2_clocks : h1Pin { calm with idle := .stopped } = .high ∧ h3Pin { calm with idle := .stopped } = .low ∧
    h1Pin calm = .clock := by decide

theorem test_witness_trap :
    (∃ t, store 0x809901 5 { calm with sp := calm.sp + 1, st := calm.st &&& ~~~0x2000#32 } = .ok t) ∧
    (∃ w t, loadFor .vector (BitVec.ofNat 24 (0x20 + (31#5).toNat)) calm = .ok (w, t)) ∧ calm.device ≠ .c30 ∧
    region calm ((calm.sp + 1).extractLsb' 0 24) ≠ .peripheral ∧ condHolds calm.st .u = true :=
  ⟨⟨_, rfl⟩, ⟨_, _, rfl⟩, by decide, by decide, by decide⟩

theorem test_witness_iack : (∃ v t, load 0x809800 calm = .ok (v, t)) ∧ offChip calm 0x1000 = true ∧
    calm.device = .lc31 := ⟨⟨_, _, rfl⟩, by decide, rfl⟩

theorem test_witness_refused : calm.iof.getLsbD 5 = false ∧ State.reset.iof.getLsbD 1 = false ∧
    ({ calm with device := .c31 } : State).device ≠ .lc31 ∧ interlocked State.reset 0x1000 = true ∧
    memAddr (.dir 0x1000) State.reset = .ok (0x1000, State.reset) := ⟨by decide, by decide, by decide, by decide, rfl⟩

/-- A frame's hypothesis: the instruction completes, or waits. -/
theorem test_witness_frame : (∃ t, exec (.addi (.imm 1) .st) calm = .next t) ∧
    (∃ t, exec (.sti (.r 0) (.ind (.idx .postAdd (.disp 1) 0))) calm = .next t) ∧
    (∃ t, exec (.trapCond .u 0) calm = .next t) ∧ (∃ t, exec (.addf (.reg 1) 0) calm = .next t) ∧
    (∃ t, exec (.addi3 (.ind (.plain 0)) (.ind (.plain 1)) .sp) calm = .next t) ∧
    (∃ t, exec (.ldi (.dir 0) (.r 0)) heldBus = .next t) ∧ calm.env.dmaWithin = [] :=
  ⟨⟨_, rfl⟩, ⟨_, rfl⟩, ⟨_, rfl⟩, ⟨_, rfl⟩, ⟨_, rfl⟩, ⟨_, rfl⟩, rfl⟩

/-- Repeat-mode updates: the block goes on, the single repeat goes on, each ends; RC at 1 and at 0. -/
theorem test_witness_repeat : 0 ≤ (1#32 - 1).toInt ∧ (0#32 - 1 : Word).toInt < 0 ∧ Flow.plain ≠ .repeats ∧
    (0x100#32).getLsbD 8 = true ∧ (0#32).getLsbD 8 = false := by decide

/-- RC after a repeat that ends is 0 or -1, from -1 as from 0 (R56, R644, U22). -/
theorem test_rc_ends (s : State) : ∀ b ∈ [0#32, 0xFFFFFFFF#32, 0x80000001#32],
    rcAfter (b - 1) s = 0#32 ∨ rcAfter (b - 1) s = 0xFFFFFFFF#32 := by
  intro b hb
  have h : (b - 1).msb = true := by fin_cases hb <;> decide
  rw [rcAfter, if_pos h]
  split <;> simp

/-- A block's end at 0x1003, seen from its last four instructions and from outside. -/
theorem test_witness_hazards : (0x100#32).getLsbD 8 = true ∧ calm.delay = none ∧ calm.repS = false ∧ calm.loopLoad = 0 ∧
    ((0x1003#32).setWidth 24 - 0x1003#24).toNat = 0 ∧ ((0x1003#32).setWidth 24 - 0x1000#24).toNat = 3 ∧
    ((0x1003#32).setWidth 24 - 0xFFF#24).toNat = 4 ∧ 3 < ((0x1003#32).setWidth 24 - 0x1004#24).toNat ∧
    ∀ q ∈ [Reg.rs, .re, .rc], (writeReg q 5 calm).toOption.isSome = true := by decide

/-- What runs inside them: an instruction that is no transfer of control in a delay slot, repeated by RPTS, at the end of a
block; a branch three words before that end, and a delayed branch four words before it. -/
theorem test_witness_hazardsRun :
    hazard (.nop .none) { calm with delay := some { target := none, left := 1 } } = none ∧
    hazard (.nop .none) { calm with st := 0x100, repS := true } = none ∧
    hazard (.nop .none) { calm with st := 0x100, pc := 0x1000, re := 0x1000 } = none ∧
    hazard (.br 5) { calm with st := 0x100, pc := 0x1000, re := 0x1003 } = none ∧
    hazard (.brd 5) { calm with st := 0x100, pc := 0x1000, re := 0x1004 } = none ∧
    ∀ a c t n k src, Instr.nop .none ∉ [Instr.br a, .bCond c t, .dbCond n c t, .call a, .callCond c t, .trapCond c k,
      .retiCond c, .retsCond c, .idle, .idle2, .rptb a, .rpts src, .brd a, .bCondD c t, .dbCondD n c t] :=
  ⟨rfl, rfl, rfl, rfl, rfl, by simp⟩

/-- Two loads of RE in one window, from 0x1000 to 0x1005 to 0x1010. -/
def loadedTwice (pc : Addr) : State :=
  { loopLoaded { loopLoaded { calm with re := 0x1000 } with re := 0x1005 } with re := 0x1010, st := 0x100, pc := pc }

/-- Every RE of the window is refused, the first, the one in the middle and the last (R833, U20). -/
theorem test_repeat_ends : hazard (.nop .none) (loadedTwice 0x1000) = some .repeatRegistersUnflushed ∧
    hazard (.nop .none) (loadedTwice 0x1005) = some .repeatRegistersUnflushed ∧
    hazard (.nop .none) (loadedTwice 0x1010) = some .repeatRegistersUnflushed ∧
    hazard (.nop .none) (loadedTwice 0x1006) = none := ⟨rfl, rfl, rfl, rfl⟩

/-- A state with INT0 flagged and enabled at an instruction boundary, and the same out of IDLE. -/
def flagged : State :=
  given 0x1000 0x2000 [(.sp, 0x809900), (.ie, 1), (.ifr, 1)] [(1, 0x4567)]

/-- An instruction in a delay slot, `left` before the branch, with an interrupt requested. -/
def inSlot (left n : Nat) (i : Instr) : State :=
  { flagged with
    delay := some { target := some 0x4000, left := left }, ir := some (encode i), env := { Env.none with intLatency := [n] } }

/-- What a step leaves of an interrupt's window, and the entries of the environment it leaves. -/
def windowAfter (s : State) : Option (Option Nat × Bool × Nat) :=
  stepSees s fun t => (t.intWindow.map (·.left), t.windowGie, t.env.intLatency.length)

/-- In the last two slots of a delayed branch the environment may have a requested interrupt recognised, here at slot 2: the
entry follows slot 3. Of one instruction alone it is recognised at slot 3. A slot that loads ST with GIE = 1 is noted; no
window opens three slots before the end (R621, R626, U19). -/
theorem test_slot_window :
    windowAfter (inSlot 2 2 (.nop .none)) = some (some 1, false, 0) ∧
    windowAfter (inSlot 2 1 (.nop .none)) = some (none, false, 0) ∧
    windowAfter (inSlot 1 1 (.ldi (.imm 0x2000) .st)) = some (some 0, true, 0) ∧
    windowAfter (inSlot 3 2 (.nop .none)) = some (none, false, 1) := by decide

/-- The same for an instruction that is repeated once more: a window of two passes (R621, R626). -/
theorem test_repeat_window :
    let s (rc : Word) : State := { flagged with
      st := 0x2100, repS := true, rc := rc, ir := some (encode (.nop .none)), env := { Env.none with intLatency := [2] } }
    stepSees (s 1) (fun t => (t.intWindow.map (·.left), t.repS)) = some (some 1, true) ∧
    stepSees (s 2) (fun t => (t.intWindow.map (·.left), t.repS)) = some (none, true) := by decide

theorem test_witness_interrupt : passTime flagged = .ok flagged ∧ flagged.pins.reset = true ∧ flagged.resetLow = 0 ∧
    flagged.booting = false ∧ flagged.idle = .running ∧ flagged.st.getLsbD 13 = true ∧ boundary flagged = true ∧
    flagged.lockWait = 0 ∧ flagged.intWindow = none ∧ flagged.env.intLatency = [] ∧ flagged.windowGie = false ∧
    flagged.shared = 0#11 ∧ flagged.env.dmaWithin = [] ∧ flagged.ifr.getLsbD 0 = true ∧ flagged.ie.getLsbD 0 = true ∧
    region flagged ((flagged.sp + 1).extractLsb' 0 24) ≠ .peripheral :=
  ⟨rfl, rfl, rfl, rfl, rfl, by decide, by decide, rfl, rfl, rfl, rfl, rfl, rfl, by decide, by decide, by decide⟩

theorem test_witness_interruptEntry : (∃ s₁ w s₂, store ((flagged.sp + 1).extractLsb' 0 24) (flagged.pc.setWidth 32)
      (noteAck 0 { flagged with
        sp := flagged.sp + 1, st := flagged.st &&& ~~~0x2000#32, ifr := setBit flagged.ifr 0 false, idle := .running }) = .ok s₁ ∧
    loadFor .vector (BitVec.ofNat 24 (1 + 0)) s₁ = .ok (w, s₂)) ∧
    passTime { flagged with idle := .idle } = .ok { flagged with idle := .idle } := ⟨⟨_, _, _, rfl, rfl⟩, rfl⟩

theorem test_witness_idle : passTime { calm with idle := .idle } = .ok { calm with idle := .idle } ∧
    pendingInts { calm with idle := .idle } = 0#11 ∧ calm.intWindow = none ∧ calm.booting = false ∧
    passTime { flagged with idle := .stopped } = .ok { flagged with idle := .stopped } := ⟨rfl, by decide, rfl, rfl, rfl⟩

/-- Three parts of memory in turn: the third takes the segment that was not used last (R104, R106). -/
theorem test_cache_replaced :
    let c := ((Cache.reset.fill 0x1000 7).fill 0x2000 8).fill 0x3000 9
    c.find 0x1000 = none ∧ c.find 0x2000 = some (false, 8) ∧ c.find 0x3000 = some (true, 9) ∧ c.mru = true := by decide

/-- A fetch with the cache disabled, enabled and frozen, missing and hitting (R108). -/
theorem test_cache_modes :
    let at0 (st : Word) (c : Cache) : State := { calm with st := st, primaryCtl := 8, cache := c }
    let full := Cache.reset.fill 0x1000 7
    let after (st : Word) (c : Cache) := (fetchAt .fetch 0x1000 (at0 st c)).map fun x => (x.1, x.2.cache)
    after 0 full = .ok (0, full) ∧ after 0x800 full = .ok (7, full) ∧
    after 0x800 { full with mru := false } = .ok (7, full) ∧
    after 0xC00 { full with mru := false } = .ok (7, { full with mru := false }) ∧
    after 0x800 .reset = .ok (0, Cache.reset.fill 0x1000 0) ∧ after 0xC00 .reset = .ok (0, .reset) := by decide

/-- A timer with the internal clock, one count before its period and at other counts; and held. -/
theorem test_witness_timer : (0x2C0#32).getLsbD 7 = true ∧ (0x280#32).getLsbD 6 = false ∧
    (0x280#32).getLsbD 9 = true ∧ (0x280#32).getLsbD 7 = true ∧ (0x200#32).getLsbD 7 = false ∧
    (3#32 + 1 = 4#32) ∧ ¬ (3#32 = 0#32 ∧ 4#32 = 0#32) := by decide

/-- A DMA controller started, between and in the middle of a transfer of its last word. -/
def dmaOn (mid : Bool) : State :=
  { calm with dma := { Dma.reset with control := 0xC53#32, src := 0x809800, dst := 0x809801, count := 1, mid := mid } }

theorem test_witness_dma : ∀ b, (dmaOn b).dma.control.extractLsb' 0 2 = 3#2 ∧
    (dmaOn b).dma.control.extractLsb' 8 2 = 0#2 ∧ (dmaOn b).dma.access = none ∧ (dmaOn b).dma.ahead = 0 ∧
    (dmaOn b).env.dmaStalls = [] ∧ (dmaOn b).ifWritten = false ∧ (dmaOn b).dma.mid = b ∧
    (dmaOn b).dma.count ≠ 0#24 ∧ region (dmaOn b) (dmaOn b).dma.src = .ram ∧
    region (dmaOn b) (dmaOn b).dma.dst = .ram ∧
    ([⟨0, 0x809800⟩, ⟨0, 0x809801⟩, ⟨1, 0x809802⟩] : List TimedAddr).countP (fun x =>
      x.start = 0 && region (dmaOn b) x.addr = .ram && x.addr.getLsbD 10 == false) = 2 := by decide

/-- The last write of a transfer moves the word and raises DINT; where the CPU takes both accesses of the block it waits
(R778, R784). -/
theorem test_dma :
    (dmaCycle false { dmaOn true with dma := { (dmaOn true).dma with data := 9 } }).map
      (fun t => (memWord t.mem 0x809801, t.dma.count, t.ifr)) = .ok (9, 0, 0x400) ∧
    (dmaCycle false { dmaOn true with onChip := [⟨0, 0x809800⟩, ⟨0, 0x809801⟩] }).map (fun t => t.dma.count) = .ok 1 ∧
    (dmaCycle false { dmaOn true with onChip := [⟨1, 0x809800⟩, ⟨1, 0x809801⟩] }).map (fun t => t.dma.count) = .ok 0 := by
  decide

/-- Both stores of STI||STI take the block in the cycle of the first; one store leaves the DMA controller a port (R784, R850,
R863). -/
theorem test_dma_twoStores :
    let s : State := { dmaOn true with env := { Env.none with dmaWithin := [1] } }
    (storeWith [0x809803] 0x809802 5 s).map (fun t => t.dma.count) = .ok 1 ∧
    (store 0x809802 5 s).map (fun t => t.dma.count) = .ok 0 := by decide

/-- Of two stores the second waits for what its port is busy with, here for seven cycles, and not for the first (R850, R863). -/
theorem test_twoStores_wait :
    let busy : BusCycle :=
      { addr := 0x2000, write := false, word := 0, old := 0, waits := 0, lead := 0, start := 0, stop := some 7 }
    let s (a : Word) : State := { calm with primary := [busy], ar := #v[a, 0x1000, 0, 0, 0, 0, 0, 0] }
    let taken (a : Word) := (twoStores 1 2 (.idx .preAdd (.disp ()) 0) (.idx .preAdd (.disp ()) 1) (s a)).map (·.elapsed)
    taken 0x809800 = .ok 7 ∧ taken 0x3000 = .ok 7 ∧
    (twoStores 1 2 (.idx .preAdd (.disp ()) 0) (.idx .preAdd (.disp ()) 1) { s 0x3000 with primary := [] }).map (·.elapsed) =
      .ok 0 := by decide

/-- The cycles of the accesses on the primary bus and on the chip, and those the CPU has waited. -/
def accessCycles (t : State) : List Nat × List Nat × Nat := (t.primary.map (·.start), t.onChip.map (·.start), t.elapsed)

/-- No access is in progress, and the primary bus has no wait states. -/
def quick : State := { calm with primaryCtl := 8 }

/-- The cycles of the reads of a three-operand instruction, those of a parallel multiply, and of two stores. -/
def pairCycles (a b : Addr) : Except Stop (List Nat × List Nat × Nat) := (loadPair a b quick).map fun x => accessCycles x.2.2
def mulCycles (a b : Addr) : Except Stop (List Nat × List Nat × Nat) := (loadMul a b quick).map fun x => accessCycles x.2.2
def storeCycles (a b : Addr) : Except Stop (List Nat × List Nat × Nat) := do
  let t ← storeWith [b] a 5 quick
  (storeSecond a b 6 t).map accessCycles

/-- The cycles of the read and the store of an operation with a parallel store: the store comes two cycles later, also where one
port serves both (R850 (c)). -/
def opStoreCycles (a b : Addr) : Except Stop (List Nat × List Nat × Nat) := do
  let x ← readOperand [] b quick
  (storeLater a 5 x.2).map accessCycles

theorem test_op_store_cycles :
    [opStoreCycles 0x809800 0x809801, opStoreCycles 0x1000 0x809801, opStoreCycles 0x1000 0x1001].map Except.toOption =
    [some ([], [2, 0], 0), some ([2], [0], 0), some ([2, 0], [], 0)] := by decide

/-- The cycles of two reads and of two stores of one instruction, on-chip and over the primary bus (R850 (b), (d), (e)). -/
theorem test_pair_cycles :
    [pairCycles 0x809800 0x1000, pairCycles 0x1000 0x809800, mulCycles 0x1000 0x809800, mulCycles 0x1000 0x1001,
      storeCycles 0x809800 0x1000, storeCycles 0x1000 0x809800, storeCycles 0x1000 0x1001].map Except.toOption =
    [some ([0], [0], 0), some ([0], [1], 1), some ([1], [0], 1), some ([1, 0], [], 1),
      some ([1], [0], 0), some ([0], [0], 0), some ([2, 0], [], 2)] := by decide

/-- An access over the expansion bus does not begin before one that the CPU makes on the peripheral bus later in its step, as both
have one port; it does once that is past (R784, R863). -/
theorem test_dma_common_port :
    let s (l : List TimedAddr) : State := { dmaOn false with
      device := .c30, dma := { (dmaOn false).dma with src := 0x800000 }, onChip := l }
    (dmaCycle false (s [⟨7, 0x808024⟩])).map (fun t => t.dma.access.isSome) = .ok false ∧
    (dmaCycle false (s [⟨7, 0x809900⟩])).map (fun t => t.dma.access.isSome) = .ok true := by decide

/-- However many cycles the environment lets fall before an access, they are those of the instruction itself (R784, log 12). -/
theorem test_dma_ahead :
    (load 0x809802 { dmaOn false with env := { Env.none with dmaWithin := [5] } }).map (fun x => (x.2.dma.ahead, x.2.dma.mid)) =
      .ok (1, true) := by decide

/-- An access two cycles ahead comes one cycle nearer with each cycle that passes. -/
theorem test_later : (endCycle { calm with onChip := [⟨1, 0x809800⟩, ⟨0, 0x809801⟩] }).onChip = [⟨0, 0x809800⟩] := by decide

/-- A DMA write over the primary bus that goes on: the counter has reached 0 and DINT is raised as it begins (R773, C14). -/
theorem test_dma_count :
    (dmaCycle false { dmaOn true with dma := { (dmaOn true).dma with dst := 0x1000 } }).map
      (fun t => (t.dma.count, t.dma.access.isSome, t.ifr)) = .ok (0, true, 0x400) := by decide

/-- No interrupt is taken after a TRAPcond that was taken (R621). -/
theorem test_trap_bars : boundary { flagged with trapped := true } = false ∧ boundary flagged = true := by decide

/-- IDLE2: its own cycle passes, then the clocks stop, with STRB high and the data bus free (R470). -/
theorem test_idle2_stops :
    (passTime { calm with idle := .idle2, elapsed := 1 }).map (fun t => (t.idle, strbPin t, dataPins t)) =
      .ok (.stopped, .high, .hiZ) := by decide

/-- A fetch brings a refetch of its word and the next word with it, uncached and over the bus: three accesses (R92, R854). -/
theorem test_extra_fetches :
    (fetch { calm with primaryCtl := 8, env := { Env.none with extraFetches := [[0, 1]] } }).map
      (fun x => x.2.primary.map (·.addr)) = .ok [0x1001, 0x1000, 0x1000] := by decide

/-- A read that is never ready stays on the bus, with STRB low and its address out, and the CPU waits (R682). -/
theorem test_lockup :
    stepSees { calm with primaryCtl := 0, idle := .running, pins := { Pins.quiet with rdy := true } }
      (fun t => (t.pc, t.stalled, strbPin t, addressPins t)) =
      some (0x1000, some .primary, .low, .driven 0x1000) := by decide

/-- Another master writes to external memory of the held bus while RESET is low (R97, R672, R862). -/
theorem test_master_in_reset :
    (resetCycle { calm with
      resetLow := 1, pins := { Pins.quiet with reset := false, hold := false }
      env := { Env.none with masterWrites := [[(0x1000, 7)]] } }).mem = memWriteWord [] 0x1000 7 := by decide

/-- A word loaded while the last bit of another goes out follows it without a gap; else its own frame sync takes a clock
(R731, R746). RSRFULL stays where the receiver sets it in the cycle it is read (R739). -/
theorem test_serial_words :
    let p : SerialPort := { SerialPort.reset with global := 0x4 }
    shiftLength p 8 = 9 ∧ shiftLength { p with tail := some { bit := true, sync := true } } 8 = 8 ∧
    ((serialRead (overrun p) Pins.quiet.port0 false 0).map fun x => x.2.global) = some 0x14 ∧
    ((serialRead { overrun p with overran := false } Pins.quiet.port0 false 0).map fun x => x.2.global) = some 0x4 := by decide

/-- An acknowledge is a frame of one 0 bit at a fixed data rate: after one rising edge its frame sync, after the next its bit,
then nothing; without an edge nothing goes out, and no word meanwhile (R742). -/
theorem test_serial_acknowledge :
    let p : SerialPort := { SerialPort.reset with global := 0x04000020, txPins := 0x111, acksOwed := 1 }
    let due := loadCycle p Pins.quiet.port0
    let edge (q : SerialPort) := shiftCycle q Pins.quiet.port0 true
    let shown (q : SerialPort) := (fsxLevel q, dxLevel q Pins.quiet.port0, q.sent)
    shown due = (.low, .hiZ, []) ∧ shown (edge due) = (.high, .hiZ, []) ∧ shown (edge (edge due)) = (.low, .low, [.ack]) ∧
    shown (edge (edge (edge due))) = (.low, .hiZ, [.ack]) ∧
    shown (shiftCycle due Pins.quiet.port0 false) = (.low, .hiZ, []) ∧ due.acksOwed = 0 ∧
    (loadCycle { due with dxr := 5 } Pins.quiet.port0).xsr = 0 ∧
    (loadCycle { edge (edge due) with dxr := 5 } Pins.quiet.port0).xsr = 5 := by decide

/-- XINT comes with the rise of XRDY, three H1 cycles after the load, and not where a write of DXR drops that rise (R722). -/
theorem test_serial_xint :
    let p : SerialPort := { SerialPort.reset with global := 0x04800000 }
    let cycle (q : SerialPort) := serialCycle q Pins.quiet.port0
    let third := cycle (cycle (cycle p).1).1
    (cycle p).2.1 = false ∧ third.2.1 = false ∧ third.1.global[1] = false ∧ (cycle third.1).2.1 = true ∧
    (cycle third.1).1.global[1] = true ∧
    ((serialWrite third.1 8 5).map fun q => (cycle q).2.1) = some false := by decide

/-- DATIN of DX and FSX reads what the port puts there, here a 0 bit and an active-low frame sync, both against the level from
outside (R723, R750). -/
theorem test_serial_datin :
    let p : SerialPort := { SerialPort.reset with global := 0x0401000C, txPins := 0x110, shiftLeft := 8, sync := true }
    let high : SerialPins := { Pins.quiet.port0 with dx := true, fsx := true }
    txPinsRead { p with shiftLeft := 3 } high false = 0x910 ∧ txPinsRead { p with shiftLeft := 9 } high false = 0x990 ∧
    txPinsRead p { high with dx := false } false = 0x110 ∧ txPinsRead { p with txPins := 0 } high false = 0x880 := by decide

/-- A word that waits for an external FSX when XSR is reset begins shifting once XRESET is 1 again, without an FSX; while
XRESET = 0 nothing is shifted and XSREMPY is 0 (R734, R744). -/
theorem test_serial_released :
    let p : SerialPort := { SerialPort.reset with global := 0x0400000A, txPins := 0x111, xsr := 0x80, awaitFsx := true }
    let write (v : Word) (q : SerialPort) := ((serialGlobalWrite q v true false 0).map (·.1)).getD q
    let edge (q : SerialPort) := shiftCycle q Pins.quiet.port0 true
    dxLevel (edge (edge p)) Pins.quiet.port0 = .hiZ ∧ (write 0 p).global[3] = false ∧ edge (write 0 p) = write 0 p ∧
    dxLevel (edge (write 0x04000000 (write 0 p))) Pins.quiet.port0 = .high ∧
    (write 0x04000000 { write 0 p with awaitFsx := false }).global[3] = false := by decide

/-- DX and FSX as general-purpose outputs carry DATOUT, and are high-impedance in reset (R750, R801). -/
theorem test_serial_pins :
    let s : State := { calm with port0 := { SerialPort.reset with txPins := 0x260#32 } }
    (port0Pins s).dx = .high ∧ (port0Pins s).fsx = .low ∧
    (port0Pins { s with pins := { Pins.quiet with reset := false } }).dx = .hiZ := by decide

end Sys2Proof.Tests
end

section
/-! Writes of the CPU's registers: what each leaves in the register file (R20 to R55). -/
namespace Sys2Proof.Machine

/-! ## Bits under a mask -/

/-- A masked word has no bit outside the mask. -/
theorem and_mask_outside (v m : Word) : v &&& m &&& ~~~m = 0#32 := by
  rw [BitVec.and_assoc, BitVec.and_not_self]; exact BitVec.and_zero

/-- The bits of ST that hold what is written are 0 to 8, 10, 11 and 13 (R32 to R34). -/
theorem stMask_bit (k : Nat) : stMask.getLsbD k = decide (k < 14 ∧ k ≠ 9 ∧ k ≠ 12) := by
  by_cases hk : k < 14
  · revert k; decide
  · rw [decide_eq_false (by omega)]
    exact Nat.testBit_lt_two_pow (Nat.lt_of_lt_of_le (by decide : stMask.toNat < 2 ^ 14)
      (Nat.pow_le_pow_right (by decide) (by omega)))

/-- The bits of IOF that hold what is written are 1, 2, 5 and 6 (R52). -/
theorem iofMask_bit (k : Nat) : iofMask.getLsbD k = (k == 1 || k == 2 || k == 5 || k == 6) := by
  by_cases hk : k < 7
  · revert k; decide
  · have high : iofMask.getLsbD k = false := Nat.testBit_lt_two_pow (Nat.lt_of_lt_of_le
      (by decide : iofMask.toNat < 2 ^ 7) (Nat.pow_le_pow_right (by decide) (by omega)))
    rw [high]
    simp; omega

/-! ## Loads of ST (R33, R34, R38, R107) -/

/-- ST after a load, bit by bit. -/
theorem stLoaded_bit (rc v : Word) (k : Nat) :
    (stLoaded rc v).getLsbD k =
      if k = 8 then v.getLsbD 8 && !(rc == 0#32 || rc == 0xFFFFFFFF#32)
      else v.getLsbD k && decide (k < 14 ∧ k ≠ 9 ∧ k ≠ 12) := by
  unfold stLoaded
  by_cases hrc : rc = 0#32 ∨ rc = 0xFFFFFFFF#32
  · have hb : (rc == 0#32 || rc == 0xFFFFFFFF#32) = true := by simpa using hrc
    rw [if_pos hrc, hb, getLsbD_setBit, BitVec.getLsbD_and, stMask_bit]
    by_cases h8 : k = 8 <;> simp [h8]
  · have hb : (rc == 0#32 || rc == 0xFFFFFFFF#32) = false := by simpa using hrc
    rw [if_neg hrc, hb, BitVec.getLsbD_and, stMask_bit]
    by_cases h8 : k = 8 <;> simp [h8]

/-- A load of ST puts there what ST can hold, whatever it notes of the repeat registers. -/
@[simp] theorem writeSt_st (v : Word) (s : State) : (writeSt v s).st = stLoaded s.rc v := rfl

/-- A load of ST clears the cache where bit 12 says so, and leaves it otherwise (R107). -/
@[simp] theorem writeSt_cache (v : Word) (s : State) :
    (writeSt v s).cache = if v.getLsbD 12 then s.cache.clear else s.cache := rfl

/-- Settles O16: `stLoaded_bit` at each bit, and the two cases of bit 12 for the cache. -/
theorem statusRegisterLoad : Obligations.StatusRegisterLoad := by
  intro v s
  have bit := stLoaded_bit s.rc v
  have never : ∀ k, k ≠ 8 → ¬ (k < 14 ∧ k ≠ 9 ∧ k ≠ 12) → (stLoaded s.rc v).getLsbD k = false := fun k h8 hk => by
    rw [bit, if_neg h8, decide_eq_false hk, Bool.and_false]
  refine ⟨writeSt v s, rfl, bit 8, fun k hk h8 h9 h12 => ?_, never 9 (by decide) (by decide),
    never 12 (by decide) (by decide), fun k hk => never k (by omega) (by omega), fun h => ?_, fun h => ?_⟩
  · rw [writeSt_st, bit, if_neg h8, decide_eq_true ⟨hk, h9, h12⟩, Bool.and_true]
  · rw [writeSt_cache, if_pos h]; exact ⟨rfl, rfl⟩
  · rw [writeSt_cache, h]; rfl

/-! ## Loads of IE, IF and IOF (R50 to R52) -/

/-- IOF as it reads after a load, bit by bit. -/
theorem iofRead_loaded_bit (v : Word) (s : State) (k : Nat) :
    (iofRead { s with iof := v &&& iofMask }).getLsbD k =
      if k = 7 then (if v.getLsbD 5 then v.getLsbD 6 else s.pins.xf1)
      else if k = 3 then (if v.getLsbD 1 then v.getLsbD 2 else s.pins.xf0)
      else v.getLsbD k && (k == 1 || k == 2 || k == 5 || k == 6) := by
  have h1 : xf1Level { s with iof := v &&& iofMask } = if v.getLsbD 5 then v.getLsbD 6 else s.pins.xf1 := by
    simp only [xf1Level, BitVec.getLsbD_and, iofMask_bit]; simp
  have h0 : xf0Level { s with iof := v &&& iofMask } = if v.getLsbD 1 then v.getLsbD 2 else s.pins.xf0 := by
    simp only [xf0Level, BitVec.getLsbD_and, iofMask_bit]; simp
  unfold iofRead
  rw [getLsbD_setBit, getLsbD_setBit, h0, h1, BitVec.getLsbD_and, iofMask_bit]
  by_cases h7 : k = 7
  · simp [h7]
  · by_cases h3 : k = 3
    · simp [h3]
    · simp [h7, h3]

/-- IE takes a word that asks for no serial port 1 on a C31 (R50). -/
theorem writeIe_ok {v : Word} {s : State} (h : s.device = .c30 ∨ v &&& iePort1 = 0#32) :
    writeIe v s = .ok { s with ie := v &&& ieMask } := if_neg fun ⟨hd, hv⟩ => h.elim hd hv

/-- A 1 in a serial-port-1 enable stops a C31 (U7). -/
theorem writeIe_refused {v : Word} {s : State} (hd : s.device ≠ .c30) (hv : v &&& iePort1 ≠ 0#32) :
    writeIe v s = .error (.refuse .serialPort1Enable) := if_pos ⟨hd, hv⟩

/-- A load of IE that is taken leaves the bits IE can hold (R50). -/
theorem writeIe_eq {v : Word} {s t : State} (h : writeIe v s = .ok t) : t = { s with ie := v &&& ieMask } := by
  unfold writeIe at h
  split at h
  · cases h
  · exact (Except.ok.inj h).symm

/-- IF takes its eleven bits where no source has just raised a flag (R51). -/
theorem writeIf_ifr {v : Word} {s : State} (h : s.ifSet = 0#11) : (writeIf v s).ifr = v &&& ifMask := if_pos h

/-- Settles O18: each of the three registers by what its load leaves. -/
theorem interruptAndFlagRegisters : Obligations.InterruptAndFlagRegisters := by
  intro v s
  have iof := iofRead_loaded_bit v s
  refine ⟨fun h => ⟨_, writeIe_ok h, rfl⟩, writeIe_refused, fun h => ⟨_, rfl, writeIf_ifr h⟩,
    { s with iof := v &&& iofMask }, rfl, fun k h3 h7 => ?_, ?_, ?_⟩
  · exact (iof k).trans (by rw [if_neg h7, if_neg h3])
  · exact iof 3
  · exact iof 7

/-! ## Writes of a register (R20 to R27, R55) -/

/-- Every register but IE takes any word. -/
theorem writeReg_ok {q : Reg} (hq : q ≠ .ie) (v : Word) (s : State) : ∃ t, writeReg q v s = .ok t := by
  cases q with
  | ie => exact absurd rfl hq
  | _ => exact ⟨_, rfl⟩

/-- A 40-bit result reads back. -/
@[simp] theorem readExt_writeExt (n : FReg) (v : Ext) (s : State) : readExt n (writeExt n v s) = v :=
  Vector.getElem_set_self n.isLt

/-- An integer result leaves the exponent field of R0-R7 (R23). -/
theorem readExt_writeInt (n : FReg) (v : Word) (s : State) :
    readExt n (writeInt n v s) = (readExt n s).extractLsb' 32 8 ++ v := readExt_writeExt ..

/-- A 40-bit result changes its own register only. -/
theorem writeExt_keepsRegs (n : FReg) (v : Ext) (s : State) : KeepsRegs [.r n] s (writeExt n v s) := by
  intro q hq
  cases q with
  | r m =>
    have hne : n ≠ m := fun e => hq (by simp [e])
    exact Vector.getElem_set_ne n.isLt m.isLt (BitVec.toNat_ne.mp hne)
  | _ => rfl

/-- A write of ARn changes that register only. -/
theorem writeAr_keepsRegs (n : BitVec 3) (v : Word) (s : State) : KeepsRegs [.ar n] s (writeAr n v s) := by
  intro q hq
  cases q with
  | ar m =>
    have hne : n ≠ m := fun e => hq (by simp [e])
    exact congrArg (BitVec.setWidth 40) (Vector.getElem_set_ne n.isLt m.isLt (BitVec.toNat_ne.mp hne))
  | _ => rfl

/-- A load of ST changes no other register. -/
theorem writeSt_keepsRegs (v : Word) (s : State) : KeepsRegs [.st] s (writeSt v s) := by
  intro q hq
  unfold writeSt
  cases q with
  | st => exact absurd (List.mem_singleton.mpr rfl) hq
  | _ => dsimp only; split <;> rfl

/-- A write of a register changes that register only. -/
theorem writeReg_keepsRegs {q : Reg} {v : Word} {s t : State} (h : writeReg q v s = .ok t) : KeepsRegs [q] s t := by
  cases q with
  | r n => cases h; exact writeExt_keepsRegs n _ s
  | ar n => cases h; exact writeAr_keepsRegs n v s
  | st => cases h; exact writeSt_keepsRegs v s
  | ie => rw [writeIe_eq h]; intro p hp; cases p <;> simp [held, readExt] at hp ⊢
  | _ => cases h; intro p hp; cases p <;> simp [held, readExt, writeIf, writeRc] at hp ⊢

/-- What a register that holds any word reads as after a write (R20, R24 to R27). RC is read as it is outside a repeat mode
(R644). -/
theorem readReg_writeReg {q : Reg} {v : Word} {s t : State} (h : writeReg q v s = .ok t) (hst : q ≠ .st) (hie : q ≠ .ie)
    (hifr : q ≠ .ifr) (hiof : q ≠ .iof) (hrc : q ≠ .rc ∨ s.st.getLsbD 8 = false) : readReg q t = v := by
  cases q with
  | r n =>
    cases h
    exact (congrArg (·.extractLsb' 0 32) (readExt_writeInt n v s)).trans BitVec.extractLsb'_append_eq_right
  | ar n => cases h; exact Vector.getElem_set_self n.isLt
  | st => exact absurd rfl hst
  | ie => exact absurd rfl hie
  | ifr => exact absurd rfl hifr
  | iof => exact absurd rfl hiof
  | rc => cases h; exact rcRead_outside (hrc.resolve_left (absurd rfl))
  | _ => cases h; rfl

/-- Settles O15: the register written takes the word by its own rule, and no other register changes. -/
theorem registerWrite : Obligations.RegisterWrite := by
  intro q v s
  refine ⟨fun hq => writeReg_ok hq v s, fun t h => ⟨writeReg_keepsRegs h, writeReg_pc h, writeReg_mem h, ?_, ?_, ?_⟩⟩
  · rintro n rfl
    cases h
    exact readExt_writeInt n v s
  · rintro rfl
    cases h
    rfl
  · exact readReg_writeReg h

end Sys2Proof.Machine
end

section
/-! Which bits of ST the flags of each operation can change (R40 to R47, R332, R333). -/
namespace Sys2Proof.Machine

/-! ## Changes of ST within a mask -/

/-- Two words agree outside a mask where they agree at each bit outside it. -/
theorem outside_eq_iff {m u v : Word} :
    u &&& ~~~m = v &&& ~~~m ↔ ∀ k < 32, m.getLsbD k = false → u.getLsbD k = v.getLsbD k := by
  constructor
  · intro h k hk hm
    have hb := congrArg (·.getLsbD k) h
    simpa only [BitVec.getLsbD_and, BitVec.getLsbD_not, hk, hm, decide_true, Bool.not_false, Bool.and_true] using hb
  · intro h
    apply BitVec.eq_of_getLsbD_eq
    intro k hk
    rw [BitVec.getLsbD_and, BitVec.getLsbD_and, BitVec.getLsbD_not]
    by_cases hm : m.getLsbD k = true
    · simp only [hm, Bool.not_true, Bool.and_false]
    · rw [h k hk (Bool.eq_false_iff.mpr hm)]

/-- Words that agree outside a mask agree outside a larger one. -/
theorem outside_mono {m m' u v : Word} (h : u &&& ~~~m = v &&& ~~~m) (hm : m &&& ~~~m' = 0#32) :
    u &&& ~~~m' = v &&& ~~~m' := outside_eq_iff.mpr fun k hk hk' => by
  have outside : m.getLsbD k = false := by
    have hb := congrArg (·.getLsbD k) hm
    simpa only [BitVec.getLsbD_and, BitVec.getLsbD_not, hk, hk', decide_true, Bool.not_false, Bool.and_true,
      BitVec.getLsbD_zero] using hb
  exact outside_eq_iff.mp h k hk outside

/-- Setting a bit under a mask changes nothing outside it. -/
theorem setBit_outside {m : Word} {i : Nat} (hi : m.getLsbD i = true) (w : Word) (b : Bool) :
    setBit w i b &&& ~~~m = w &&& ~~~m :=
  outside_eq_iff.mpr fun k hk hm => by
    have hne : k ≠ i := fun e => by rw [e, hi] at hm; exact absurd hm (by decide)
    rw [getLsbD_setBit, if_neg fun h => hne h.1]

/-- A word that is 0 outside a mask stays so when a bit under the mask is set. -/
theorem setBit_reserved {m : Word} {i : Nat} (hi : m.getLsbD i = true) {w : Word} (b : Bool) (h : w &&& ~~~m = 0#32) :
    setBit w i b &&& ~~~m = 0#32 := (setBit_outside hi w b).trans h

/-- A computation of ST from ST that leaves the bits outside a mask. -/
def FlagsWithin (m : Word) (f : Word → Word) : Prop := ∀ st, f st &&& ~~~m = st &&& ~~~m

theorem FlagsWithin.id {m : Word} : FlagsWithin m fun st => st := fun _ => rfl

theorem FlagsWithin.mono {m m' : Word} {f : Word → Word} (h : FlagsWithin m f) (hm : m &&& ~~~m' = 0#32) :
    FlagsWithin m' f := fun st => outside_mono (h st) hm

theorem FlagsWithin.setBit {m : Word} {f : Word → Word} (h : FlagsWithin m f) {i : Nat} (hi : m.getLsbD i = true)
    (b : Bool) : FlagsWithin m fun st => Machine.setBit (f st) i b :=
  fun st => (setBit_outside hi _ b).trans (h st)

/-- A latched flag is changed only by its event. -/
theorem FlagsWithin.latch {m : Word} {f : Word → Word} (h : FlagsWithin m f) {i : Nat} {event : Bool}
    (hi : event = true → m.getLsbD i = true) : FlagsWithin m fun st => Machine.latch i event (f st) := by
  cases event with
  | false => exact h
  | true => exact h.setBit (hi rfl) true

/-! ## The flags of an operation -/

/-- V, Z, N and UF are written; LV and LUF are, where V and UF are 1. -/
theorem flagsWithin_opFlags_of {m : Word} {v uf : Bool} (n z : Bool) (hm : flagsLogic &&& ~~~m = 0#32)
    (hv : v = true → m.getLsbD 5 = true) (huf : uf = true → m.getLsbD 6 = true) : FlagsWithin m (opFlags v uf n z) := by
  have written : FlagsWithin flagsLogic fun st => setBit (setBit (setBit (setBit st 1 v) 2 z) 3 n) 4 uf :=
    (((FlagsWithin.id.setBit (by decide) v).setBit (by decide) z).setBit (by decide) n).setBit (by decide) uf
  exact ((written.mono hm).latch hv).latch huf

theorem flagsWithin_opFlags {v uf n z : Bool} : FlagsWithin flagsNotC (opFlags v uf n z) :=
  flagsWithin_opFlags_of n z (by decide) (fun _ => by decide) (fun _ => by decide)

/-- Without an underflow LUF stays. -/
theorem flagsWithin_opFlags_noUf {v n z : Bool} : FlagsWithin flagsNotCLuf (opFlags v false n z) :=
  flagsWithin_opFlags_of n z (by decide) (fun _ => by decide) (fun h => absurd h (by decide))

/-- Without an overflow either LV stays too. -/
theorem flagsWithin_opFlags_noV {n z : Bool} : FlagsWithin flagsLogic (opFlags false false n z) :=
  flagsWithin_opFlags_of n z (by decide) (fun h => absurd h (by decide)) (fun h => absurd h (by decide))

theorem flagsWithin_opFlagsC {c v n z : Bool} : FlagsWithin flagsNotLuf (opFlagsC c v false n z) :=
  (flagsWithin_opFlags_noUf.mono (by decide)).setBit (by decide) c

theorem flagsWithin_opFlagsC_noV {c n z : Bool} : FlagsWithin flagsShift (opFlagsC c false false n z) :=
  (flagsWithin_opFlags_noV.mono (by decide)).setBit (by decide) c

/-! ## Integer operations -/

theorem flagsWithin_add {st a b : Word} {c : Bool} : FlagsWithin flagsNotLuf (addEffect st a b c).flags :=
  flagsWithin_opFlagsC

theorem flagsWithin_sub {st a b : Word} {c : Bool} : FlagsWithin flagsNotLuf (subEffect st a b c).flags :=
  flagsWithin_opFlagsC

theorem flagsWithin_cmp {a b : Word} : FlagsWithin flagsNotLuf (cmpFlags a b) := flagsWithin_opFlagsC

theorem flagsWithin_abs {st a : Word} : FlagsWithin flagsNotCLuf (absEffect st a).flags := flagsWithin_opFlags_noUf

theorem flagsWithin_mpy {st a b : Word} : FlagsWithin flagsNotCLuf (mpyEffect st a b).flags :=
  flagsWithin_opFlags_noUf

theorem flagsWithin_logicFlags {r : Word} : FlagsWithin flagsLogic (logicFlags r) := flagsWithin_opFlags_noV

theorem flagsWithin_logic {r : Word} : FlagsWithin flagsLogic (logicEffect r).flags := flagsWithin_logicFlags

theorem flagsWithin_logicC {r : Word} {c : Bool} : FlagsWithin flagsShift (logicEffectC r c).flags :=
  flagsWithin_opFlagsC_noV

/-- An arithmetic shift to the left may overflow (R341). -/
theorem flagsWithin_ash {count v : Word} : FlagsWithin flagsNotLuf (ashEffect count v).flags := by
  unfold ashEffect
  dsimp only
  split
  · exact flagsWithin_opFlagsC
  · split <;> exact flagsWithin_opFlagsC

theorem flagsWithin_lsh {count v : Word} : FlagsWithin flagsShift (lshEffect count v).flags := by
  unfold lshEffect
  dsimp only
  split
  · exact flagsWithin_logicC
  · split <;> exact flagsWithin_logicC

/-! ## Floating-point and conversion operations -/

theorem flagsWithin_floatFlags {r : FResult} : FlagsWithin flagsNotC (floatFlags r) := flagsWithin_opFlags

theorem flagsWithin_float {r : FResult} : FlagsWithin flagsNotC (floatEffect r).flags := flagsWithin_floatFlags

theorem flagsWithin_absf {a : Ext} : FlagsWithin flagsNotCLuf (absfEffect a).flags := flagsWithin_opFlags_noUf

theorem flagsWithin_ldf {v : Ext} : FlagsWithin flagsLogic (ldfEffect v).flags := flagsWithin_opFlags_noV

theorem flagsWithin_fix {a : Ext} : FlagsWithin flagsNotCLuf (fixEffect a).flags := flagsWithin_opFlags_noUf

/-- RND writes Z as it was, so the computation depends on ST (R355). -/
theorem flagsWithin_rnd {a : Ext} : FlagsWithin flagsNotC (rndEffect a).flags := fun st => flagsWithin_opFlags st

end Sys2Proof.Machine
end

section
/-! The invariant, kept by each shared operation of the instructions: register writes, flags, reads, stores, the stack. -/
namespace Sys2Proof.Machine

/-! ## What the invariant speaks of -/

/-- The fields the invariant speaks of. -/
def invPart (s : State) :
    List Host.Cell × Word × Word × Word × Word × Word × Word × Option Delayed × Nat :=
  (s.mem, s.st, s.ie, s.ifr, s.iof, s.primaryCtl, s.expansionCtl, s.delay, s.loopLoad)

/-- A change of other fields keeps the invariant. -/
theorem State.Inv.congr {s t : State} (hs : s.Inv) (h : invPart t = invPart s) : t.Inv := by
  simp only [invPart, Prod.mk.injEq] at h
  obtain ⟨hmem, hst, hie, hifr, hiof, hprimary, hexpansion, hdelay, hloop⟩ := h
  exact ⟨hmem ▸ hs.mem, hst ▸ hs.st, hie ▸ hs.ie, hifr ▸ hs.ifr, hiof ▸ hs.iof, hprimary ▸ hs.primary,
    hexpansion ▸ hs.expansion, hdelay ▸ hs.delay, hloop ▸ hs.loop⟩

theorem State.Inv.units {s : State} (hs : s.Inv) : UnitsInv s := ⟨hs.mem, hs.ifr, hs.primary, hs.expansion⟩

/-- The units' work keeps the invariant: what it speaks of beyond the units is the CPU's. -/
theorem UnitsWork.inv {s t : State} (h : UnitsWork s t) (hs : s.Inv) : t.Inv := by
  obtain ⟨hcpu, hunits⟩ := h
  have units : UnitsInv t := hunits hs.units
  have hst : t.st = s.st := (congrArg State.st hcpu :)
  have hie : t.ie = s.ie := (congrArg State.ie hcpu :)
  have hiof : t.iof = s.iof := (congrArg State.iof hcpu :)
  have hdelay : t.delay = s.delay := (congrArg State.delay hcpu :)
  have hloop : t.loopLoad = s.loopLoad := (congrArg State.loopLoad hcpu :)
  exact ⟨units.mem, hst ▸ hs.st, hie ▸ hs.ie, units.ifr, hiof ▸ hs.iof, units.primary, units.expansion,
    hdelay ▸ hs.delay, hloop ▸ hs.loop⟩

/-- Reading operands keeps the invariant. -/
theorem Fetched.inv {s t : State} (h : Fetched s t) (hs : s.Inv) : t.Inv := by
  obtain ⟨v, hwork, -⟩ := h
  exact hwork.inv (hs.congr rfl)

/-- A load keeps the invariant. -/
theorem State.Inv.loadFor {s t : State} {k : Access} {a : Addr} {w : Word} (hs : s.Inv)
    (h : loadFor k a s = .ok (w, t)) : t.Inv := (unitsWork_load (loadFor_keeps h)).inv hs

theorem State.Inv.addCycle {s : State} (hs : s.Inv) (c : BusCycle) (p : PortName) : (addCycle c s p).Inv :=
  (unitsWork_load (loadPart_addCycle c s p)).inv hs

/-! ## ST, IOF, a delayed branch -/

theorem State.Inv.withSt {s : State} (hs : s.Inv) {w : Word} (h : w &&& ~~~stMask = 0#32) :
    { s with st := w }.Inv :=
  ⟨hs.mem, h, hs.ie, hs.ifr, hs.iof, hs.primary, hs.expansion, hs.delay, hs.loop⟩

theorem State.Inv.withIof {s : State} (hs : s.Inv) {w : Word} (h : w &&& ~~~iofMask = 0#32) :
    { s with iof := w }.Inv :=
  ⟨hs.mem, hs.st, hs.ie, hs.ifr, h, hs.primary, hs.expansion, hs.delay, hs.loop⟩

theorem State.Inv.withDelay {s : State} (hs : s.Inv) {o : Option Delayed} (h : ∀ d, o = some d → 1 ≤ d.left ∧ d.left ≤ 3) :
    { s with delay := o }.Inv :=
  ⟨hs.mem, hs.st, hs.ie, hs.ifr, hs.iof, hs.primary, hs.expansion, h, hs.loop⟩

theorem State.Inv.withLoop {s : State} (hs : s.Inv) {n : Nat} (h : n ≤ 4) : { s with loopLoad := n }.Inv :=
  ⟨hs.mem, hs.st, hs.ie, hs.ifr, hs.iof, hs.primary, hs.expansion, hs.delay, h⟩

theorem State.Inv.withStalled {s : State} (hs : s.Inv) (w : Option Wait) : { s with stalled := w }.Inv := hs.congr rfl

theorem State.Inv.withSp {s : State} (hs : s.Inv) (w : Word) : { s with sp := w }.Inv := hs.congr rfl

theorem State.Inv.setGie {s : State} (hs : s.Inv) (b : Bool) : (setGie b s).Inv :=
  hs.withSt (setBit_reserved (by decide) b hs.st)

theorem State.Inv.setRm {s : State} (hs : s.Inv) (b : Bool) : (setRm b s).Inv :=
  hs.withSt (setBit_reserved (by decide) b hs.st)

theorem State.Inv.latchXf0 {s : State} (hs : s.Inv) (b : Bool) : (latchXf0 b s).Inv :=
  hs.withIof (setBit_reserved (by decide) b hs.iof)

theorem State.Inv.setXf0 {s : State} (hs : s.Inv) (b : Bool) : (setXf0 b s).Inv := (hs.latchXf0 b).congr rfl

/-- Flags lie within what ST can hold. -/
theorem State.Inv.applyFlags {s : State} (hs : s.Inv) {m : Word} {f : Word → Word} (hf : FlagsWithin m f)
    (hm : m &&& ~~~stMask = 0#32) : (applyFlags f s).Inv := hs.withSt ((hf.mono hm s.st).trans hs.st)

/-! ## Writes of registers -/

/-- A load of ST leaves its reserved bits 0 (R34). -/
theorem stLoaded_reserved (rc v : Word) : stLoaded rc v &&& ~~~stMask = 0#32 := by
  unfold stLoaded
  split
  · exact setBit_reserved (by decide) false (and_mask_outside v stMask)
  · exact and_mask_outside v stMask

/-- A direct load of a repeat register opens a window of four (R833). -/
theorem State.Inv.loopLoaded {s : State} (hs : s.Inv) : (loopLoaded s).Inv :=
  (hs.withLoop (Nat.le_refl 4)).congr rfl

theorem State.Inv.writeSt {s : State} (hs : s.Inv) (v : Word) : (writeSt v s).Inv := by
  have loaded : ∀ {u : State}, u.Inv → { u with st := stLoaded s.rc v }.Inv := fun hu => hu.withSt (stLoaded_reserved s.rc v)
  unfold Machine.writeSt
  dsimp only
  split
  · exact (loaded hs).congr rfl
  · exact (loaded hs.loopLoaded).congr rfl

theorem State.Inv.writeIf {s : State} (hs : s.Inv) (v : Word) : (writeIf v s).Inv := by
  have reserved : (Machine.writeIf v s).ifr &&& ~~~ifMask = 0#32 := by
    unfold Machine.writeIf
    dsimp only
    split
    · exact and_mask_outside v ifMask
    · exact raised_masked _ (and_mask_outside v ifMask)
  exact ⟨hs.mem, hs.st, hs.ie, reserved, hs.iof, hs.primary, hs.expansion, hs.delay, hs.loop⟩

theorem State.Inv.writeIe {s t : State} (hs : s.Inv) {v : Word} (h : writeIe v s = .ok t) : t.Inv := by
  rw [writeIe_eq h]
  exact ⟨hs.mem, hs.st, and_mask_outside v ieMask, hs.ifr, hs.iof, hs.primary, hs.expansion, hs.delay, hs.loop⟩

/-- A write of a register keeps the invariant. -/
theorem State.Inv.writeReg {s t : State} (hs : s.Inv) {q : Reg} {v : Word} (h : writeReg q v s = .ok t) : t.Inv := by
  cases q with
  | st => cases h; exact hs.writeSt v
  | ie => exact hs.writeIe h
  | ifr => cases h; exact hs.writeIf v
  | iof => cases h; exact hs.withIof (and_mask_outside v iofMask)
  | rs => cases h; exact hs.loopLoaded.congr rfl
  | re => cases h; exact hs.loopLoaded.congr rfl
  | rc => cases h; exact hs.loopLoaded.congr rfl
  | _ => cases h; exact hs.congr rfl

theorem State.Inv.deliver {s t : State} (hs : s.Inv) {dst : Reg} {e : Effect Word} {m : Word}
    (he : FlagsWithin m e.flags) (hm : m &&& ~~~stMask = 0#32) (h : deliver dst e s = .ok t) : t.Inv := by
  obtain ⟨u, hu, rfl⟩ := deliver_cases h
  have written := hs.writeReg hu
  split
  · exact written.applyFlags he hm
  · exact written

theorem State.Inv.writeExt {s : State} (hs : s.Inv) (n : FReg) (v : Ext) : (writeExt n v s).Inv := hs.congr rfl

theorem State.Inv.writeInt {s : State} (hs : s.Inv) (n : FReg) (v : Word) : (writeInt n v s).Inv := hs.congr rfl

theorem State.Inv.deliverInt {s : State} (hs : s.Inv) (dst : FReg) {e : Effect Word} {m : Word}
    (he : FlagsWithin m e.flags) (hm : m &&& ~~~stMask = 0#32) : (deliverInt dst e s).Inv :=
  (hs.writeInt dst e.out).applyFlags he hm

theorem State.Inv.deliverFlt {s : State} (hs : s.Inv) (dst : FReg) {e : Effect Ext} {m : Word}
    (he : FlagsWithin m e.flags) (hm : m &&& ~~~stMask = 0#32) : (deliverFlt dst e s).Inv :=
  (hs.writeExt dst e.out).applyFlags he hm

theorem State.Inv.advance {s : State} (hs : s.Inv) : (advance s).Inv := hs.congr rfl

/-! ## Computations and outcomes -/

/-- Every state a computation completes with has the invariant. -/
def OkInv (x : Except Stop State) : Prop := ∀ t, x = .ok t → t.Inv

/-- Every next state of an outcome has the invariant. -/
def NextInv (x : Host.Outcome State Fault Refusal) : Prop := ∀ t, x = .next t → t.Inv

theorem okInv_ok {t : State} (h : t.Inv) : OkInv (.ok t) := fun _ e => Except.ok.inj e ▸ h

theorem okInv_error (e : Stop) : OkInv (.error e) := fun _ h => nomatch h

theorem nextInv_next {t : State} (h : t.Inv) : NextInv (.next t) := fun _ e => Host.Outcome.next.inj e ▸ h

theorem nextInv_fault (r : Fault) : NextInv (.fault r) := nomatch r

theorem nextInv_refused (r : Refusal) : NextInv (.refused r) := fun _ h => nomatch h

theorem nextInv_ite {c : Prop} [Decidable c] {x y : Host.Outcome State Fault Refusal} (hx : NextInv x) (hy : NextInv y) :
    NextInv (if c then x else y) := by
  split
  · exact hx
  · exact hy

/-- A computation after another: from each result of the first. -/
theorem okInv_bind {α : Type} {x : Except Stop α} {f : α → Except Stop State} (h : ∀ a, x = .ok a → OkInv (f a)) :
    OkInv (x >>= f) := fun t ht => by
  obtain ⟨a, ha, hf⟩ := bind_eq_ok.mp ht
  exact h a ha t hf

/-- A machine that waits keeps the invariant (R93). -/
theorem stop_nextInv {s : State} (hs : s.Inv) (e : Stop) : NextInv (stop s e) := fun t h => by
  rcases stop_eq_next.mp h with ⟨w, -, rfl⟩ | ⟨p, c, -, rfl⟩
  · exact hs.congr rfl
  · exact (hs.withStalled _).addCycle c p

theorem outcome_nextInv {s : State} (hs : s.Inv) {x : Except Stop State} (hx : OkInv x) : NextInv (outcome s x) :=
  fun t h => by
    rcases outcome_eq_next.mp h with h | ⟨e, -, h⟩
    · exact hx t h
    · exact stop_nextInv hs e t h

/-! ## Stores and the stack -/

theorem storeWith_okInv {s : State} (hs : s.Inv) {l : List Addr} {a : Addr} {v : Word} : OkInv (storeWith l a v s) :=
  fun _ h => (storeWith_work h).inv hs

theorem store_okInv {s : State} (hs : s.Inv) {a : Addr} {v : Word} : OkInv (store a v s) := storeWith_okInv hs

theorem push_okInv {s : State} (hs : s.Inv) {v : Word} : OkInv (push v s) := store_okInv (hs.withSp _)

theorem State.Inv.pop {s t : State} (hs : s.Inv) {w : Word} (h : pop s = .ok (w, t)) : t.Inv := by
  obtain ⟨u, hu, rfl⟩ := pop_cases h
  exact ((load_work hu).inv hs).congr rfl

/-- An address update keeps the invariant. -/
theorem State.Inv.memAddr {s t : State} (hs : s.Inv) {m : MemOp} {a : Addr} (h : memAddr m s = .ok (a, t)) : t.Inv := by
  obtain ⟨v, rfl⟩ := memAddr_cases h
  exact hs.congr rfl

theorem State.Inv.indirectPair {s t : State} (hs : s.Inv) {hi lo : Ind Unit} {a b : Addr}
    (h : indirectPair hi lo s = .ok (a, b, t)) : t.Inv := by
  obtain ⟨v, rfl⟩ := indirectPair_cases h
  exact hs.congr rfl

/-! ## Exceptions -/

theorem enterException_okInv {s : State} (hs : s.Inv) {v ret : Addr} : OkInv (enterException v ret s) := fun t h => by
  obtain ⟨s1, w, s2, hpush, hload, rfl⟩ := enterException_cases h
  have pushed : s1.Inv := push_okInv (hs.setGie false) s1 hpush
  exact (pushed.loadFor hload).congr rfl

theorem popPc_okInv {s : State} (hs : s.Inv) : OkInv (popPc s) := fun t h => by
  obtain ⟨w, u, hu, rfl⟩ := popPc_cases h
  exact ((load_work hu).inv hs).congr rfl

theorem returnFromException_okInv {s : State} (hs : s.Inv) : OkInv (returnFromException s) := fun t h => by
  obtain ⟨w, u, hu, rfl⟩ := returnFromException_cases h
  have popped : { u with sp := u.sp - 1, pc := w.extractLsb' 0 24 }.Inv := ((load_work hu).inv hs).congr rfl
  exact (popped.setGie true).congr rfl

end Sys2Proof.Machine
end

section
/-! The invariant, kept by every instruction: one lemma per shape of instruction, then the instructions by their shape. -/
namespace Sys2Proof.Machine

/-! ## Operations that deliver a result -/

/-- The general form on an integer destination. -/
theorem twoInt_nextInv {get : Src Reg → State → Except Stop (Word × State)} {op : Word → Word → Word → Effect Word}
    {src : Src Reg} {dst : Reg} {s : State} {m : Word} (hs : s.Inv)
    (hget : ∀ {w t}, get src s = .ok (w, t) → Fetched s t) (hop : ∀ st b d, FlagsWithin m (op st b d).flags)
    (hm : m &&& ~~~stMask = 0#32 := by decide) : NextInv (outcome s (twoInt get op src dst s)) :=
  outcome_nextInv hs fun t h => by
    obtain ⟨⟨b, s1⟩, hb, h⟩ := bind_eq_ok.mp h
    obtain ⟨s2, hs2, h⟩ := bind_eq_ok.mp h
    cases h
    exact (((hget hb).inv hs).deliver (hop _ _ _) hm hs2).advance

/-- The general form on a floating-point destination. -/
theorem twoFlt_nextInv {op : Ext → Ext → Effect Ext} {src : Src FReg} {dst : FReg} {s : State} {m : Word} (hs : s.Inv)
    (hop : ∀ b d, FlagsWithin m (op b d).flags) (hm : m &&& ~~~stMask = 0#32 := by decide) :
    NextInv (outcome s (twoFlt op src dst s)) :=
  outcome_nextInv hs fun t h => by
    obtain ⟨⟨b, s1⟩, hb, h⟩ := bind_eq_ok.mp h
    cases h
    exact (((srcExt_fetched hb).inv hs).deliverFlt dst (hop _ _) hm).advance

/-- The three-operand form on an integer destination. -/
theorem threeInt_nextInv {op : Word → Word → Word → Effect Word} {x y : Src3 Reg} {dst : Reg} {s : State} {m : Word}
    (hs : s.Inv) (hop : ∀ st a b, FlagsWithin m (op st a b).flags) (hm : m &&& ~~~stMask = 0#32 := by decide) :
    NextInv (outcome s (threeInt op x y dst s)) :=
  outcome_nextInv hs fun t h => by
    obtain ⟨⟨a, b, s1⟩, hab, h⟩ := bind_eq_ok.mp h
    obtain ⟨s2, hs2, h⟩ := bind_eq_ok.mp h
    cases h
    exact (((srcPair_fetched hab).inv hs).deliver (hop _ _ _) hm hs2).advance

/-- The three-operand form on a floating-point destination. -/
theorem threeFlt_nextInv {op : Ext → Ext → Effect Ext} {x y : Src3 FReg} {dst : FReg} {s : State} {m : Word}
    (hs : s.Inv) (hop : ∀ a b, FlagsWithin m (op a b).flags) (hm : m &&& ~~~stMask = 0#32 := by decide) :
    NextInv (outcome s (threeFlt op x y dst s)) :=
  outcome_nextInv hs fun t h => by
    obtain ⟨⟨a, b, s1⟩, hab, h⟩ := bind_eq_ok.mp h
    cases h
    exact (((srcPair_fetched hab).inv hs).deliverFlt dst (hop _ _) hm).advance

/-- One register, read and written. -/
theorem oneInt_nextInv {op : Word → Word → Effect Word} {dst : Reg} {s : State} {m : Word} (hs : s.Inv)
    (hop : ∀ st x, FlagsWithin m (op st x).flags) (hm : m &&& ~~~stMask = 0#32 := by decide) :
    NextInv (outcome s (oneInt op dst s)) :=
  outcome_nextInv hs fun t h => by
    obtain ⟨s1, hs1, h⟩ := bind_eq_ok.mp h
    cases h
    exact (hs.deliver (hop _ _) hm hs1).advance

/-- An operation with a parallel store. -/
theorem withStore_nextInv {op : Word → State → Word × (State → State)} {dst2 src2 : Ind Unit} {s : State} (hs : s.Inv)
    (hop : ∀ w u v, v.Inv → ((op w u).2 v).Inv) : NextInv (outcome s (withStore op dst2 src2 s)) :=
  outcome_nextInv hs fun t h => by
    obtain ⟨⟨a1, a2, s1⟩, ha, h⟩ := bind_eq_ok.mp h
    obtain ⟨⟨w, s2⟩, hw, h⟩ := bind_eq_ok.mp h
    obtain ⟨s3, hs3, h⟩ := bind_eq_ok.mp h
    cases h
    have read : s2.Inv := (readOperand_work hw).inv (hs.indirectPair ha)
    exact (hop w s2 s3 ((storeLater_work hs3).inv read)).advance

theorem intSti_nextInv {op : Word → State → Effect Word} {dst1 src3 : FReg} {dst2 src2 : Ind Unit} {s : State} {m : Word}
    (hs : s.Inv) (hop : ∀ w t, FlagsWithin m (op w t).flags) (hm : m &&& ~~~stMask = 0#32 := by decide) :
    NextInv (outcome s (intSti op dst1 src3 dst2 src2 s)) :=
  withStore_nextInv hs fun w u _ hv => hv.deliverInt dst1 (hop w u) hm

theorem fltStf_nextInv {op : Ext → State → Effect Ext} {dst1 src3 : FReg} {dst2 src2 : Ind Unit} {s : State} {m : Word}
    (hs : s.Inv) (hop : ∀ x t, FlagsWithin m (op x t).flags) (hm : m &&& ~~~stMask = 0#32 := by decide) :
    NextInv (outcome s (fltStf op dst1 src3 dst2 src2 s)) :=
  withStore_nextInv hs fun w u _ hv => hv.deliverFlt dst1 (hop (fload w) u) hm

/-- The two loads of a parallel multiply. -/
theorem parallelReads_inv {s s1 s2 : State} (hs : s.Inv) {hi lo : Ind Unit} {a b : Addr} {x y : Word}
    (ha : indirectPair hi lo s = .ok (a, b, s1)) (hm : loadMul a b s1 = .ok (x, y, s2)) : s2.Inv :=
  ((Fetched.refl s1).loadMul hm).inv (hs.indirectPair ha)

theorem parallelFlt_nextInv {add : Ext → Ext → FResult} {p : BitVec 2} {d1 d2 : BitVec 1} {src1 src2 : FReg}
    {src3 src4 : Ind Unit} {s : State} (hs : s.Inv) :
    NextInv (outcome s (parallelFlt add p d1 d2 src1 src2 src3 src4 s)) :=
  outcome_nextInv hs fun t h => by
    obtain ⟨⟨a3, a4, s1⟩, ha, h⟩ := bind_eq_ok.mp h
    obtain ⟨⟨m3, m4, s2⟩, hm, h⟩ := bind_eq_ok.mp h
    cases h
    exact ((((parallelReads_inv hs ha hm).writeExt _ _).writeExt _ _).applyFlags flagsWithin_opFlags (by decide)).advance

theorem parallelInt_nextInv {add : Int → Int → Int} {p : BitVec 2} {d1 d2 : BitVec 1} {src1 src2 : FReg}
    {src3 src4 : Ind Unit} {s : State} (hs : s.Inv) :
    NextInv (outcome s (parallelInt add p d1 d2 src1 src2 src3 src4 s)) :=
  outcome_nextInv hs fun t h => by
    obtain ⟨⟨a3, a4, s1⟩, ha, h⟩ := bind_eq_ok.mp h
    obtain ⟨⟨m3, m4, s2⟩, hm, h⟩ := bind_eq_ok.mp h
    cases h
    exact ((((parallelReads_inv hs ha hm).writeInt _ _).writeInt _ _).applyFlags flagsWithin_opFlags (by decide)).advance

/-! ## Compares, conversions and conditional loads -/

/-- An instruction that reads an integer or logical source and then finishes. -/
theorem srcWord_nextInv {ext : BitVec 16 → Word} {x : Src Reg} {s : State} {f : Word × State → Except Stop State}
    (hs : s.Inv) (hf : ∀ w u, u.Inv → OkInv (f (w, u))) : NextInv (outcome s (srcWord ext x s >>= f)) :=
  outcome_nextInv hs (okInv_bind fun a ha => hf a.1 a.2 ((srcWord_fetched ha).inv hs))

/-- An instruction that reads a floating-point source and then finishes. -/
theorem srcExt_nextInv {mem : Word → Ext} {imm : BitVec 16 → Ext} {x : Src FReg} {s : State}
    {f : Ext × State → Except Stop State} (hs : s.Inv) (hf : ∀ v u, u.Inv → OkInv (f (v, u))) :
    NextInv (outcome s (srcExt mem imm x s >>= f)) :=
  outcome_nextInv hs (okInv_bind fun a ha => hf a.1 a.2 ((srcExt_fetched ha).inv hs))

/-- An instruction that reads two three-operand sources and then finishes. -/
theorem srcPair_nextInv {ρ α : Type} {reg : ρ → State → α} {mem : Word → α} {p q : Src3 ρ} {s : State}
    {f : α × α × State → Except Stop State} (hs : s.Inv) (hf : ∀ a b u, u.Inv → OkInv (f (a, b, u))) :
    NextInv (outcome s (srcPair reg mem p q s >>= f)) :=
  outcome_nextInv hs (okInv_bind fun a ha => hf a.1 a.2.1 a.2.2 ((srcPair_fetched ha).inv hs))

/-- The last step of an instruction: the PC moves on. -/
theorem advance_okInv {x : Except Stop State} (hx : OkInv x) : OkInv (x >>= fun t => pure (advance t)) :=
  okInv_bind fun t ht => okInv_ok (hx t ht).advance

theorem deliver_okInv {s : State} (hs : s.Inv) {dst : Reg} {e : Effect Word} {m : Word} (he : FlagsWithin m e.flags)
    (hm : m &&& ~~~stMask = 0#32 := by decide) : OkInv (deliver dst e s) := fun _ h => hs.deliver he hm h

theorem execFix_nextInv {src : Src FReg} {dst : Reg} {s : State} (hs : s.Inv) : NextInv (execFix src dst s) :=
  srcExt_nextInv hs fun _ _ hu => advance_okInv (deliver_okInv hu flagsWithin_fix)

theorem execSubc_nextInv {src : Src Reg} {dst : Reg} {s : State} (hs : s.Inv) : NextInv (execSubc src dst s) :=
  srcWord_nextInv hs fun _ _ hu => advance_okInv fun _ h => hu.writeReg h

theorem execLdiCond_nextInv {c : Cond} {src : Src Reg} {dst : Reg} {s : State} (hs : s.Inv) :
    NextInv (execLdiCond c src dst s) := by
  refine srcWord_nextInv hs fun _ u hu => ?_
  dsimp only
  split
  · exact advance_okInv fun _ h => hu.writeReg h
  · exact advance_okInv (okInv_ok hu)

theorem execLdfCond_nextInv {c : Cond} {src : Src FReg} {dst : FReg} {s : State} (hs : s.Inv) :
    NextInv (execLdfCond c src dst s) :=
  srcExt_nextInv hs fun _ _ hu => okInv_ok <| by
    split
    · exact (hu.writeExt _ _).advance
    · exact hu.advance

/-! ## Stores and the stack -/

theorem execStf_nextInv {src : FReg} {dst : MemOp} {s : State} (hs : s.Inv) : NextInv (execStf src dst s) :=
  outcome_nextInv hs (okInv_bind fun _ ha => advance_okInv (store_okInv (hs.memAddr ha)))

theorem execSti_nextInv {src : Reg} {dst : MemOp} {s : State} (hs : s.Inv) : NextInv (execSti src dst s) :=
  outcome_nextInv hs (okInv_bind fun _ ha => advance_okInv (store_okInv (hs.memAddr ha)))

theorem execPush_nextInv {src : Reg} {s : State} (hs : s.Inv) : NextInv (execPush src s) :=
  outcome_nextInv hs (advance_okInv (push_okInv hs))

theorem execPushf_nextInv {src : FReg} {s : State} (hs : s.Inv) : NextInv (execPushf src s) :=
  outcome_nextInv hs (advance_okInv (push_okInv hs))

theorem execPop_nextInv {dst : Reg} {s : State} (hs : s.Inv) : NextInv (execPop dst s) :=
  outcome_nextInv hs (okInv_bind fun _ hp => advance_okInv (deliver_okInv (hs.pop hp) flagsWithin_logic))

theorem execPopf_nextInv {dst : FReg} {s : State} (hs : s.Inv) : NextInv (execPopf dst s) :=
  outcome_nextInv hs (okInv_bind fun _ hp => okInv_ok ((hs.pop hp).deliverFlt dst flagsWithin_ldf (by decide)).advance)

theorem twoStores_nextInv {v1 v2 : Word} {dst1 dst2 : Ind Unit} {s : State} (hs : s.Inv) :
    NextInv (outcome s (twoStores v1 v2 dst1 dst2 s)) :=
  outcome_nextInv hs fun t h => by
    obtain ⟨⟨a1, a2, s1⟩, ha, h⟩ := bind_eq_ok.mp h
    obtain ⟨s2, hs2, h⟩ := bind_eq_ok.mp h
    obtain ⟨s3, hs3, h⟩ := bind_eq_ok.mp h
    cases h
    have first : s2.Inv := storeWith_okInv (hs.indirectPair ha) s2 hs2
    have second : s3.Inv := (storeSecond_work hs3).inv first
    exact second.congr rfl

/-- Two parallel loads, before their destinations are written. -/
theorem twoLoads_inv {s s1 s2 : State} (hs : s.Inv) {hi lo : Ind Unit} {a b : Addr} {x y : Word}
    (ha : indirectPair hi lo s = .ok (a, b, s1)) (hm : loadPair a b s1 = .ok (x, y, s2)) : s2.Inv :=
  ((Fetched.refl s1).loadPair hm).inv (hs.indirectPair ha)

theorem execLdfLdf_nextInv {dst2 dst1 : FReg} {src1 src2 : Ind Unit} {s : State} (hs : s.Inv) :
    NextInv (execLdfLdf dst2 dst1 src1 src2 s) :=
  outcome_nextInv hs (okInv_bind fun _ ha => okInv_bind fun _ hm =>
    okInv_ok (((twoLoads_inv hs ha hm).writeExt _ _).writeExt _ _).advance)

theorem execLdiLdi_nextInv {dst2 dst1 : FReg} {src1 src2 : Ind Unit} {s : State} (hs : s.Inv) :
    NextInv (execLdiLdi dst2 dst1 src1 src2 s) :=
  outcome_nextInv hs (okInv_bind fun _ ha => okInv_bind fun _ hm =>
    okInv_ok (((twoLoads_inv hs ha hm).writeInt _ _).writeInt _ _).advance)

/-! ## Program control -/

theorem State.Inv.branchIf {s : State} (hs : s.Inv) (taken : Bool) (target : Addr) : (branchIf taken target s).Inv := by
  unfold Machine.branchIf
  split <;> exact hs.congr rfl

/-- A delayed branch has three slots to run (R447). -/
theorem State.Inv.delayBranch {s : State} (hs : s.Inv) (taken : Bool) (target : Addr) :
    (delayBranch taken target s).Inv :=
  hs.advance.withDelay fun d hd => by
    obtain rfl := Option.some.inj hd
    exact ⟨Nat.le_add_left 1 2, Nat.le_refl 3⟩

theorem State.Inv.writeArAddr {s : State} (hs : s.Inv) (n : BitVec 3) (a : Addr) : (writeArAddr n a s).Inv := hs.congr rfl

theorem callTo_okInv {s : State} (hs : s.Inv) {target : State → Addr} : OkInv (callTo target s) :=
  okInv_bind fun u hu => okInv_ok ((push_okInv hs u hu).congr rfl)

theorem execCallCond_nextInv {c : Cond} {t : Target} {s : State} (hs : s.Inv) : NextInv (execCallCond c t s) :=
  outcome_nextInv hs <| by
    split
    · exact callTo_okInv hs
    · exact okInv_ok hs.advance

theorem execRptb_nextInv {target : Addr} {s : State} (hs : s.Inv) : NextInv (execRptb target s) :=
  nextInv_next ((hs.advance.setRm true).congr rfl)

theorem execRpts_nextInv {src : Src Reg} {s : State} (hs : s.Inv) : NextInv (execRpts src s) :=
  srcWord_nextInv hs fun _ _ hu => okInv_ok ((hu.advance.setRm true).congr rfl)

theorem State.Inv.falseTrap {s : State} (hs : s.Inv) : (falseTrap s).Inv := by
  unfold Machine.falseTrap
  split
  · exact hs.setGie _
  · exact hs

theorem execTrapCond_nextInv {c : Cond} {n : BitVec 5} {s : State} (hs : s.Inv) : NextInv (execTrapCond c n s) :=
  outcome_nextInv hs <| by
    split
    · exact enterException_okInv hs
    · exact okInv_ok hs.falseTrap.advance

theorem execRetiCond_nextInv {c : Cond} {s : State} (hs : s.Inv) : NextInv (execRetiCond c s) :=
  outcome_nextInv hs <| by
    split
    · exact returnFromException_okInv hs
    · exact okInv_ok hs.advance

theorem execRetsCond_nextInv {c : Cond} {s : State} (hs : s.Inv) : NextInv (execRetsCond c s) :=
  outcome_nextInv hs <| by
    split
    · exact popPc_okInv hs
    · exact okInv_ok hs.advance

theorem State.Inv.goIdle {s : State} (hs : s.Inv) (i : Idle) : (goIdle i s).Inv := (hs.advance.setGie true).congr rfl

/-- An instruction of the LC31 alone. -/
theorem lc31_nextInv {s t : State} (ht : t.Inv) :
    NextInv (if s.device = .lc31 then .next t else .refused .lowPowerAbsent) := by
  split
  · exact nextInv_next ht
  · exact nextInv_refused _

theorem State.Inv.withIack {s : State} (hs : s.Inv) (x : Option TimedAddr) : { s with iack := x }.Inv := hs.congr rfl

theorem execIack_nextInv {src : MemOp} {s : State} (hs : s.Inv) : NextInv (execIack src s) := by
  unfold execIack
  split
  · exact stop_nextInv hs _
  · next ha =>
    split
    · next hload => exact nextInv_next (((load_work hload).inv (hs.memAddr ha)).congr rfl)
    · exact stop_nextInv (hs.withIack _) _
    · exact stop_nextInv hs _
    · exact stop_nextInv hs _

theorem execNop_nextInv {src : NopOp} {s : State} (hs : s.Inv) : NextInv (execNop src s) := by
  cases src with
  | none => exact nextInv_next hs.advance
  | ind i => exact outcome_nextInv hs (okInv_bind fun _ hm => okInv_ok ((memSrc_fetched hm).inv hs).advance)

/-! ## Interlocked instructions -/

theorem State.Inv.closeRead {s : State} (hs : s.Inv) (p : PortName) (n : Nat) : (closeRead p n s).Inv := by
  cases p <;> exact hs.congr rfl

/-- A cycle of an interlocked read sets XF0 and the account of its wait (R501). -/
theorem State.Inv.lockedCycle {s t : State} (hs : s.Inv) {p : PortName} {a : Addr} {age : Nat} {o : Option Word}
    (h : lockedCycle p a age s = (o, t)) : t.Inv := by
  unfold Machine.lockedCycle at h
  dsimp only at h
  split at h
  · cases h
    exact ((hs.latchXf0 false).closeRead p _).congr rfl
  · cases h
    exact (hs.setXf0 false).congr rfl

theorem State.Inv.lockedRead {s t : State} (hs : s.Inv) {p : PortName} {a : Addr} {o : Option Word}
    (h : lockedRead p a s = .ok (o, t)) : t.Inv := by
  unfold Machine.lockedRead at h
  split at h
  · exact hs.lockedCycle (Except.ok.inj h)
  · obtain ⟨n, -, h⟩ := bind_eq_ok.mp h
    split at h
    · cases h
    · have begun : ∀ c, (beginRead p c s).Inv := fun c => (unitsWork_load (loadPart_beginRead p c s)).inv hs
      have opened : ∀ c, { beginRead p c s with lockReady := false }.Inv := fun c => (begun c).congr rfl
      dsimp only [pure_eq_ok] at h
      split at h
      · exact (opened _).lockedCycle (Except.ok.inj h)
      · cases h
        exact (begun _).congr rfl

theorem State.Inv.lockedPeripheral {s t : State} (hs : s.Inv) {a : Addr} {o : Option Word}
    (h : lockedPeripheral a s = .ok (o, t)) : t.Inv := by
  obtain ⟨n, -, h⟩ := bind_eq_ok.mp h
  split at h
  · cases h
  split at h
  · obtain ⟨⟨w, s1⟩, hload, h⟩ := bind_eq_ok.mp h
    cases h
    exact ((hs.latchXf0 false).loadFor hload).congr rfl
  · cases h
    have waits : (waitForXf1 s).Inv := (hs.setXf0 false).congr rfl
    exact (unitsWork_load (loadPart_noteOnChip ..)).inv waits

theorem State.Inv.lockedLoad {s t : State} (hs : s.Inv) {a : Addr} {o : Option Word}
    (h : lockedLoad a s = .ok (o, t)) : t.Inv := by
  unfold Machine.lockedLoad at h
  split at h
  · exact hs.lockedRead h
  · exact hs.lockedPeripheral h

/-- An interlocked load, whatever its destination does. -/
theorem interlockedLoad_nextInv {src : MemOp} {fin : Word → State → Except Stop State} {s : State} (hs : s.Inv)
    (hfin : ∀ w u, u.Inv → OkInv (fin w u)) : NextInv (outcome s (interlockedLoad src fin s)) :=
  outcome_nextInv hs <| okInv_bind fun ⟨a, s1⟩ ha => by
    have addressed : s1.Inv := hs.memAddr ha
    dsimp only
    split
    · split
      · exact okInv_error _
      · refine okInv_bind fun ⟨o, t⟩ ho => ?_
        have read : t.Inv := hs.lockedLoad ho
        cases o with
        | none => exact okInv_ok read
        | some w =>
          intro v hv
          obtain ⟨u, hu, rfl⟩ := map_eq_ok.mp hv
          exact (hfin w { t with ar := s1.ar } (read.congr rfl) u hu).advance
    · exact okInv_bind fun _ hw => advance_okInv (hfin _ _ ((load_work hw).inv addressed))

theorem interlockedStore_nextInv {dst : MemOp} {word : State → Word} {s : State} (hs : s.Inv) :
    NextInv (outcome s (interlockedStore dst word s)) :=
  outcome_nextInv hs <| okInv_bind fun ⟨a, s1⟩ ha => by
    have addressed : s1.Inv := hs.memAddr ha
    dsimp only
    split
    · split
      · exact okInv_error _
      · split
        · next s2 hstore => exact okInv_ok ((store_okInv (addressed.latchXf0 true) s2 hstore).congr rfl)
        · exact okInv_error _
        · exact okInv_error _
    · exact advance_okInv (store_okInv addressed)

theorem execSigi_nextInv {s : State} (hs : s.Inv) : NextInv (execSigi s) := by
  unfold execSigi
  split
  · exact nextInv_refused _
  split
  · exact nextInv_next ((hs.setXf0 true).congr rfl)
  split
  · exact nextInv_next ((hs.setXf0 false).congr rfl)
  · exact nextInv_next ((hs.setXf0 false).congr rfl)

/-! ## Every instruction -/

/-- The next state of every instruction has the invariant, where the state it runs at has it. -/
theorem exec_nextInv {s : State} (hs : s.Inv) (i : Instr) : NextInv (exec i s) := by
  cases i with
  -- two-operand integer and logical instructions
  | absi => exact twoInt_nextInv hs srcWord_fetched fun _ _ _ => flagsWithin_abs
  | addc => exact twoInt_nextInv hs srcWord_fetched fun _ _ _ => flagsWithin_add
  | addi => exact twoInt_nextInv hs srcWord_fetched fun _ _ _ => flagsWithin_add
  | and => exact twoInt_nextInv hs srcWord_fetched fun _ _ _ => flagsWithin_logic
  | andn => exact twoInt_nextInv hs srcWord_fetched fun _ _ _ => flagsWithin_logic
  | ash => exact twoInt_nextInv hs srcWord_fetched fun _ _ _ => flagsWithin_ash
  | ldi => exact twoInt_nextInv hs srcWord_fetched fun _ _ _ => flagsWithin_logic
  | lsh => exact twoInt_nextInv hs srcWord_fetched fun _ _ _ => flagsWithin_lsh
  | mpyi => exact twoInt_nextInv hs srcWord_fetched fun _ _ _ => flagsWithin_mpy
  | negb => exact twoInt_nextInv hs srcWord_fetched fun _ _ _ => flagsWithin_sub
  | negi => exact twoInt_nextInv hs srcWord_fetched fun _ _ _ => flagsWithin_sub
  | not => exact twoInt_nextInv hs srcWord_fetched fun _ _ _ => flagsWithin_logic
  | or => exact twoInt_nextInv hs srcWord_fetched fun _ _ _ => flagsWithin_logic
  | subb => exact twoInt_nextInv hs srcWord_fetched fun _ _ _ => flagsWithin_sub
  | subi => exact twoInt_nextInv hs srcWord_fetched fun _ _ _ => flagsWithin_sub
  | subrb => exact twoInt_nextInv hs srcWord_fetched fun _ _ _ => flagsWithin_sub
  | subri => exact twoInt_nextInv hs srcWord_fetched fun _ _ _ => flagsWithin_sub
  | xor => exact twoInt_nextInv hs srcWord_fetched fun _ _ _ => flagsWithin_logic
  | cmpi => exact srcWord_nextInv hs fun _ _ hu => okInv_ok (hu.applyFlags flagsWithin_cmp (by decide)).advance
  | tstb => exact srcWord_nextInv hs fun _ _ hu => okInv_ok (hu.applyFlags flagsWithin_logicFlags (by decide)).advance
  | subc => exact execSubc_nextInv hs
  | ldiCond => exact execLdiCond_nextInv hs
  | ldp => exact outcome_nextInv hs (advance_okInv (deliver_okInv hs flagsWithin_logic))
  | rol => exact oneInt_nextInv hs fun _ _ => flagsWithin_logicC
  | rolc => exact oneInt_nextInv hs fun _ _ => flagsWithin_logicC
  | ror => exact oneInt_nextInv hs fun _ _ => flagsWithin_logicC
  | rorc => exact oneInt_nextInv hs fun _ _ => flagsWithin_logicC
  -- two-operand floating-point instructions, conversions
  | absf => exact twoFlt_nextInv hs fun _ _ => flagsWithin_absf
  | addf => exact twoFlt_nextInv hs fun _ _ => flagsWithin_float
  | ldf => exact twoFlt_nextInv hs fun _ _ => flagsWithin_ldf
  | mpyf => exact twoFlt_nextInv hs fun _ _ => flagsWithin_float
  | negf => exact twoFlt_nextInv hs fun _ _ => flagsWithin_float
  | norm => exact twoFlt_nextInv hs fun _ _ => flagsWithin_float
  | rnd => exact twoFlt_nextInv hs fun _ _ => flagsWithin_rnd
  | subf => exact twoFlt_nextInv hs fun _ _ => flagsWithin_float
  | subrf => exact twoFlt_nextInv hs fun _ _ => flagsWithin_float
  | cmpf => exact srcExt_nextInv hs fun _ _ hu => okInv_ok (hu.applyFlags flagsWithin_floatFlags (by decide)).advance
  | fix => exact execFix_nextInv hs
  | float => exact srcWord_nextInv hs fun _ _ hu => okInv_ok (hu.deliverFlt _ flagsWithin_float (by decide)).advance
  | lde => exact srcExt_nextInv hs fun _ _ hu => okInv_ok (hu.writeExt _ _).advance
  | ldm => exact srcExt_nextInv hs fun _ _ hu => okInv_ok (hu.writeInt _ _).advance
  | ldfCond => exact execLdfCond_nextInv hs
  -- three-operand instructions
  | addc3 => exact threeInt_nextInv hs fun _ _ _ => flagsWithin_add
  | addi3 => exact threeInt_nextInv hs fun _ _ _ => flagsWithin_add
  | and3 => exact threeInt_nextInv hs fun _ _ _ => flagsWithin_logic
  | andn3 => exact threeInt_nextInv hs fun _ _ _ => flagsWithin_logic
  | ash3 => exact threeInt_nextInv hs fun _ _ _ => flagsWithin_ash
  | lsh3 => exact threeInt_nextInv hs fun _ _ _ => flagsWithin_lsh
  | mpyi3 => exact threeInt_nextInv hs fun _ _ _ => flagsWithin_mpy
  | or3 => exact threeInt_nextInv hs fun _ _ _ => flagsWithin_logic
  | subb3 => exact threeInt_nextInv hs fun _ _ _ => flagsWithin_sub
  | subi3 => exact threeInt_nextInv hs fun _ _ _ => flagsWithin_sub
  | xor3 => exact threeInt_nextInv hs fun _ _ _ => flagsWithin_logic
  | addf3 => exact threeFlt_nextInv hs fun _ _ => flagsWithin_float
  | mpyf3 => exact threeFlt_nextInv hs fun _ _ => flagsWithin_float
  | subf3 => exact threeFlt_nextInv hs fun _ _ => flagsWithin_float
  | cmpf3 => exact srcPair_nextInv hs fun _ _ _ hu => okInv_ok (hu.applyFlags flagsWithin_floatFlags (by decide)).advance
  | cmpi3 => exact srcPair_nextInv hs fun _ _ _ hu => okInv_ok (hu.applyFlags flagsWithin_cmp (by decide)).advance
  | tstb3 => exact srcPair_nextInv hs fun _ _ _ hu => okInv_ok (hu.applyFlags flagsWithin_logicFlags (by decide)).advance
  -- stores, the stack, interlocked instructions
  | stf => exact execStf_nextInv hs
  | sti => exact execSti_nextInv hs
  | push => exact execPush_nextInv hs
  | pushf => exact execPushf_nextInv hs
  | pop => exact execPop_nextInv hs
  | popf => exact execPopf_nextInv hs
  | ldfi => exact interlockedLoad_nextInv hs fun _ _ hu => okInv_ok (hu.deliverFlt _ flagsWithin_ldf (by decide))
  | ldii => exact interlockedLoad_nextInv hs fun _ _ hu => deliver_okInv hu flagsWithin_logic
  | stfi => exact interlockedStore_nextInv hs
  | stii => exact interlockedStore_nextInv hs
  | sigi => exact execSigi_nextInv hs
  -- program control
  | rpts => exact execRpts_nextInv hs
  | rptb => exact execRptb_nextInv hs
  | iack => exact execIack_nextInv hs
  | nop => exact execNop_nextInv hs
  | idle => exact nextInv_next (hs.goIdle _)
  | idle2 => exact lc31_nextInv (hs.goIdle _)
  | maxspeed => exact lc31_nextInv (hs.congr rfl)
  | lopower => exact lc31_nextInv (hs.congr rfl)
  | swi => exact nextInv_refused _
  | br => exact nextInv_next (hs.congr rfl)
  | brd => exact nextInv_next (hs.delayBranch _ _)
  | call => exact outcome_nextInv hs (callTo_okInv hs)
  | bCond => exact nextInv_next (hs.branchIf _ _)
  | bCondD => exact nextInv_next (hs.delayBranch _ _)
  | dbCond => exact nextInv_next ((hs.writeArAddr _ _).branchIf _ _)
  | dbCondD => exact nextInv_next ((hs.writeArAddr _ _).delayBranch _ _)
  | callCond => exact execCallCond_nextInv hs
  | trapCond => exact execTrapCond_nextInv hs
  | retiCond => exact execRetiCond_nextInv hs
  | retsCond => exact execRetsCond_nextInv hs
  -- parallel instructions
  | mpyf3_addf3 => exact parallelFlt_nextInv hs
  | mpyf3_subf3 => exact parallelFlt_nextInv hs
  | mpyi3_addi3 => exact parallelInt_nextInv hs
  | mpyi3_subi3 => exact parallelInt_nextInv hs
  | stf_stf => exact twoStores_nextInv hs
  | sti_sti => exact twoStores_nextInv hs
  | ldf_ldf => exact execLdfLdf_nextInv hs
  | ldi_ldi => exact execLdiLdi_nextInv hs
  | absf_stf => exact fltStf_nextInv hs fun _ _ => flagsWithin_absf
  | absi_sti => exact intSti_nextInv hs fun _ _ => flagsWithin_abs
  | addf3_stf => exact fltStf_nextInv hs fun _ _ => flagsWithin_float
  | addi3_sti => exact intSti_nextInv hs fun _ _ => flagsWithin_add
  | and3_sti => exact intSti_nextInv hs fun _ _ => flagsWithin_logic
  | ash3_sti => exact intSti_nextInv hs fun _ _ => flagsWithin_ash
  | fix_sti => exact intSti_nextInv hs fun _ _ => flagsWithin_fix
  | float_stf => exact withStore_nextInv hs fun _ _ _ hv => hv.deliverFlt _ flagsWithin_float (by decide)
  | ldf_stf => exact withStore_nextInv hs fun _ _ _ hv => hv.writeExt _ _
  | ldi_sti => exact withStore_nextInv hs fun _ _ _ hv => hv.writeInt _ _
  | lsh3_sti => exact intSti_nextInv hs fun _ _ => flagsWithin_lsh
  | mpyf3_stf => exact fltStf_nextInv hs fun _ _ => flagsWithin_float
  | mpyi3_sti => exact intSti_nextInv hs fun _ _ => flagsWithin_mpy
  | negf_stf => exact fltStf_nextInv hs fun _ _ => flagsWithin_float
  | negi_sti => exact intSti_nextInv hs fun _ _ => flagsWithin_sub
  | not_sti => exact intSti_nextInv hs fun _ _ => flagsWithin_logic
  | or3_sti => exact intSti_nextInv hs fun _ _ => flagsWithin_logic
  | subf3_stf => exact fltStf_nextInv hs fun _ _ => flagsWithin_float
  | subi3_sti => exact intSti_nextInv hs fun _ _ => flagsWithin_sub
  | xor3_sti => exact intSti_nextInv hs fun _ _ => flagsWithin_logic

end Sys2Proof.Machine
end

section
/-! The invariant, kept by every step: the bookkeeping around an instruction, interrupts, reset (R602). -/
namespace Sys2Proof.Machine

/-! ## After an instruction -/

theorem State.Inv.waiting {s : State} (hs : s.Inv) : (waiting s).Inv := hs.congr rfl

/-- The window of the repeat registers only closes with time (R833). -/
theorem State.Inv.account {s : State} (hs : s.Inv) (n : Nat) : (account n s).Inv :=
  (hs.withLoop (Nat.le_trans (Nat.sub_le s.loopLoad 1) hs.loop)).congr rfl

theorem State.Inv.flush {s : State} (hs : s.Inv) : (flush s).Inv := (hs.withLoop (Nat.zero_le 4)).congr rfl

theorem State.Inv.countPass {again s : State} (hagain : again.Inv) (hs : s.Inv) (a : Addr) (count rc : Word) :
    (countPass a count rc again s).Inv := by
  unfold Machine.countPass
  split
  · exact (hs.setRm false).congr rfl
  · exact hagain.congr rfl

theorem State.Inv.decrementRc {again s : State} (hagain : again.Inv) (hs : s.Inv) (a : Addr) :
    (decrementRc a again s).Inv := by
  unfold Machine.decrementRc
  split
  · exact hagain.countPass hs a _ _
  · split
    · exact hagain.countPass hs a _ _
    · exact hagain.countPass hs a _ _

/-- The repeat mode changes RC, RM, S and the PC (R642, R643). -/
theorem State.Inv.repeatUpdate {s : State} (hs : s.Inv) (f : Flow) (a : Addr) (w : Word) :
    (repeatUpdate f a w s).Inv := by
  have released : ∀ o p, { s with ir := o, pc := p }.Inv := fun _ _ => hs.congr rfl
  unfold Machine.repeatUpdate
  dsimp only
  split
  · exact released none s.pc
  split
  · split
    · exact (released (some w) a).decrementRc (released none s.pc) a
    split
    · exact (released none _).decrementRc (released none s.pc) a
    · exact released none s.pc
  · exact released none s.pc

/-- A pending branch comes one slot nearer, and is gone after its last (R447). -/
theorem State.Inv.delayUpdate {s : State} (hs : s.Inv) {o : Option Delayed}
    (ho : ∀ d, o = some d → 1 ≤ d.left ∧ d.left ≤ 3) : (delayUpdate o s).Inv := by
  unfold Machine.delayUpdate
  cases o with
  | none => exact hs
  | some d =>
    obtain ⟨-, hmost⟩ := ho d rfl
    dsimp only
    split
    · exact (hs.withDelay (o := none) nofun).congr rfl
    · refine hs.withDelay fun d' hd' => ?_
      obtain rfl := Option.some.inj hd'
      dsimp only
      omega

/-- A completed instruction, with its repeat mode, delayed branch and account (R602 steps 6 and 7). -/
theorem State.Inv.complete {s t : State} (hs : s.Inv) (ht : t.Inv) (f : Flow) (w : Word) : (complete f w s t).Inv := by
  have updated : (Machine.delayUpdate s.delay (Machine.repeatUpdate f s.pc w t)).Inv :=
    (ht.repeatUpdate f s.pc w).delayUpdate hs.delay
  unfold Machine.complete
  dsimp only
  split
  · exact (updated.flush.account (figure f)).congr rfl
  · exact (updated.account (figure f)).congr rfl

theorem State.Inv.retire {s t : State} (hs : s.Inv) (ht : t.Inv) (f : Flow) (w : Word) : (retire f w s t).Inv := by
  unfold Machine.retire
  split
  · exact ht.waiting.congr rfl
  · exact hs.complete ht f w

/-! ## One instruction -/

theorem State.Inv.ready {s : State} (hs : s.Inv) : (ready s).Inv := hs.congr rfl

/-- A computation that completes or waits (R93). -/
theorem conclude_nextInv {s : State} (hs : s.Inv) {x : Except Stop State} (hx : OkInv x) : NextInv (conclude s x) :=
  fun t h => by
    rcases conclude_eq_next.mp h with h | ⟨e, u, -, hu, rfl⟩
    · exact hx t h
    · exact (stop_nextInv hs.ready e u hu).waiting

/-- A fetch keeps the invariant. -/
theorem State.Inv.fetch {s t : State} (hs : s.Inv) {w : Word} (h : fetch s = .ok (w, t)) : t.Inv :=
  hs.congr (congrArg invPart (fetch_keeps h) :)

/-- Fetch, decode and run. -/
theorem instruction_nextInv {s : State} (hs : s.Inv) : NextInv (instruction s) := fun t h => by
  rcases instruction_eq_next h with ⟨w, u, i, hfetch, -, -, v, hexec, rfl⟩ | ⟨e, u, hstop, rfl⟩
  · have fetched : u.Inv := hs.ready.fetch hfetch
    exact fetched.retire (exec_nextInv fetched i v hexec) (flowOf i) w
  · exact (stop_nextInv hs.ready e u hstop).waiting

/-! ## Interrupts -/

theorem takeInterrupt_okInv {s : State} (hs : s.Inv) (i : Nat) : OkInv (takeInterrupt i s) := by
  have taken : { s with ifr := setBit s.ifr i false, idle := .running }.Inv :=
    ⟨hs.mem, hs.st, hs.ie, cleared_masked i hs.ifr, hs.iof, hs.primary, hs.expansion, hs.delay, hs.loop⟩
  exact enterException_okInv ((unitsWork_noteAck i _).inv taken)

theorem enterInterrupt_okInv {s : State} (hs : s.Inv) (i : Nat) : OkInv (enterInterrupt i s) :=
  okInv_bind fun t ht => okInv_ok <| by
    have taken : t.Inv := takeInterrupt_okInv hs i t ht
    dsimp only
    split
    · exact ((taken.setGie _).flush.account 4).congr rfl
    · exact (taken.flush.account 4).congr rfl

theorem State.Inv.withWindow {s : State} (hs : s.Inv) (o : Option Recognised) : { s with intWindow := o }.Inv :=
  hs.congr rfl

theorem State.Inv.withWindowGie {s : State} (hs : s.Inv) (b : Bool) : { s with windowGie := b }.Inv := hs.congr rfl

theorem State.Inv.withEnv {s : State} (hs : s.Inv) (e : Env) : { s with env := e }.Inv := hs.congr rfl

theorem State.Inv.withAbandon {s : State} (hs : s.Inv) (b : Bool) : { s with abandon := b }.Inv := hs.congr rfl

theorem enterStep_nextInv {s : State} (hs : s.Inv) (i : Nat) : NextInv (enterStep i s) := by
  have entering := hs.withWindow (some { index := i, left := 0, entering := true })
  exact conclude_nextInv entering (enterInterrupt_okInv hs i)

theorem afterAbandoned_nextInv {x : Host.Outcome State Fault Refusal} (hx : NextInv x) (i : Nat) :
    NextInv (afterAbandoned i x) := by
  cases x with
  | next t =>
    have ht : t.Inv := hx t rfl
    unfold afterAbandoned
    dsimp only
    split
    · exact nextInv_next ht
    · exact enterStep_nextInv ht i
  | fault e => exact nextInv_fault e
  | refused r => exact nextInv_refused r

theorem enterHere_nextInv {s : State} (hs : s.Inv) (i : Nat) : NextInv (enterHere i s) := by
  unfold enterHere
  split
  · exact afterAbandoned_nextInv (instruction_nextInv (hs.withAbandon true)) i
  · exact enterStep_nextInv hs i

theorem windowStep_nextInv {s : State} (hs : s.Inv) (i left : Nat) : NextInv (windowStep i left s) := by
  have run := instruction_nextInv (hs.withWindow (some { index := i, left := left, entering := false }))
  unfold windowStep
  split
  · next t ht =>
    split
    · exact enterHere_nextInv hs i
    · exact nextInv_next (run t ht)
  · exact nextInv_fault _
  · exact nextInv_refused _

theorem recognise_nextInv {s : State} (hs : s.Inv) : NextInv (recognise s) := by
  unfold recognise
  dsimp only
  split
  · exact enterHere_nextInv hs _
  · exact enterHere_nextInv (hs.withEnv _) _
  · exact windowStep_nextInv (hs.withEnv _) _ _

theorem heldBack_nextInv {s : State} (hs : s.Inv) : NextInv (heldBack s) := by
  have unready : ∀ e, { s with env := e, windowGie := false }.Inv := fun _ => hs.congr rfl
  unfold heldBack
  split
  · exact instruction_nextInv (hs.withWindowGie false)
  · dsimp only
    split
    · exact instruction_nextInv (hs.withWindowGie false)
    split
    · exact windowStep_nextInv (hs.withEnv _) _ _
    · exact instruction_nextInv (unready _)

theorem unrecognised_nextInv {s : State} (hs : s.Inv) : NextInv (unrecognised s) := by
  unfold unrecognised
  split
  · exact instruction_nextInv (hs.withWindowGie false)
  split
  · exact recognise_nextInv hs
  · exact heldBack_nextInv hs

theorem recognised_nextInv {s : State} (hs : s.Inv) (p : Recognised) : NextInv (recognised p s) := by
  unfold recognised
  split
  · exact enterStep_nextInv hs p.index
  split
  · exact enterHere_nextInv hs p.index
  have forgotten : { s with intWindow := none, windowGie := false }.Inv := hs.congr rfl
  exact nextInv_ite (unrecognised_nextInv forgotten) (windowStep_nextInv hs p.index _)

/-! ## The CPU's part of a step -/

theorem State.Inv.idleCycle {s : State} (hs : s.Inv) : (idleCycle s).Inv := hs.congr rfl

theorem idling_nextInv {s : State} (hs : s.Inv) : NextInv (idling s) := by
  unfold idling
  split
  · exact nextInv_next hs.idleCycle
  split
  · exact enterStep_nextInv hs _
  split
  · exact enterStep_nextInv hs _
  · exact nextInv_next hs.idleCycle

theorem cpu_nextInv {s : State} (hs : s.Inv) : NextInv (cpu s) := by
  unfold cpu
  split
  · exact idling_nextInv hs
  split
  · exact recognised_nextInv hs _
  · exact unrecognised_nextInv hs

/-! ## Reset (R800 to R816) -/

/-- Free contents of the on-chip RAM are written word by word (D29). -/
theorem memWf_freeRam (s : State) : ∀ (n : Nat) {m : List Host.Cell}, MemWf m → MemWf (freeRam s n m)
  | 0, _, h => h
  | n + 1, _, h => memWf_freeRam s n (memWf_memWriteWord _ _ h)

/-- A write that RESET cuts off leaves the word it would have replaced, or its own (R815). -/
theorem memWf_inFlight (s : State) :
    ∀ (l : List BusCycle) (k : Nat) {m : List Host.Cell}, MemWf m → MemWf (inFlight s k l m)
  | [], _, _, h => h
  | c :: cs, k, m, h => by
    unfold inFlight
    split
    · split
      · exact memWf_inFlight s cs (k + 1) (memWf_memWriteWord c.addr c.old h)
      · exact h
    · exact memWf_inFlight s cs k h

theorem resetState_mem (s : State) : (resetState s).mem =
    freeRam s ramWords (inFlight s 400 s.expansion (inFlight s 200 s.primary s.mem)) := by simp only [resetState]

/-- Reset loads what the invariant asks for; only memory comes from before (R800 to R807). -/
theorem State.Inv.resetState {s : State} (hs : s.Inv) : (resetState s).Inv where
  mem := by
    rw [resetState_mem]
    exact memWf_freeRam s ramWords (memWf_inFlight s s.expansion 400 (memWf_inFlight s s.primary 200 hs.mem))
  st := by show 0#32 &&& ~~~stMask = 0#32; decide
  ie := by show 0#32 &&& ~~~ieMask = 0#32; decide
  ifr := by show 0#32 &&& ~~~ifMask = 0#32; decide
  iof := by show 0#32 &&& ~~~iofMask = 0#32; decide
  primary := by show 0x10F8#32 &&& ~~~primaryMask = 0#32; decide
  expansion := by show 0xF8#32 &&& ~~~expansionMask = 0#32; decide
  delay := nofun
  loop := Nat.zero_le 4

/-- A cycle with RESET low: what other masters write, and in the first one the reset itself. -/
theorem State.Inv.resetCycle {s : State} (hs : s.Inv) : (resetCycle s).Inv := by
  have timed : { s with elapsed := 0 }.Inv := hs.congr rfl
  have shared : (masterCycle { s with elapsed := 0 }).Inv := (masterCycle_work _).inv timed
  have loaded : (if s.resetLow = 0 then Machine.resetState (masterCycle { s with elapsed := 0 })
      else masterCycle { s with elapsed := 0 }).Inv := by
    split
    · exact shared.resetState
    · exact shared
  exact loaded.congr rfl

theorem State.Inv.boot {s : State} (hs : s.Inv) : (boot s).Inv := hs.congr rfl

theorem loadReset_okInv {s : State} (hs : s.Inv) : OkInv (loadReset s) := fun t h => by
  obtain ⟨⟨a, s1⟩, hvector, h⟩ := bind_eq_ok.mp h
  obtain ⟨⟨w, s2⟩, hload, hvector⟩ := bind_eq_ok.mp hvector
  cases hvector
  cases h
  exact (hs.loadFor hload).congr rfl

/-! ## The step -/

theorem machineStep_nextInv {s : State} (hs : s.Inv) : NextInv (machineStep s) := by
  unfold machineStep
  split
  · exact nextInv_next hs.resetCycle
  split
  · exact nextInv_refused _
  split
  · exact conclude_nextInv hs (okInv_error _)
  · next t ht =>
    have passed : t.Inv := (passTime_work ht).inv hs
    split
    · exact nextInv_next passed
    split
    · exact conclude_nextInv passed.boot (loadReset_okInv passed.boot)
    · exact cpu_nextInv passed

/-- Settles O7: reset, the passing of time, the CPU's part of the step, and in it every instruction keep the invariant. -/
theorem invStep : Obligations.InvStep := fun _ t hs h => machineStep_nextInv hs t h

end Sys2Proof.Machine
end

section
/-! What the integer instructions leave unchanged (O48): the frame of each step of an instruction, then of its shapes. -/
namespace Sys2Proof.Machine

/-! ## A frame without stores -/

/-- What an instruction that stores nothing keeps: memory, the units and the mode; registers outside `written` and ST
outside `mask`. -/
structure Kept (written : List Reg) (mask : Word) (s t : State) : Prop where
  regs : KeepsRegs (.st :: .ifr :: written) s t
  st : KeepsSt mask s t
  mem : t.mem = s.mem
  mode : KeepsMode s t
  units : KeepsUnits s t
  ifr : .ifr ∉ written → t.ifr = s.ifr

theorem Kept.refl (written : List Reg) (mask : Word) (s : State) : Kept written mask s s :=
  ⟨fun _ _ => rfl, rfl, rfl, ⟨rfl, rfl, rfl, rfl⟩, ⟨rfl, rfl, rfl, rfl, rfl, rfl, rfl, rfl⟩, fun _ => rfl⟩

/-- One step after another. -/
theorem Kept.trans {written : List Reg} {mask : Word} {s t u : State} (h : Kept written mask s t)
    (k : Kept written mask t u) : Kept written mask s u where
  regs q hq := (k.regs q hq).trans (h.regs q hq)
  st := k.st.trans h.st
  mem := k.mem.trans h.mem
  mode := by
    obtain ⟨h1, h2, h3, h4⟩ := h.mode
    obtain ⟨k1, k2, k3, k4⟩ := k.mode
    exact ⟨k1.trans h1, k2.trans h2, k3.trans h3, k4.trans h4⟩
  units := by
    obtain ⟨h1, h2, h3, h4, h5, h6, h7, h8⟩ := h.units
    obtain ⟨k1, k2, k3, k4, k5, k6, k7, k8⟩ := k.units
    exact ⟨k1.trans h1, k2.trans h2, k3.trans h3, k4.trans h4, k5.trans h5, k6.trans h6, k7.trans h7, k8.trans h8⟩
  ifr hq := (k.ifr hq).trans (h.ifr hq)

/-- A larger list of registers and a larger mask allow more. -/
theorem Kept.mono {written written' : List Reg} {mask mask' : Word} {s t : State} (h : Kept written mask s t)
    (hw : ∀ q ∈ written, q ∈ written') (hm : mask &&& ~~~mask' = 0#32) : Kept written' mask' s t where
  regs q hq := h.regs q fun hq' => hq <| by
    simp only [List.mem_cons] at hq' ⊢
    exact hq'.imp_right (·.imp_right (hw q))
  st := outside_mono h.st hm
  mem := h.mem
  mode := h.mode
  units := h.units
  ifr hq := h.ifr fun hq' => hq (hw _ hq')

/-! ## Steps of an instruction -/

section
variable {written : List Reg} {mask : Word}

theorem advance_kept (s : State) : Kept written mask s (advance s) where
  regs q _ := by cases q <;> rfl
  st := rfl
  mem := rfl
  mode := ⟨rfl, rfl, rfl, rfl⟩
  units := ⟨rfl, rfl, rfl, rfl, rfl, rfl, rfl, rfl⟩
  ifr _ := rfl

theorem applyFlags_kept {f : Word → Word} (hf : FlagsWithin mask f) (s : State) :
    Kept written mask s (applyFlags f s) where
  regs q hq := by
    cases q with
    | st => exact absurd List.mem_cons_self hq
    | _ => rfl
  st := hf s.st
  mem := rfl
  mode := ⟨rfl, rfl, rfl, rfl⟩
  units := ⟨rfl, rfl, rfl, rfl, rfl, rfl, rfl, rfl⟩
  ifr _ := rfl

theorem held_loadPart (q : Reg) (s : State) : held q (loadPart s) = held q s := by cases q <;> rfl

/-- A load keeps all registers, memory and the units. -/
theorem load_kept {s t : State} (h : loadPart t = loadPart s) : Kept written mask s t where
  regs q _ := (held_loadPart q t).symm.trans ((congrArg (held q) h).trans (held_loadPart q s))
  st := (congrArg (fun x => x.st &&& ~~~mask) h :)
  mem := (congrArg State.mem h :)
  mode := ⟨(congrArg State.idle h :), (congrArg State.lowPower h :), (congrArg State.delay h :), (congrArg State.repS h :)⟩
  units := ⟨(congrArg State.device h :), (congrArg State.rom h :), (congrArg State.pins h :), (congrArg State.timer0 h :),
    (congrArg State.timer1 h :), (congrArg State.dma h :), (congrArg State.primaryCtl h :),
    (congrArg State.expansionCtl h :)⟩
  ifr _ := (congrArg State.ifr h :)

/-- A machine that waits keeps all of it (R93). -/
theorem stop_kept {s t : State} {e : Stop} (h : stop s e = .next t) : Kept written mask s t := by
  have stalled : ∀ w, Kept written mask s { s with stalled := w } := fun w =>
    ⟨fun q _ => by cases q <;> rfl, rfl, rfl, ⟨rfl, rfl, rfl, rfl⟩, ⟨rfl, rfl, rfl, rfl, rfl, rfl, rfl, rfl⟩, fun _ => rfl⟩
  rcases stop_eq_next.mp h with ⟨w, -, rfl⟩ | ⟨p, c, -, rfl⟩
  · exact stalled (some w)
  · exact (stalled (some p.wait)).trans (load_kept (loadPart_addCycle c _ p))

/-- An auxiliary register of the list is written. -/
theorem writeAr_kept {n : BitVec 3} (hn : .ar n ∈ written) (v : Word) (s : State) : Kept written mask s (writeAr n v s) where
  regs q hq := writeAr_keepsRegs n v s q fun h => hq <| by
    rw [List.mem_singleton.mp h]
    exact List.mem_cons_of_mem _ (List.mem_cons_of_mem _ hn)
  st := rfl
  mem := rfl
  mode := ⟨rfl, rfl, rfl, rfl⟩
  units := ⟨rfl, rfl, rfl, rfl, rfl, rfl, rfl, rfl⟩
  ifr _ := rfl

end

/-- A write of a register: ST changes where it is the register written (R33). -/
theorem writeReg_kept {q : Reg} {v : Word} {s t : State} (h : writeReg q v s = .ok t) : Kept [q] (stBits q 0#32) s t where
  regs p hp := writeReg_keepsRegs h p fun hp' => hp (List.mem_cons_of_mem _ (List.mem_cons_of_mem _ hp'))
  st := by
    by_cases hq : q = .st
    · subst hq
      exact (BitVec.and_zero).trans (BitVec.and_zero).symm
    · have kept : held .st t = held .st s := writeReg_keepsRegs h .st fun hp => hq (List.mem_singleton.mp hp).symm
      have same : t.st = s.st := by simpa [held] using congrArg (·.setWidth 32) kept
      rw [KeepsSt, same]
  mem := writeReg_mem h
  mode := by
    obtain ⟨_, _, _, _, _, _, _, _, _, _, _, _, _, _, _, _, _, _, _, _, rfl⟩ := writeReg_changes h
    exact ⟨rfl, rfl, rfl, rfl⟩
  units := by
    obtain ⟨_, _, _, _, _, _, _, _, _, _, _, _, _, _, _, _, _, _, _, _, rfl⟩ := writeReg_changes h
    exact ⟨rfl, rfl, rfl, rfl, rfl, rfl, rfl, rfl⟩
  ifr hq := by
    have kept : held .ifr t = held .ifr s := writeReg_keepsRegs h .ifr hq
    simpa [held] using congrArg (·.setWidth 32) kept

/-- The bits of ST a destination lets change grow with the flags. -/
theorem stBits_mono (dst : Reg) {m m' : Word} (h : m &&& ~~~m' = 0#32) : stBits dst m &&& ~~~stBits dst m' = 0#32 := by
  unfold stBits
  split
  · decide
  split
  · exact h
  · decide

/-- A delivered result: its register, and the flags where it is one of R0-R7 (R40, R332). -/
theorem deliver_kept {dst : Reg} {e : Effect Word} {m : Word} {s t : State} (he : FlagsWithin m e.flags)
    (h : deliver dst e s = .ok t) : Kept [dst] (stBits dst m) s t := by
  obtain ⟨u, hu, rfl⟩ := deliver_cases h
  have wrote : Kept [dst] (stBits dst m) s u :=
    (writeReg_kept hu).mono (fun _ hq => hq) (stBits_mono dst BitVec.zero_and)
  split
  · next hf =>
    have notSt : dst ≠ .st := fun e => by rw [e] at hf; exact absurd hf (by decide)
    have bits : stBits dst m = m := by rw [stBits, if_neg notSt, if_pos hf]
    exact wrote.trans (bits.symm ▸ applyFlags_kept he u)
  · exact wrote

/-! ## Sources -/

/-- An indirect operand that gives its register a new value is one whose mode updates it (R251 to R262). -/
theorem generate_updates {δ : Type} {disp : δ → Addr} {i : Ind δ} {s : State} {g : Addr × Option Addr}
    (h : generate disp i s = .ok g) : g.2 = none ∨ .ar i.arCode ∈ i.updated := by
  cases i with
  | plain n => cases h; exact .inl rfl
  | bitrev n => exact .inr (List.mem_singleton.mpr rfl)
  | idx op step n =>
    cases op with
    | preAdd => cases h; exact .inl rfl
    | preSub => cases h; exact .inl rfl
    | _ => exact .inr (List.mem_singleton.mpr rfl)

/-- An indirect address: its auxiliary register is written where the mode updates it. -/
theorem indirect_kept {i : Ind (BitVec 8)} {s t : State} {a : Addr} (h : indirect i s = .ok (a, t)) :
    Kept i.updated 0#32 s t := by
  obtain ⟨⟨b, o⟩, hg, he⟩ := map_eq_ok.mp h
  cases he
  cases o with
  | none => exact .refl ..
  | some b =>
    have updated := (generate_updates hg).resolve_left nofun
    exact writeAr_kept updated _ s

/-- A word read through an indirect operand, where no DMA cycle falls before the read. -/
theorem memSrc_kept {i : Ind (BitVec 8)} {s t : State} {w : Word} (hd : s.env.dmaWithin = [])
    (h : memSrc (.ind i) s = .ok (w, t)) : Kept i.updated 0#32 s t := by
  obtain ⟨⟨a, u⟩, ha, hload⟩ := bind_eq_ok.mp h
  have addressed : Kept i.updated 0#32 s u := indirect_kept ha
  obtain ⟨v, rfl⟩ := memAddr_cases ha
  exact addressed.trans (load_kept (load_keeps (s := { s with ar := v }) hd hload))

/-- A source of the integer or logical kind. -/
theorem srcWord_kept {ext : BitVec 16 → Word} {x : Src Reg} {s t : State} {w : Word} (hd : s.env.dmaWithin = [])
    (h : srcWord ext x s = .ok (w, t)) : Kept x.updated 0#32 s t := by
  cases x with
  | reg r => cases h; exact .refl ..
  | dir a => exact load_kept (load_keeps hd h)
  | ind i => exact memSrc_kept hd h
  | imm v => cases h; exact .refl ..

/-- A source of a floating-point kind. -/
theorem srcExt_kept {mem : Word → Ext} {imm : BitVec 16 → Ext} {x : Src FReg} {s t : State} {v : Ext}
    (hd : s.env.dmaWithin = []) (h : srcExt mem imm x s = .ok (v, t)) : Kept x.updated 0#32 s t := by
  cases x with
  | reg r => cases h; exact .refl ..
  | dir a =>
    obtain ⟨⟨y, u⟩, hy, he⟩ := map_eq_ok.mp h
    cases he
    exact load_kept (load_keeps hd hy)
  | ind i =>
    obtain ⟨⟨y, u⟩, hy, he⟩ := map_eq_ok.mp h
    cases he
    exact memSrc_kept hd hy
  | imm v => cases h; exact .refl ..

/-- A source read, then a destination written. -/
theorem Kept.source_then_dst {upd : List Reg} {dst : Reg} {m : Word} {s t u : State} (h : Kept upd 0#32 s t)
    (k : Kept [dst] m t u) : Kept (dst :: upd) m s u :=
  (h.mono (fun _ hq => List.mem_cons_of_mem _ hq) BitVec.zero_and).trans
    (k.mono (fun _ hq => List.mem_singleton.mp hq ▸ List.mem_cons_self) (BitVec.and_not_self m))

/-! ## Shapes of instructions -/

/-- The frame of an instruction from what its completed computation keeps; one that waits keeps everything. -/
theorem frame_of_kept {i : Instr} {run : State → Except Stop State} {written : List Reg} {mask : Word}
    (hexec : ∀ s, exec i s = outcome s (run s))
    (hrun : ∀ {s t}, s.env.dmaWithin = [] → run s = .ok t → Kept written mask s t) : Frame i written mask nowhere := by
  intro s t hd h
  have kept : Kept written mask s t := by
    rcases outcome_eq_next.mp (hexec s ▸ h) with h | ⟨e, -, h⟩
    · exact hrun hd h
    · exact stop_kept h
  exact ⟨kept.regs, kept.st, fun k _ => by rw [kept.mem], kept.mode, fun _ => ⟨kept.units, kept.ifr⟩⟩

/-- The general form on an integer destination. -/
theorem twoInt_frame {i : Instr} {get : Src Reg → State → Except Stop (Word × State)}
    {op : Word → Word → Word → Effect Word} {src : Src Reg} {dst : Reg} {m : Word}
    (hexec : ∀ s, exec i s = outcome s (twoInt get op src dst s))
    (hget : ∀ {s t w}, s.env.dmaWithin = [] → get src s = .ok (w, t) → Kept src.updated 0#32 s t)
    (hop : ∀ st b d, FlagsWithin m (op st b d).flags) : Frame i (dst :: src.updated) (stBits dst m) nowhere :=
  frame_of_kept hexec fun hd h => by
    obtain ⟨⟨b, s1⟩, hb, h⟩ := bind_eq_ok.mp h
    obtain ⟨s2, hs2, h⟩ := bind_eq_ok.mp h
    cases h
    exact ((hget hd hb).source_then_dst (deliver_kept (hop _ _ _) hs2)).trans (advance_kept s2)

/-- One register, read and written. -/
theorem oneInt_frame {i : Instr} {op : Word → Word → Effect Word} {dst : Reg} {m : Word}
    (hexec : ∀ s, exec i s = outcome s (oneInt op dst s)) (hop : ∀ st x, FlagsWithin m (op st x).flags) :
    Frame i [dst] (stBits dst m) nowhere :=
  frame_of_kept hexec fun _ h => by
    obtain ⟨s1, hs1, h⟩ := bind_eq_ok.mp h
    cases h
    exact (deliver_kept (hop _ _) hs1).trans (advance_kept s1)

theorem fix_frame (src : Src FReg) (dst : Reg) :
    Frame (.fix src dst) (dst :: src.updated) (stBits dst flagsNotCLuf) nowhere :=
  frame_of_kept (fun _ => rfl) fun hd h => by
    obtain ⟨⟨b, s1⟩, hb, h⟩ := bind_eq_ok.mp h
    obtain ⟨s2, hs2, h⟩ := bind_eq_ok.mp h
    cases h
    exact ((srcExt_kept hd hb).source_then_dst (deliver_kept flagsWithin_fix hs2)).trans (advance_kept s2)

theorem subc_frame (src : Src Reg) (dst : Reg) :
    Frame (.subc src dst) (dst :: src.updated) (stBits dst 0#32) nowhere :=
  frame_of_kept (fun _ => rfl) fun hd h => by
    obtain ⟨⟨b, s1⟩, hb, h⟩ := bind_eq_ok.mp h
    obtain ⟨s2, hs2, h⟩ := bind_eq_ok.mp h
    cases h
    exact ((srcWord_kept hd hb).source_then_dst (writeReg_kept hs2)).trans (advance_kept s2)

/-- LDIcond reads its source in any case (R306). -/
theorem ldiCond_frame (c : Cond) (src : Src Reg) (dst : Reg) :
    Frame (.ldiCond c src dst) (dst :: src.updated) (stBits dst 0#32) nowhere :=
  frame_of_kept (fun _ => rfl) fun {s _} hd h => by
    obtain ⟨⟨b, s1⟩, hb, h⟩ := bind_eq_ok.mp h
    have read := srcWord_kept hd hb
    dsimp only at h
    by_cases hc : condHolds s.st c = true
    · rw [if_pos hc] at h
      obtain ⟨s2, hs2, h⟩ := bind_eq_ok.mp h
      cases h
      exact (read.source_then_dst (writeReg_kept hs2)).trans (advance_kept s2)
    · rw [if_neg hc] at h
      cases h
      exact (read.source_then_dst (.refl ..)).trans (advance_kept s1)

theorem ldp_frame (dst : Reg) (imm : BitVec 16) : Frame (.ldp dst imm) [dst] (stBits dst flagsLogic) nowhere :=
  frame_of_kept (fun _ => rfl) fun _ h => by
    obtain ⟨s1, hs1, h⟩ := bind_eq_ok.mp h
    cases h
    exact (deliver_kept flagsWithin_logic hs1).trans (advance_kept s1)

theorem cmpi_frame (src : Src Reg) (dst : Reg) : Frame (.cmpi src dst) src.updated flagsNotLuf nowhere :=
  frame_of_kept (fun _ => rfl) fun hd h => by
    obtain ⟨⟨b, s1⟩, hb, h⟩ := bind_eq_ok.mp h
    cases h
    have read := (srcWord_kept hd hb).mono (mask' := flagsNotLuf) (fun _ hq => hq) BitVec.zero_and
    exact (read.trans (applyFlags_kept flagsWithin_cmp s1)).trans (advance_kept _)

theorem tstb_frame (src : Src Reg) (dst : Reg) : Frame (.tstb src dst) src.updated flagsLogic nowhere :=
  frame_of_kept (fun _ => rfl) fun hd h => by
    obtain ⟨⟨b, s1⟩, hb, h⟩ := bind_eq_ok.mp h
    cases h
    have read := (srcWord_kept hd hb).mono (mask' := flagsLogic) (fun _ hq => hq) BitVec.zero_and
    exact (read.trans (applyFlags_kept flagsWithin_logicFlags s1)).trans (advance_kept _)

/-- Settles O48: each instruction by its shape and the flags its operation writes. -/
theorem integerFrame : Obligations.IntegerFrame := by
  intro src fsrc dst imm c
  simp only [List.forall_mem_cons, List.not_mem_nil, false_implies, implies_true, and_true]
  refine ⟨⟨?addc, ?addi, ?ash, ?negb, ?negi, ?subb, ?subi, ?subrb, ?subri⟩, ⟨?absi, ?mpyi⟩,
    ⟨?and, ?andn, ?ldi, ?not, ?or, ?xor⟩, ⟨?rol, ?rolc, ?ror, ?rorc⟩, ?lsh, fix_frame fsrc dst, subc_frame src dst,
    ldiCond_frame c src dst, ldp_frame dst imm, cmpi_frame src dst, tstb_frame src dst⟩
  case addc => exact twoInt_frame (fun _ => rfl) srcWord_kept fun _ _ _ => flagsWithin_add
  case addi => exact twoInt_frame (fun _ => rfl) srcWord_kept fun _ _ _ => flagsWithin_add
  case ash => exact twoInt_frame (fun _ => rfl) srcWord_kept fun _ _ _ => flagsWithin_ash
  case absi => exact twoInt_frame (fun _ => rfl) srcWord_kept fun _ _ _ => flagsWithin_abs
  case mpyi => exact twoInt_frame (fun _ => rfl) srcWord_kept fun _ _ _ => flagsWithin_mpy
  case lsh => exact twoInt_frame (fun _ => rfl) srcWord_kept fun _ _ _ => flagsWithin_lsh
  case negb | negi | subb | subi | subrb | subri =>
    exact twoInt_frame (fun _ => rfl) srcWord_kept fun _ _ _ => flagsWithin_sub
  case and | andn | ldi | not | or | xor =>
    exact twoInt_frame (fun _ => rfl) srcWord_kept fun _ _ _ => flagsWithin_logic
  case rol | rolc | ror | rorc => exact oneInt_frame (fun _ => rfl) fun _ _ => flagsWithin_logicC

end Sys2Proof.Machine
end

section
/-! The routing of addresses (R82), and the addresses where nothing is (R83, R84, R88). -/
namespace Sys2Proof.Machine

/-! ## Routing -/

/-- Settles O13: the rows of R82 are the branches of `region`, and each range excludes the rows before its own. -/
theorem addressMap : Obligations.AddressMap := by
  intro s a
  have size := a.isLt
  unfold region
  refine ⟨fun h => ?_, fun h k => ?_, fun h k => ?_, fun h k => ?_, fun h k => ?_, fun h k => ?_, fun h k => ?_,
    fun h k => ?_, fun h => ?_⟩
  all_goals repeat (first | rw [if_pos (by omega)] | rw [if_neg (by omega)])

/-- The peripheral bus lies at 808000h to 8097FFh on every device. -/
theorem region_peripheral_iff {s : State} {a : Addr} :
    region s a = .peripheral ↔ 0x808000 ≤ a.toNat ∧ a.toNat ≤ 0x8097FF := by
  unfold region
  constructor
  · intro h
    split_ifs at h
    omega
  · rintro ⟨h, k⟩
    obtain ⟨-, -, -, -, -, -, peripheral, -⟩ := addressMap s a
    exact peripheral h k

/-! ## Offsets that hold no register (R690, R720, R770) -/

theorem dmaRead_none {d : Dma} {off : Nat} (h : off ∉ [0, 4, 6, 8]) : dmaRead d off = none := by
  simp only [List.mem_cons, List.not_mem_nil, or_false, not_or] at h
  obtain ⟨h0, h4, h6, h8⟩ := h
  simp only [dmaRead, h0, h4, h6, h8, if_false]

theorem dmaWrite_none {d : Dma} {off : Nat} {v : Word} (h : off ∉ [0, 4, 6, 8]) : dmaWrite d off v = none := by
  simp only [List.mem_cons, List.not_mem_nil, or_false, not_or] at h
  obtain ⟨h0, h4, h6, h8⟩ := h
  simp only [dmaWrite, h0, h4, h6, h8, if_false]

theorem timerRead_none {t : Timer} {pin : Bool} {off : Nat} (h : off ∉ [0, 4, 8]) : timerRead t pin off = none := by
  simp only [List.mem_cons, List.not_mem_nil, or_false, not_or] at h
  obtain ⟨h0, h4, h8⟩ := h
  simp only [timerRead, h0, h4, h8, if_false]

theorem timerWrite_none {t : Timer} {off : Nat} {v : Word} (h : off ∉ [0, 4, 8]) : timerWrite t off v = none := by
  simp only [List.mem_cons, List.not_mem_nil, or_false, not_or] at h
  obtain ⟨h0, h4, h8⟩ := h
  simp only [timerWrite, h0, h4, h8, if_false]

/-- The offsets of a serial port's registers (R720). -/
def serialOffsets : List Nat := [0, 2, 3, 4, 5, 6, 8, 12]

theorem serialRead_none {p : SerialPort} {pins : SerialPins} {free : Bool} {off : Nat} (h : off ∉ serialOffsets) :
    serialRead p pins free off = none := by
  simp only [serialOffsets, List.mem_cons, List.not_mem_nil, or_false, not_or] at h
  obtain ⟨h0, h2, h3, h4, h5, h6, h8, h12⟩ := h
  simp only [serialRead, h0, h2, h3, h4, h5, h6, h8, h12, if_false]

theorem serialWrite_none {p : SerialPort} {off : Nat} {v : Word} (h : off ∉ serialOffsets) :
    serialWrite p off v = none := by
  simp only [serialOffsets, List.mem_cons, List.not_mem_nil, or_false, not_or] at h
  obtain ⟨-, h2, h3, h4, h5, h6, h8, h12⟩ := h
  simp only [serialWrite, h2, h3, h4, h5, h6, h8, h12, if_false]

theorem ne_zero_of_not_serialOffset {off : Nat} (h : off ∉ serialOffsets) : off ≠ 0 :=
  fun e => h (by rw [e]; exact List.mem_cons_self)

theorem writePort0_reserved {a : Addr} {off : Nat} {v : Word} {s : State} (h : off ∉ serialOffsets) :
    writePort0 a off v s = reserved a := by
  rw [writePort0, if_neg (ne_zero_of_not_serialOffset h), serialWrite_none h]; rfl

theorem writePort1_reserved {a : Addr} {off : Nat} {v : Word} {s : State} (h : off ∉ serialOffsets) :
    writePort1 a off v s = reserved a := by
  rw [writePort1, if_neg (ne_zero_of_not_serialOffset h), serialWrite_none h]; rfl

/-! ## Addresses that hold no register (R88) -/

/-- An address that holds no register is at no register's offset from the base of its unit. -/
theorem offset_not_mem {d : Device} {a : Addr} (ha : a ∉ peripheralRegisters d) {base : Nat} {offs : List Nat}
    (hregs : ∀ o ∈ offs, BitVec.ofNat 24 (base + o) ∈ peripheralRegisters d) (hbase : base % 16 = 0)
    (low : base ≤ a.toNat) (high : a.toNat < base + 16) : a.toNat % 16 ∉ offs := by
  intro h
  have place : a = BitVec.ofNat 24 (base + a.toNat % 16) := by
    rw [show base + a.toNat % 16 = a.toNat by omega, BitVec.ofNat_toNat, BitVec.setWidth_eq]
  exact ha (place ▸ hregs _ h)

/-- Where an address that holds no register lies among the units of the peripheral bus. -/
structure NoRegister (d : Device) (a : Addr) : Prop where
  dma : a.toNat < 0x808010 → a.toNat % 16 ∉ [0, 4, 6, 8]
  timer0 : 0x808020 ≤ a.toNat → a.toNat < 0x808030 → a.toNat % 16 ∉ [0, 4, 8]
  timer1 : 0x808030 ≤ a.toNat → a.toNat < 0x808040 → a.toNat % 16 ∉ [0, 4, 8]
  port0 : 0x808040 ≤ a.toNat → a.toNat < 0x808050 → a.toNat % 16 ∉ serialOffsets
  port1 : d = .c30 → 0x808050 ≤ a.toNat → a.toNat < 0x808060 → a.toNat % 16 ∉ serialOffsets
  expansion : ¬ (a.toNat = 0x808060 ∧ d = .c30)
  primary : a.toNat ≠ 0x808064

theorem noRegister_of_not_mem {d : Device} {a : Addr} (low : 0x808000 ≤ a.toNat) (ha : a ∉ peripheralRegisters d) :
    NoRegister d a where
  dma := offset_not_mem ha (by cases d <;> decide) (by decide) low
  timer0 := offset_not_mem ha (by cases d <;> decide) (by decide)
  timer1 := offset_not_mem ha (by cases d <;> decide) (by decide)
  port0 := offset_not_mem ha (by cases d <;> decide) (by decide)
  port1 := by rintro rfl; exact offset_not_mem ha (by decide) (by decide)
  expansion := by
    rintro ⟨e, rfl⟩
    exact ha ((BitVec.eq_of_toNat_eq e : a = 0x808060#24) ▸ by decide)
  primary e := ha ((BitVec.eq_of_toNat_eq e : a = 0x808064#24) ▸ by cases d <;> decide)

theorem periphRead_reserved {a : Addr} {s : State} (low : 0x808000 ≤ a.toNat) (ha : a ∉ peripheralRegisters s.device) :
    periphRead a s = reserved a := by
  have no := noRegister_of_not_mem low ha
  unfold periphRead
  dsimp only
  split
  · next h => rw [dmaRead_none (no.dma h)]; rfl
  split
  · rfl
  split
  · next h0 h => rw [timerRead_none (no.timer0 (by omega) h)]; rfl
  split
  · next h0 h => rw [timerRead_none (no.timer1 (by omega) h)]; rfl
  split
  · next h0 h => rw [serialRead_none (no.port0 (by omega) h)]; rfl
  split
  · next h0 h =>
    split
    · next hd => rw [serialRead_none (no.port1 hd (by omega) h)]; rfl
    · rfl
  rw [if_neg no.expansion, if_neg no.primary]

theorem periphWrite_reserved {a : Addr} {v : Word} {s : State} (low : 0x808000 ≤ a.toNat)
    (ha : a ∉ peripheralRegisters s.device) : periphWrite a v s = reserved a := by
  have no := noRegister_of_not_mem low ha
  unfold periphWrite
  dsimp only
  split
  · next h => rw [dmaWrite_none (no.dma h)]; rfl
  split
  · rfl
  split
  · next h0 h => rw [timerWrite_none (no.timer0 (by omega) h)]; rfl
  split
  · next h0 h => rw [timerWrite_none (no.timer1 (by omega) h)]; rfl
  split
  · next h0 h => exact writePort0_reserved (no.port0 (by omega) h)
  split
  · next h0 h =>
    split
    · next hd => exact writePort1_reserved (no.port1 hd (by omega) h)
    · rfl
  rw [if_neg no.expansion, if_neg no.primary]

/-! ## Accesses over an idle port (R93, R784) -/

/-- An idle port takes an access in this cycle of the step. -/
theorem portStart_idle {s : State} {p : PortName} (h : portIdle s p = true) :
    portStart s p = if p = .primary ∧ busHeld s = true then .error (.stall .held) else .ok s.elapsed := by
  unfold portIdle at h
  split at h
  · next n hn =>
    have hmax : max s.elapsed n = s.elapsed := Nat.max_eq_left (of_decide_eq_true h)
    unfold portStart portStartAfter
    rw [hn]
    dsimp only
    rw [hmax]
    rfl
  · cases h

/-- The CPU need not wait for the peripheral bus while its port is idle. -/
theorem awaitPeripheral_idle {k : Access} {s : State} (h : portIdle s .expansion = true) : awaitPeripheral k s = .ok s := by
  unfold awaitPeripheral
  split
  · rfl
  · rw [portStart_idle h]; rfl

/-- A read of the peripheral bus while its port is idle. -/
theorem loadFor_peripheral {k : Access} {a : Addr} {s : State} (ha : region s a = .peripheral)
    (hp : portIdle s .expansion = true) (hf : k ≠ .fetch) (hx : k ≠ .extra) :
    loadFor k a s = periphRead a (noteOnChip k a s) := by
  simp only [loadFor, ha, hf, hx, or_self, if_false, awaitPeripheral_idle hp, ok_bind]

/-- A write of the peripheral bus while its port is idle. -/
theorem storeAfter_peripheral {l : Nat} {dma : Bool} {a : Addr} {v : Word} {s : State} (ha : region s a = .peripheral)
    (hp : portIdle s .expansion = true) :
    storeAfter l dma a v s = periphWrite a v (noteOnChip (if dma then .dma else .data) a s) := by
  simp only [storeAfter, ha, awaitPeripheral_idle hp, ok_bind]

theorem noteOnChip_device (k : Access) (a : Addr) (s : State) : (noteOnChip k a s).device = s.device := by
  unfold noteOnChip; split <;> rfl

theorem noteOnChip_mem (k : Access) (a : Addr) (s : State) : (noteOnChip k a s).mem = s.mem := by
  unfold noteOnChip; split <;> rfl

/-! ## Refused accesses (R83, R84, R88, R89) -/

/-- Nothing is read or written at a reserved address. -/
theorem reservedRegion_refused {s : State} {a : Addr} (h : region s a = .reserved) :
    (∀ k, NotThere a (loadFor k a s)) ∧ ∀ l dma v, NotThere a (storeAfter l dma a v s) :=
  ⟨fun k => by simp only [NotThere, loadFor, h, reserved], fun l dma v => by simp only [NotThere, storeAfter, h, reserved]⟩

/-- Nothing is read at an address of the peripheral bus that holds no register, but by a fetch, which is refused in itself. -/
theorem loadFor_noRegister {k : Access} {s : State} {a : Addr} (ha : region s a = .peripheral)
    (hr : a ∉ peripheralRegisters s.device) (hp : portIdle s .expansion = true) (hf : k ≠ .fetch) (hx : k ≠ .extra) :
    NotThere a (loadFor k a s) := by
  obtain ⟨low, -⟩ := region_peripheral_iff.mp ha
  have hr' : a ∉ peripheralRegisters (noteOnChip k a s).device := by rwa [noteOnChip_device]
  rw [loadFor_peripheral ha hp hf hx, periphRead_reserved low hr']
  rfl

theorem storeAfter_noRegister {l : Nat} {dma : Bool} {v : Word} {s : State} {a : Addr} (ha : region s a = .peripheral)
    (hr : a ∉ peripheralRegisters s.device) (hp : portIdle s .expansion = true) : NotThere a (storeAfter l dma a v s) := by
  obtain ⟨low, -⟩ := region_peripheral_iff.mp ha
  rw [storeAfter_peripheral ha hp, periphWrite_reserved low (by rwa [noteOnChip_device])]
  rfl

/-- A read of the ROM, where the access may read it. -/
theorem loadFor_rom {k : Access} {s : State} {a : Addr} (h : region s a = .rom) :
    loadFor k a s = if romReadable s k then .ok (s.rom.getD a.toNat 0#32, noteOnChip k a s) else reserved a := by
  simp only [loadFor, h, romWord]

/-- Settles O14: by the region of the address. -/
theorem reservedAccessRefused : Obligations.ReservedAccessRefused := by
  intro s a v k hd
  rw [load_eq hd, store_eq hd]
  refine ⟨fun ha => ?reserved, fun ha hr hp => ?peripheral, fun ha => ?fetched, fun ha => ?rom⟩
  case reserved =>
    obtain ⟨noLoad, noStore⟩ := reservedRegion_refused ha
    exact ⟨noLoad .data, noStore 0 false v, noLoad k, fun dma => noStore 0 dma v⟩
  case peripheral =>
    have noLoad := fun k => loadFor_noRegister (k := k) ha hr hp
    have noStore := fun dma => storeAfter_noRegister (l := 0) (dma := dma) (v := v) ha hr hp
    exact ⟨noLoad .data nofun nofun, noStore false, noLoad .vector nofun nofun, noLoad .dma nofun nofun, noStore⟩
  case fetched => simp only [loadFor, ha, true_or, if_true]
  case rom =>
    have noStore : ∀ dma, storeFor dma a v s = .error (.refuse (.romWrite a)) := fun dma => by
      simp only [storeFor, storeAfter, ha]
    refine ⟨noStore false, noStore, fun hc => ⟨?_, ?_⟩, noteOnChip .fetch a s, noteOnChip .vector a s, loadFor_rom ha,
      loadFor_rom ha, noteOnChip_mem .., noteOnChip_mem ..⟩
    · rw [loadFor_rom ha, romReadable, decide_eq_false hc]; rfl
    · rw [loadFor_rom ha, romReadable, decide_eq_false hc]; rfl

end Sys2Proof.Machine
end

section
/-! Memory as a list (R80, R90): what is written is read back, and the form is canonical (log 3). -/
namespace Sys2Proof.Machine

/-! ## Canonical memories that read alike -/

/-- The head of a canonical memory, read: its byte, which is not that of an unlisted key. -/
theorem memByte_head {k : Nat} {b : Byte} {m : List Host.Cell} : memByte ((k, b) :: m) k = b := if_pos rfl

/-- Below its first key a canonical memory lists nothing. -/
theorem memByte_lt_head {k a : Nat} {b : Byte} {m : List Host.Cell} (h : MemWf ((k, b) :: m)) (ha : a < k) :
    memByte ((k, b) :: m) a = Config.unlistedByte := by
  rw [memByte, if_neg (by omega)]
  exact memByte_cons_lt h.1 (by omega)

theorem MemWf.tail {c : Host.Cell} {m : List Host.Cell} (h : MemWf (c :: m)) : MemWf m := by
  obtain ⟨sorted, listed⟩ := h
  exact ⟨(List.pairwise_cons.mp sorted).2, fun d hd => listed d (List.mem_cons_of_mem c hd)⟩

/-- A canonical memory that reads as empty is empty. -/
theorem memWf_eq_nil {m : List Host.Cell} (h : MemWf m) (hr : ∀ k, memByte m k = Config.unlistedByte) : m = [] := by
  cases m with
  | nil => rfl
  | cons c m =>
    obtain ⟨k, b⟩ := c
    exact absurd (memByte_head.symm.trans (hr k)) (h.2 (k, b) List.mem_cons_self)

/-- The first key of a canonical memory is no greater than that of one that reads alike. -/
theorem head_le_of_memByte_eq {k i : Nat} {b x : Byte} {m n : List Host.Cell} (hm : MemWf ((k, b) :: m))
    (hn : MemWf ((i, x) :: n)) (hr : ∀ j, memByte ((k, b) :: m) j = memByte ((i, x) :: n) j) : k ≤ i := by
  by_contra hlt
  have unlisted : x = Config.unlistedByte := by
    rw [← memByte_head (k := i) (b := x) (m := n), ← hr i, memByte_lt_head hm (by omega)]
  exact hn.2 (i, x) List.mem_cons_self unlisted

/-- Canonical memories that read alike are equal. -/
theorem memWf_ext {m n : List Host.Cell} (hm : MemWf m) (hn : MemWf n) (hr : ∀ k, memByte m k = memByte n k) : m = n := by
  induction m generalizing n with
  | nil => exact (memWf_eq_nil hn fun k => (hr k).symm).symm
  | cons c m ih =>
    obtain ⟨k, b⟩ := c
    cases n with
    | nil => exact memWf_eq_nil hm hr
    | cons d n =>
      obtain ⟨i, x⟩ := d
      obtain rfl : k = i := Nat.le_antisymm (head_le_of_memByte_eq hm hn hr) (head_le_of_memByte_eq hn hm fun j => (hr j).symm)
      obtain rfl : b = x := by simpa only [memByte_head] using hr k
      refine congrArg _ (ih hm.tail hn.tail fun j => ?_)
      by_cases hj : j ≤ k
      · rw [memByte_cons_lt hm.1 hj, memByte_cons_lt hn.1 hj]
      · have := hr j
        rwa [memByte, memByte, if_neg (by omega), if_neg (by omega)] at this

/-! ## Writing back the word that is there -/

/-- The four bytes of a word that is read. -/
theorem memWord_bytes (m : List Host.Cell) (a : Addr) :
    (memWord m a).extractLsb' 24 8 = memByte m (4 * a.toNat + 3) ∧
    (memWord m a).extractLsb' 16 8 = memByte m (4 * a.toNat + 2) ∧
    (memWord m a).extractLsb' 8 8 = memByte m (4 * a.toNat + 1) ∧
    (memWord m a).extractLsb' 0 8 = memByte m (4 * a.toNat) := by
  unfold memWord
  refine ⟨?_, ?_, ?_, ?_⟩ <;> apply BitVec.eq_of_getLsbD_eq <;> intro i hi <;>
    simp only [BitVec.getLsbD_extractLsb', BitVec.getLsbD_append] <;> interval_cases i <;> simp

/-- Writing back the word that is there changes no byte. -/
theorem memByte_writeBack (m : List Host.Cell) (a : Addr) (k : Nat) :
    memByte (memWriteWord m a (memWord m a)) k = memByte m k := by
  obtain ⟨h3, h2, h1, h0⟩ := memWord_bytes m a
  rw [memByte_memWriteWord, h3, h2, h1, h0]
  split
  · next e => rw [e]
  split
  · next e => rw [e]
  split
  · next e => rw [e]
  split
  · next e => rw [e]
  · rfl

/-- Settles O10: the laws of the list, and that canonical memories which read alike are equal. -/
theorem memoryReadWrite : Obligations.MemoryReadWrite :=
  ⟨fun m a v => ⟨memWord_memWriteWord_same m a v, fun _ hk => memByte_memWriteWord_of_ne hk⟩,
    fun _ _ hm hn hr => memWf_ext hm hn hr,
    fun m a hm => memWf_ext (memWf_memWriteWord a _ hm) hm (memByte_writeBack m a)⟩

end Sys2Proof.Machine
end

section
/-! The instruction cache (R100 to R108): hit, fill, replacement, clear, and the fetches that use it. -/
namespace Sys2Proof.Machine

/-! ## Segments -/

/-- The word index of an address is its place among the 32 words of its part of memory (R100). -/
theorem indexOf_toNat (a : Addr) : (indexOf a).toNat = a.toNat % 32 := by
  unfold indexOf
  rw [BitVec.extractLsb'_toNat]
  simp

/-- A segment by its number. -/
def Cache.seg (k : Bool) (c : Cache) : Segment := if k then c.seg1 else c.seg0

theorem Segment.hits_iff {g : Segment} {a : Addr} :
    g.hits a = true ↔ g.ssa = segmentOf a ∧ g.present.getLsbD (a.toNat % 32) = true := by
  rw [Segment.hits, Bool.and_eq_true, beq_iff_eq, indexOf_toNat]

theorem Segment.words_getElem? (g : Segment) (a : Addr) : g.words[a.toNat % 32]? = some (g.word a) := by
  rw [Segment.word, ← indexOf_toNat]
  exact Vector.getElem?_eq_getElem (indexOf a).isLt

@[simp] theorem Segment.put_ssa (g : Segment) (a : Addr) (w : Word) : (g.put a w).ssa = g.ssa := rfl

@[simp] theorem Segment.take_ssa (g : Segment) (a : Addr) : (g.take a).ssa = segmentOf a := rfl

@[simp] theorem Segment.take_words (g : Segment) (a : Addr) : (g.take a).words = g.words := rfl

theorem Segment.take_present (g : Segment) (a : Addr) (j : Nat) : (g.take a).present.getLsbD j = false := BitVec.getLsbD_zero

/-- The P flags after a word is put: its own is set. -/
theorem Segment.put_present (g : Segment) (a : Addr) (w : Word) {j : Nat} (hj : j < 32) :
    (g.put a w).present.getLsbD j = (j == a.toNat % 32 || g.present.getLsbD j) := by
  simp only [Segment.put, getLsbD_setBit, indexOf_toNat, hj, and_true]
  by_cases h : j = a.toNat % 32 <;> simp [h]

/-- The words after a word is put: itself at its place. -/
@[simp] theorem Segment.put_word (g : Segment) (a : Addr) (w : Word) : (g.put a w).word a = w :=
  Vector.getElem_set_self (indexOf a).isLt

/-- The words at other places stay. -/
theorem Segment.put_words_other (g : Segment) (a : Addr) (w : Word) {j : Nat} (hj : j ≠ a.toNat % 32) :
    (g.put a w).words[j]? = g.words[j]? :=
  Vector.getElem?_set_ne (indexOf a).isLt (by rw [indexOf_toNat]; exact hj.symm)

/-- A word that has been put into a segment of its part of memory is found there. -/
theorem Segment.put_hits {g : Segment} {a : Addr} {w : Word} (h : g.ssa = segmentOf a) : (g.put a w).hits a = true :=
  Segment.hits_iff.mpr ⟨h, by rw [Segment.put_present _ _ _ (Nat.mod_lt _ (by decide))]; simp⟩

theorem Segment.not_hits {g : Segment} {a : Addr} (h : g.ssa ≠ segmentOf a) : ¬ g.hits a = true :=
  fun k => h (Segment.hits_iff.mp k).1

/-- A cleared segment holds no word (R107). -/
theorem Segment.clear_not_hits (g : Segment) (a : Addr) : ¬ g.clear.hits a = true := fun h => by
  have flag := (Segment.hits_iff.mp h).2
  rw [show g.clear.present = 0#32 from rfl, BitVec.getLsbD_zero] at flag
  exact absurd flag (by decide)

/-! ## Finding a word (R102) -/

/-- A word is found in segment 0 where that holds it, else in segment 1 where that does (D7). -/
theorem Cache.find_eq_some_iff {c : Cache} {a : Addr} {k : Bool} {v : Word} :
    c.find a = some (k, v) ↔
      (c.seg k).hits a = true ∧ (k = true → ¬ (c.seg false).hits a = true) ∧ (c.seg k).word a = v := by
  unfold Cache.find Cache.seg
  by_cases h0 : c.seg0.hits a = true
  · cases k <;> simp [h0]
  · by_cases h1 : c.seg1.hits a = true <;> cases k <;> simp [h0, h1]

theorem Cache.clear_find (c : Cache) (a : Addr) : c.clear.find a = none :=
  (if_neg (Segment.clear_not_hits c.seg0 a)).trans (if_neg (Segment.clear_not_hits c.seg1 a))

/-! ## A fill (R103, R104) -/

/-- The segment a miss fills: the one that holds the part of memory, segment 0 first, else the one not used last. -/
def Cache.victim (c : Cache) (a : Addr) : Bool :=
  if c.seg0.ssa = segmentOf a then false else if c.seg1.ssa = segmentOf a then true else !c.mru

/-- What a fill makes of the segment it fills: one of another part of memory is taken over first (R104). -/
def Segment.filled (g : Segment) (a : Addr) (w : Word) : Segment :=
  (if g.ssa = segmentOf a then g else g.take a).put a w

/-- A fill, by its segment. -/
theorem Cache.fill_eq (c : Cache) (a : Addr) (w : Word) :
    c.fill a w = if c.victim a then { c with seg1 := c.seg1.filled a w, mru := true }
      else { c with seg0 := c.seg0.filled a w, mru := false } := by
  unfold Cache.fill Cache.victim Segment.filled
  by_cases h0 : c.seg0.ssa = segmentOf a
  · simp [h0]
  · by_cases h1 : c.seg1.ssa = segmentOf a
    · simp [h0, h1]
    · cases hm : c.mru <;> simp [h0, h1]

theorem Cache.fill_mru (c : Cache) (a : Addr) (w : Word) : (c.fill a w).mru = c.victim a := by
  rw [Cache.fill_eq]
  cases h : c.victim a <;> rfl

theorem Cache.fill_seg_victim (c : Cache) (a : Addr) (w : Word) :
    (c.fill a w).seg (c.victim a) = (c.seg (c.victim a)).filled a w := by
  rw [Cache.fill_eq]
  cases h : c.victim a <;> rfl

theorem Cache.fill_seg_other (c : Cache) (a : Addr) (w : Word) :
    (c.fill a w).seg (!c.victim a) = c.seg (!c.victim a) := by
  rw [Cache.fill_eq]
  cases h : c.victim a <;> rfl

@[simp] theorem Segment.filled_ssa (g : Segment) (a : Addr) (w : Word) : (g.filled a w).ssa = segmentOf a := by
  unfold Segment.filled
  split
  · next h => exact h
  · rfl

theorem Segment.filled_hits (g : Segment) (a : Addr) (w : Word) : (g.filled a w).hits a = true := by
  unfold Segment.filled
  split
  · next h => exact Segment.put_hits h
  · exact Segment.put_hits rfl

/-- The P flags after a fill: the word's own, and those of its part of memory that were there. -/
theorem Segment.filled_present (g : Segment) (a : Addr) (w : Word) {j : Nat} (hj : j < 32) :
    (g.filled a w).present.getLsbD j =
      (j == a.toNat % 32 || g.ssa == segmentOf a && g.present.getLsbD j) := by
  unfold Segment.filled
  split
  · next h => rw [Segment.put_present _ _ _ hj, h, beq_self_eq_true, Bool.true_and]
  · next h => rw [Segment.put_present _ _ _ hj, Segment.take_present, beq_eq_false_iff_ne.mpr h, Bool.false_and]

theorem Segment.filled_words_other (g : Segment) (a : Addr) (w : Word) {j : Nat} (hj : j ≠ a.toNat % 32) :
    (g.filled a w).words[j]? = g.words[j]? := by
  unfold Segment.filled
  rw [Segment.put_words_other _ _ _ hj]
  split <;> rfl

/-- A filled word is found, in the segment then used last. -/
theorem Cache.fill_find (c : Cache) (a : Addr) (w : Word) : (c.fill a w).find a = some (c.victim a, w) := by
  refine Cache.find_eq_some_iff.mpr ⟨?_, fun hv => ?_, ?_⟩
  · rw [Cache.fill_seg_victim]; exact Segment.filled_hits ..
  · have other := Cache.fill_seg_other c a w
    rw [hv, Bool.not_true] at other
    rw [other]
    refine Segment.not_hits fun h => ?_
    exact absurd ((if_pos h).symm.trans hv) Bool.false_ne_true
  · rw [Cache.fill_seg_victim]; exact Segment.put_word ..

/-! ## Fetches (R101, R108) -/

theorem fetchMemory_cache {k : Access} {a : Addr} {s t : State} {w : Word} (h : fetchMemory k a s = .ok (w, t)) :
    t.cache = s.cache :=
  (congrArg State.cache (fetchMemory_keeps h) :)

/-- A fetch that does not use the cache. -/
theorem fetchAt_uncached {k : Access} {a : Addr} {s : State} (h : s.st.getLsbD 11 = false ∨ offChip s a = false) :
    fetchAt k a s = fetchMemory k a s := by
  have off : ¬ (cacheEnabled s && fetchExternal s a) = true := by
    rw [Bool.and_eq_true]
    exact fun ⟨he, hx⟩ => h.elim (fun h => by rw [cacheEnabled, h] at he; cases he) (fun h => by
      rw [fetchExternal, h] at hx; cases hx)
  rw [fetchAt, if_neg off]

/-- A fetch that uses the cache. -/
theorem fetchAt_cached {k : Access} {a : Addr} {s : State} (he : s.st.getLsbD 11 = true) (hx : offChip s a = true) :
    (∀ g w, s.cache.find a = some (g, w) →
      fetchAt k a s = .ok (w, if s.st.getLsbD 10 then s else { s with cache := { s.cache with mru := g } })) ∧
    (s.cache.find a = none → ∀ w t, fetchMemory k a s = .ok (w, t) →
      fetchAt k a s = .ok (w, if s.st.getLsbD 10 then t else { t with cache := t.cache.fill a w })) := by
  have on : (cacheEnabled s && fetchExternal s a) = true := by rw [cacheEnabled, he, fetchExternal, hx]; rfl
  refine ⟨fun g w hf => ?_, fun hf w t hm => ?_⟩
  · rw [fetchAt, if_pos on, hf]; rfl
  · rw [fetchAt, if_pos on, hf]
    simp only [hm, ok_bind]
    rfl

/-- Settles O57: the facts about the cache itself, then the fetches by CE, CF and where the address leads. -/
theorem cacheFillAndClear : Obligations.CacheFillAndClear := by
  refine ⟨fun c a w => ?cache, fun s t a w k => ?fetch⟩
  case cache =>
    have mru := Cache.fill_mru c a w
    have filled := Cache.fill_seg_victim c a w
    have other := Cache.fill_seg_other c a w
    rw [← mru] at filled other
    refine ⟨fun k v => ?_, ?_, Cache.clear_find c a, ⟨rfl, rfl, rfl⟩, fun h => ?_, fun h0 h1 => ?_, fun h0 h1 => ?_,
      other, ?_, fun j hj => ⟨?_, fun hne => ?_⟩⟩
    · have found := Cache.find_eq_some_iff (c := c) (a := a) (k := k) (v := v)
      have word := Segment.words_getElem? (c.seg k) a
      simp only [Segment.hits_iff, ← Option.some_inj (a := (c.seg k).word a), ← word] at found
      exact found
    · rw [Cache.fill_find, mru]
    · rw [mru]; exact if_pos h
    · rw [mru]; exact (if_neg h0).trans (if_pos h1)
    · rw [mru]; exact (if_neg h0).trans (if_neg h1)
    · exact (congrArg Segment.ssa filled).trans (Segment.filled_ssa ..)
    · exact (congrArg (·.present.getLsbD j) filled).trans (Segment.filled_present _ a w hj)
    · exact (congrArg (·.words[j]?) filled).trans (Segment.filled_words_other _ a w hne)
  case fetch =>
    refine ⟨fun h => ⟨fetchAt_uncached h, fetchMemory_cache⟩, fun he hx => ?_⟩
    obtain ⟨hit, miss⟩ := fetchAt_cached (k := .fetch) he hx
    refine ⟨fun hf => (hit k w hf).trans ?_, fun hf hm => (miss hf w t hm).trans ?_⟩
    · split <;> rfl
    · rw [fetchMemory_cache hm]
      split
      · rw [← fetchMemory_cache hm]
      · rfl

end Sys2Proof.Machine
end

section
/-! Registers on the peripheral bus, as stores and loads reach them (R88). -/
namespace Sys2Proof.Machine

/-! ## Stores and loads of the peripheral bus -/

/-- A CPU access notes an on-chip access and changes nothing else. -/
theorem noteOnChip_data (a : Addr) (s : State) :
    noteOnChip .data a s = { s with onChip := { start := s.elapsed, addr := a } :: s.onChip } := rfl

/-- A store to the peripheral bus while its port is idle. -/
theorem store_peripheral {a : Addr} {v : Word} {s : State} (hd : s.env.dmaWithin = [])
    (ha : 0x808000 ≤ a.toNat ∧ a.toNat ≤ 0x8097FF) (hp : portIdle s .expansion = true) :
    store a v s = periphWrite a v (noteOnChip .data a s) := by
  rw [store_eq hd]; exact storeAfter_peripheral (region_peripheral_iff.mpr ha) hp

/-- A load from the peripheral bus while its port is idle. -/
theorem load_peripheral {a : Addr} {s : State} (hd : s.env.dmaWithin = [])
    (ha : 0x808000 ≤ a.toNat ∧ a.toNat ≤ 0x8097FF) (hp : portIdle s .expansion = true) :
    load a s = periphRead a (noteOnChip .data a s) := by
  rw [load_eq hd]; exact loadFor_peripheral (region_peripheral_iff.mpr ha) hp nofun nofun

/-- The primary-bus control holds what is written to NOHOLD, HIZ, SWW, WTCNT and BNKCMP (R662). -/
theorem primaryMask_bit (k : Nat) : primaryMask.getLsbD k = decide (1 ≤ k ∧ k ≤ 12) := by
  by_cases hk : k < 13
  · revert k; decide
  · rw [decide_eq_false (by omega)]
    exact Nat.testBit_lt_two_pow (Nat.lt_of_lt_of_le (by decide : primaryMask.toNat < 2 ^ 13)
      (Nat.pow_le_pow_right (by decide) (by omega)))

/-- Settles O60 (`peripheralRegisters` is the list of R88): each register by the write and the read of its unit. A register
write leaves the port idle, so the load after it finds the port as the store did. -/
theorem peripheralRegisters_storeLoad : Obligations.PeripheralRegisters := by
  intro v s hd hp
  refine ⟨?primaryControl, ?timerCounter, ?timerPeriod, ?dmaCount, ?dxr, ?drr⟩
  case primaryControl =>
    refine ⟨_, (store_peripheral hd (by decide) hp).trans rfl, fun q _ => by cases q <;> rfl, rfl, fun k => ?_⟩
    refine (getLsbD_mergeBits ..).trans ?_
    rw [primaryMask_bit]
    simp only [decide_eq_true_eq]
    rfl
  case timerCounter =>
    exact ⟨_, _, (store_peripheral hd (by decide) hp).trans rfl,
      (load_peripheral (s := { s with
        onChip := { start := s.elapsed, addr := 0x808024#24 } :: s.onChip, timer0 := { s.timer0 with counter := v } })
        hd (by decide) hp).trans rfl, rfl⟩
  case timerPeriod =>
    exact ⟨_, _, (store_peripheral hd (by decide) hp).trans rfl,
      (load_peripheral (s := { s with
        onChip := { start := s.elapsed, addr := 0x808038#24 } :: s.onChip, timer1 := { s.timer1 with period := v } })
        hd (by decide) hp).trans rfl, rfl⟩
  case dmaCount =>
    exact ⟨_, _, (store_peripheral hd (by decide) hp).trans rfl,
      (load_peripheral (s := { s with
        onChip := { start := s.elapsed, addr := 0x808008#24 } :: s.onChip, dma := { s.dma with count := v.extractLsb' 0 24 } })
        hd (by decide) hp).trans rfl⟩
  case dxr => exact ⟨_, (store_peripheral hd (by decide) hp).trans rfl, rfl, getLsbD_setBit .., rfl⟩
  case drr =>
    exact ⟨_, (load_peripheral hd (by decide) hp).trans rfl, getLsbD_setBit .., rfl, fun q _ => by cases q <;> rfl, rfl⟩

end Sys2Proof.Machine
end

section
/-! Accesses over the external ports: when they begin, how long they wait, what they leave (R93, R95, R668 to R682). -/
namespace Sys2Proof.Machine

/-! ## Pins of coming H1 cycles -/

/-- With nothing scheduled the pins stay. -/
theorem pinsAfter_nil (n : Nat) (p : Pins) : pinsAfter n p [] = (p, []) := by cases n <;> rfl

/-- The pins after some cycles and then some more. -/
theorem pinsAfter_add (n j : Nat) (p : Pins) (qs : List Pins) :
    pinsAfter (n + j) p qs = pinsAfter j (pinsAfter n p qs).1 (pinsAfter n p qs).2 := by
  induction n generalizing p qs with
  | zero => rw [Nat.zero_add]; rfl
  | succ n ih =>
    cases qs with
    | nil => rw [pinsAfter_nil, pinsAfter_nil, pinsAfter_nil]
    | cons q qs => rw [Nat.add_right_comm]; exact ih q qs

theorem pinsIn_of_noSchedule {s : State} (h : s.env.pinSchedule = []) (n : Nat) : pinsIn s n = s.pins := by
  rw [pinsIn, h, pinsAfter_nil]

/-- The bus is held as R672 has it. -/
theorem heldIn_eq (s : State) (n : Nat) : heldIn s n = holdsBus (pinsIn s n) s.primaryCtl := rfl

/-! ## The ready condition (R668) -/

/-- The ready condition of an access by the SWW field. -/
theorem readyAt_eq (ctl : Word) (waits k : Nat) (pin : Bool) :
    readyAt ctl waits k pin = readyBy (ctl.extractLsb' 3 2).toNat (!pin && decide (waits ≤ k))
      (decide ((ctl.extractLsb' 5 3).toNat ≤ k)) := by
  have table : ∀ (f : BitVec 2) (x y : Bool),
      (if f = 0#2 then x else if f = 1#2 then y else if f = 2#2 then x || y else x && y) = readyBy f.toNat x y := by decide
  exact table ..

/-- With a steady pin, an access that is ever ready is ready in any cycle that neither the device nor the wait-state
counter, which counts to seven at most, keeps back. -/
theorem readyAt_late {ctl : Word} {waits k m : Nat} {pin : Bool} (h : readyAt ctl waits k pin = true)
    (hw : waits ≤ m) (h7 : 7 ≤ m) : readyAt ctl waits m pin = true := by
  have count : (ctl.extractLsb' 5 3).toNat ≤ m := Nat.le_trans (Nat.le_of_lt_succ (ctl.extractLsb' 5 3).isLt) h7
  have table : ∀ (f : Fin 4) (x y z : Bool), readyBy f (z && x) y = true → readyBy f (z && true) true = true := by decide
  rw [readyAt_eq] at h ⊢
  rw [decide_eq_true hw, decide_eq_true count]
  exact table ⟨_, (ctl.extractLsb' 3 2).isLt⟩ _ _ _ h

/-! ## Wait states (R93, R668) -/

/-- `n` is the first cycle in which a condition holds. -/
def FirstAt (ready : Nat → Bool) (n : Nat) : Prop := ready n = true ∧ ∀ j < n, ready j = false

theorem firstAt_zero {ready : Nat → Bool} : FirstAt ready 0 ↔ ready 0 = true :=
  ⟨fun h => h.1, fun h => ⟨h, fun _ hj => absurd hj (Nat.not_lt_zero _)⟩⟩

theorem firstAt_succ {ready : Nat → Bool} {n : Nat} :
    FirstAt ready (n + 1) ↔ ready 0 = false ∧ FirstAt (fun j => ready (j + 1)) n := by
  constructor
  · exact fun ⟨h, hb⟩ => ⟨hb 0 (Nat.succ_pos n), h, fun j hj => hb (j + 1) (Nat.succ_lt_succ hj)⟩
  · rintro ⟨h0, h, hb⟩
    refine ⟨h, fun j hj => ?_⟩
    cases j with
    | zero => exact h0
    | succ j => exact hb j (Nat.lt_of_succ_lt_succ hj)

/-- A condition that holds at some time holds at a first time. -/
theorem exists_firstAt {ready : Nat → Bool} {n : Nat} (h : ready n = true) : ∃ m, FirstAt ready m := by
  have ever : ∃ n, ready n = true := ⟨n, h⟩
  exact ⟨Nat.find ever, Nat.find_spec ever, fun _ hj => Bool.eq_false_iff.mpr (Nat.find_min ever hj)⟩

/-- The first ready cycle under a steady pin, among those that are looked at. -/
theorem steadyWait_eq_some {ctl : Word} {waits : Nat} {pin : Bool} {n k m : Nat} :
    steadyWait ctl waits pin n k = some m ↔ m < n ∧ FirstAt (fun j => readyAt ctl waits (k + j) pin) m := by
  induction n generalizing k m with
  | zero => simp [steadyWait]
  | succ n ih =>
    unfold steadyWait
    cases m with
    | zero =>
      rw [firstAt_zero]
      split
      · next h => simpa using h
      · next h => simpa using h
    | succ m =>
      rw [firstAt_succ]
      split
      · next h => simp [h]
      · next h =>
        have later : (fun j => readyAt ctl waits (k + (j + 1)) pin) = fun j => readyAt ctl waits (k + 1 + j) pin :=
          funext fun j => by rw [Nat.add_right_comm, Nat.add_assoc]
        simp only [Option.map_eq_some_iff, Nat.add_right_cancel_iff, exists_eq_right, ih, later, Nat.add_lt_add_iff_right,
          Nat.add_zero, Bool.eq_false_iff.mpr h, true_and]

/-- Under a steady pin enough cycles are looked at to find the first ready one. -/
theorem steadyWait_enough {ctl : Word} {waits : Nat} {pin : Bool} {k m : Nat} :
    steadyWait ctl waits pin (waits + 8) k = some m ↔ FirstAt (fun j => readyAt ctl waits (k + j) pin) m := by
  rw [steadyWait_eq_some]
  refine ⟨And.right, fun ⟨ready, before⟩ => ⟨?_, ready, before⟩⟩
  by_contra far
  have late := readyAt_late (m := k + (waits + 7)) ready (by omega) (by omega)
  exact absurd (late.symm.trans (before (waits + 7) (by omega))) (by decide)

/-- The wait states of an access: to the first ready cycle, with RESET high until then. -/
theorem readyWait_eq_some {ctl : Word} {waits : Nat} {pin : Pins → Bool} {p : Pins} {qs : List Pins} {k n : Nat} :
    readyWait ctl waits pin p qs k = some n ↔
      FirstAt (fun j => readyAt ctl waits (k + j) (pin (pinsAfter j p qs).1)) n ∧
        ∀ j ≤ n, (pinsAfter j p qs).1.reset = true := by
  induction qs generalizing p k n with
  | nil =>
    simp only [pinsAfter_nil]
    unfold readyWait
    split
    · next hr => simp [steadyWait_enough, hr]
    · next hr => simp only [reduceCtorEq, false_iff]; exact fun ⟨_, h⟩ => hr (h 0 (Nat.zero_le n))
  | cons q qs ih =>
    have now : pinsAfter 0 p (q :: qs) = (p, q :: qs) := rfl
    unfold readyWait
    split
    · next hr =>
      simp only [reduceCtorEq, false_iff]
      intro ⟨_, h⟩
      rw [show p.reset = true from h 0 (Nat.zero_le n)] at hr
      cases hr
    · next hr =>
      have high : p.reset = true := by simpa using hr
      cases n with
      | zero =>
        rw [firstAt_zero]
        split
        · next h => simpa [now, high] using h
        · next h => simp [now, h]
      | succ n =>
        rw [firstAt_succ]
        split
        · next h => simp [now, h]
        · next h =>
          have later : (fun j => readyAt ctl waits (k + (j + 1)) (pin (pinsAfter (j + 1) p (q :: qs)).1)) =
              fun j => readyAt ctl waits (k + 1 + j) (pin (pinsAfter j q qs).1) :=
            funext fun j => by rw [Nat.add_right_comm, Nat.add_assoc]; rfl
          have resets : (∀ j ≤ n + 1, (pinsAfter j p (q :: qs)).1.reset = true) ↔
              ∀ j ≤ n, (pinsAfter j q qs).1.reset = true := by
            refine ⟨fun hb j hj => hb (j + 1) (Nat.succ_le_succ hj), fun hb j hj => ?_⟩
            cases j with
            | zero => exact high
            | succ j => exact hb j (Nat.le_of_succ_le_succ hj)
          simp only [Option.map_eq_some_iff, Nat.add_right_cancel_iff, exists_eq_right, ih, later, resets, now,
            Nat.add_zero, Bool.eq_false_iff.mpr h, true_and]

/-- The wait states of an access that begins `t` H1 cycles from now (R668, R93). -/
theorem portWait_eq_some {s : State} {p : PortName} {waits t n : Nat} :
    portWait s p waits t = some n ↔
      FirstAt (fun j => readyAt (portCtl s p) waits j (p.pin (pinsIn s (t + j)))) n ∧
        ∀ j ≤ n, (pinsIn s (t + j)).reset = true := by
  simp only [portWait, readyWait_eq_some, pinsIn, pinsAfter_add, Nat.zero_add]

/-- An access that is ready at some time, and that no RESET cuts off, ends. -/
theorem portWait_ends {s : State} {p : PortName} {waits t k : Nat}
    (hr : readyAt (portCtl s p) waits k (p.pin (pinsIn s (t + k))) = true) (hh : ∀ j, (pinsIn s (t + j)).reset = true) :
    ∃ n, portWait s p waits t = some n := by
  obtain ⟨n, first⟩ := exists_firstAt (ready := fun j => readyAt (portCtl s p) waits j (p.pin (pinsIn s (t + j)))) hr
  exact ⟨n, portWait_eq_some.mpr ⟨first, fun j _ => hh j⟩⟩

end Sys2Proof.Machine
end

section
/-! Stores and loads over the primary bus, and a load of the word just stored (R82, R90, R93 to R95, R681). -/
namespace Sys2Proof.Machine

/-! ## Reads and writes over the primary bus -/

theorem keepsRegs_of_load {s t : State} (h : loadPart t = loadPart s) : KeepsRegs [] s t :=
  fun q _ => (held_loadPart q t).symm.trans ((congrArg (held q) h).trans (held_loadPart q s))

theorem keepsRegs_trans {l : List Reg} {s t u : State} (h : KeepsRegs l s t) (k : KeepsRegs l t u) : KeepsRegs l s u :=
  fun q hq => (k q hq).trans (h q hq)

/-- A store that begins `t` H1 cycles from now, over the primary bus: what it leaves (R93, R95). -/
def primaryStored (a : Addr) (v : Word) (t : Nat) (s : State) : State :=
  { s with
    bank := bankOf s.primaryCtl a
    primary := { addr := a, write := true, word := v, old := memWord s.mem a, waits := (nextWrite s).waits, lead := 0
                 start := t, stop := (portWait s .primary (nextWrite s).waits t).map (t + · + 2) } :: s.primary
    env := { s.env with extWrites := s.env.extWrites.drop 1 }
    elapsed := t
    outNow := s.outNow + 1
    mem := if (nextWrite s).keeps then memWriteWord s.mem a v else s.mem
    recentStores :=
      if !(nextWrite s).keeps then s.recentStores else { addr := a, old := memWord s.mem a, age := 0 } :: s.recentStores }

/-- The machine after a load over the primary bus that began `t` H1 cycles from now and waited `n` more (R93). -/
def primaryLoaded (a : Addr) (lead t n : Nat) (s : State) : State :=
  { beginRead .primary (readCycle s a lead t (some (t + n + 1))) s with elapsed := t + n }

theorem primaryStored_keepsRegs (a : Addr) (v : Word) (t : Nat) (s : State) : KeepsRegs [] s (primaryStored a v t s) :=
  fun q _ => by cases q <;> simp only [held, readExt, primaryStored]

theorem primaryLoaded_keepsRegs (a : Addr) (lead t n : Nat) (s : State) : KeepsRegs [] s (primaryLoaded a lead t n s) :=
  keepsRegs_of_load (loadPart_beginRead ..)

theorem primaryStored_pc (a : Addr) (v : Word) (t : Nat) (s : State) : (primaryStored a v t s).pc = s.pc := by
  simp only [primaryStored]

theorem primaryStored_elapsed (a : Addr) (v : Word) (t : Nat) (s : State) : (primaryStored a v t s).elapsed = t := by
  simp only [primaryStored]

theorem primaryLoaded_pc (a : Addr) (lead t n : Nat) (s : State) : (primaryLoaded a lead t n s).pc = s.pc := by
  simp only [primaryLoaded, beginRead, noteBank, addCycle]

theorem primaryLoaded_mem (a : Addr) (lead t n : Nat) (s : State) : (primaryLoaded a lead t n s).mem = s.mem := by
  simp only [primaryLoaded, beginRead, noteBank, addCycle]

theorem primaryLoaded_elapsed (a : Addr) (lead t n : Nat) (s : State) :
    (primaryLoaded a lead t n s).elapsed = t + n := by
  simp only [primaryLoaded, beginRead, noteBank, addCycle]

section
variable {a : Addr} {v : Word} {s : State} {t : Nat}

/-- An access over the primary bus is refused the bus as its port is. -/
theorem primary_error {e : Stop} (hd : s.env.dmaWithin = []) (ha : region s a = .primary)
    (h : portStart s .primary = .error e) : load a s = .error e ∧ store a v s = .error e := by
  rw [load_eq hd, store_eq hd]
  unfold storeFor storeAfter loadFor extLoad extStore
  unfold portStart at h ⊢
  rw [ha]
  simp only [h, error_bind, and_self]

/-- A store over the primary bus takes place once its port takes it, and none of the CPU's time (R95). -/
theorem store_primary (hd : s.env.dmaWithin = []) (ha : region s a = .primary) (h : portStart s .primary = .ok t) :
    store a v s = .ok (primaryStored a v t s) := by
  rw [store_eq hd]
  unfold storeFor storeAfter extStore
  unfold portStart at h
  rw [ha]
  simp only [h, ok_bind, pure_eq_ok, primaryStored, noteBank, addCycle, Nat.sub_zero, Bool.false_or, Bool.false_eq_true,
    if_false]

/-- A load over the primary bus: the CPU goes on when its read is over (R93), or is locked up (R682). -/
theorem load_primary {lead : Nat} (hd : s.env.dmaWithin = []) (ha : region s a = .primary)
    (h : portStart s .primary = .ok t) (hl : readLead s .primary a t = lead) :
    (∀ n, portWait s .primary (nextRead s).waits (t + lead) = some n →
      load a s = .ok ((nextRead s).word.getD (memWord s.mem a), primaryLoaded a lead (t + lead) n s)) ∧
    (portWait s .primary (nextRead s).waits (t + lead) = none →
      load a s = .error (.lockup .primary (readCycle s a lead (t + lead) none))) := by
  rw [load_eq hd]
  unfold loadFor extLoad
  rw [ha]
  simp only [h, ok_bind, hl, reduceCtorEq, or_self, if_false]
  refine ⟨fun n hn => ?_, fun hn => ?_⟩
  · simp only [hn]; rfl
  · simp only [hn]; rfl

end

/-- The extra cycle of a read over the primary bus: after a write, or after another bank (R676, R681). -/
theorem readLead_primary {s : State} {a : Addr} (ha : region s a = .primary) (t : Nat) :
    readLead s .primary a t = if followsWrite s .primary t = true then 1 else bankGap s .primary a := by
  simp only [readLead, ha, ne_eq, reduceCtorEq, not_false_eq_true, true_and]

/-! ## A store and then a load (O11) -/

theorem ramStore_keepsRegs (d : Bool) (a : Addr) (v : Word) (s : State) : KeepsRegs [] s (ramStore d a v s) :=
  fun q _ => by cases q <;> simp only [held, readExt, ramStore]

/-- A store to on-chip RAM, and a load of it. -/
theorem ramStore_then_load {s : State} {a : Addr} {v : Word} (hd : s.env.dmaWithin = []) (ha : region s a = .ram) :
    store a v s = .ok (ramStore false a v (noteOnChip .data a s)) ∧
      load a (ramStore false a v (noteOnChip .data a s)) =
        .ok (v, noteOnChip .data a (ramStore false a v (noteOnChip .data a s))) := by
  have hd' : (ramStore false a v (noteOnChip .data a s)).env.dmaWithin = [] := hd
  have ha' : region (ramStore false a v (noteOnChip .data a s)) a = .ram := ha
  refine ⟨?_, ?_⟩
  · rw [store_eq hd]; simp only [storeFor, storeAfter, ha]; rfl
  · rw [load_eq hd', loadFor_ram ha']
    exact congrArg (fun w => Except.ok (w, _)) (memWord_memWriteWord_same s.mem a v)

/-- The primary bus answers: RDY is low, or the wait-state counter ends an access (R668). -/
def primaryAnswers (s : State) : Prop :=
  s.pins.rdy = false ∨ s.primaryCtl.extractLsb' 3 2 = 1#2 ∨ s.primaryCtl.extractLsb' 3 2 = 2#2

/-- An access that the bus answers, and that no RESET cuts off, ends. -/
theorem primaryWait_ends {s : State} (hq : s.env.pinSchedule = []) (hr : s.pins.reset = true) (h : primaryAnswers s)
    (t : Nat) : ∃ n, portWait s .primary 0 t = some n := by
  have steady : ∀ j, pinsIn s (t + j) = s.pins := fun j => pinsIn_of_noSchedule hq _
  refine portWait_ends (k := 7) ?_ fun j => by rw [steady, hr]
  rw [steady, readyAt_eq, decide_eq_true (Nat.zero_le 7), Bool.and_true,
    decide_eq_true (Nat.le_of_lt_succ ((portCtl s .primary).extractLsb' 5 3).isLt)]
  have table : ∀ f : Fin 4, readyBy f true true = true := by decide
  rcases h with h | h | h
  · rw [show PortName.pin .primary s.pins = false from h]
    exact table ⟨_, ((portCtl s .primary).extractLsb' 3 2).isLt⟩
  · rw [show (portCtl s .primary).extractLsb' 3 2 = 1#2 from h]; rfl
  · rw [show (portCtl s .primary).extractLsb' 3 2 = 2#2 from h]; exact Bool.or_true _

/-- A load of the word that a store over the primary bus has just written: once the write is over, after the extra cycle
of a read that follows a write (R681). -/
theorem load_primaryStored {s : State} {a : Addr} {v : Word} {w : Nat} (hd : s.env.dmaWithin = [])
    (ha : region s a = .primary) (hx : s.env.extReads = []) (hk : s.env.extWrites = []) (hq : s.env.pinSchedule = [])
    (hr : s.pins.reset = true) (hh : holdsBus s.pins s.primaryCtl = false) (hy : primaryAnswers s)
    (hw : portWait s .primary 0 s.elapsed = some w) :
    ∃ n, load a (primaryStored a v s.elapsed s) =
      .ok (v, primaryLoaded a 1 (s.elapsed + w + 2 + 1) n (primaryStored a v s.elapsed s)) := by
  have keeps : nextWrite s = { keeps := true, waits := 0 } := by rw [nextWrite, hk]; rfl
  have free : portFree (primaryStored a v s.elapsed s).primary = some (s.elapsed + w + 2) := by
    simp only [primaryStored, portFree, keeps, hw, Option.map_some]
  have unheld : heldIn (primaryStored a v s.elapsed s) (s.elapsed + w + 2) = false := by
    rw [heldIn_eq, pinsIn_of_noSchedule (s := primaryStored a v s.elapsed s) hq]; exact hh
  have starts : portStart (primaryStored a v s.elapsed s) .primary = .ok (s.elapsed + w + 2) := by
    have latest : max (primaryStored a v s.elapsed s).elapsed (s.elapsed + w + 2) = s.elapsed + w + 2 :=
      Nat.max_eq_right (show s.elapsed ≤ s.elapsed + w + 2 by omega)
    unfold portStart portStartAfter
    rw [show portCycles (primaryStored a v s.elapsed s) .primary = (primaryStored a v s.elapsed s).primary from rfl, free]
    dsimp only
    rw [latest, Nat.add_zero, unheld]
    rfl
  have ha' : region (primaryStored a v s.elapsed s) a = .primary := ha
  have follows : readLead (primaryStored a v s.elapsed s) .primary a (s.elapsed + w + 2) = 1 := by
    have stop : (portWait s .primary (nextWrite s).waits s.elapsed).map (s.elapsed + · + 2) = some (s.elapsed + w + 2) := by
      rw [keeps, hw]; rfl
    have direct : followsWrite (primaryStored a v s.elapsed s) .primary (s.elapsed + w + 2) = true := by
      show (true && region (primaryStored a v s.elapsed s) a != .iostrb &&
        (portWait s .primary (nextWrite s).waits s.elapsed).map (s.elapsed + · + 2) == some (s.elapsed + w + 2)) = true
      rw [stop, ha', BEq.rfl]
      rfl
    rw [readLead_primary ha', if_pos direct]
  obtain ⟨n, hn⟩ := primaryWait_ends (s := primaryStored a v s.elapsed s) hq hr hy (s.elapsed + w + 2 + 1)
  have silent : nextRead (primaryStored a v s.elapsed s) = { word := none, waits := 0 } := by
    show s.env.extReads.headD _ = _
    rw [hx]; rfl
  obtain ⟨loaded, -⟩ := load_primary (s := primaryStored a v s.elapsed s) hd ha' starts follows
  refine ⟨n, (loaded n (by rw [silent]; exact hn)).trans ?_⟩
  have word : memWord (primaryStored a v s.elapsed s).mem a = v := by
    simp only [primaryStored, keeps, if_true]
    exact memWord_memWriteWord_same ..
  rw [silent, Option.getD_none, word]

/-- Settles O11: a store and a load on-chip, and over the primary bus. -/
theorem storeThenLoad : Obligations.StoreThenLoad := by
  rintro s a v hd (ha | ⟨ha, hx, hk, hq, hr, hp, hh, hy⟩)
  · obtain ⟨stored, loaded⟩ := ramStore_then_load (v := v) hd ha
    have noted := fun t => keepsRegs_of_load (loadPart_noteOnChip .data a t)
    refine ⟨_, _, stored, loaded, store_bytes hd stored, ?_,
      keepsRegs_trans (noted s) (keepsRegs_trans (ramStore_keepsRegs false a v _) (noted _)), ?_, ?_,
      fun _ => ?_, fun h => (nomatch ha.symm.trans h)⟩
    all_goals simp only [noteOnChip_data, ramStore]
  · have starts : portStart s .primary = .ok s.elapsed := by
      rw [portStart_idle hp, if_neg]
      rintro ⟨-, held⟩
      rw [busHeld, heldIn_eq, pinsIn_of_noSchedule hq, hh] at held
      cases held
    have stored := store_primary (v := v) hd ha starts
    obtain ⟨w, hw⟩ := primaryWait_ends hq hr hy s.elapsed
    obtain ⟨n, loaded⟩ := load_primaryStored (v := v) hd ha hx hk hq hr hh hy hw
    have regs : KeepsRegs [] s (primaryLoaded a 1 (s.elapsed + w + 2 + 1) n (primaryStored a v s.elapsed s)) :=
      keepsRegs_trans (primaryStored_keepsRegs a v _ s) (primaryLoaded_keepsRegs a _ _ _ _)
    refine ⟨_, _, stored, loaded, store_bytes hd stored, primaryLoaded_mem ..,
      regs, (primaryLoaded_pc ..).trans (primaryStored_pc ..), primaryStored_elapsed ..,
      fun h => (nomatch ha.symm.trans h), fun _ => ?_⟩
    rw [primaryLoaded_elapsed]
    omega

end Sys2Proof.Machine
end

section
/-! What makes an access wait, and that every instruction waits for its accesses (R93, R95, R504, R662 to R682). -/
namespace Sys2Proof.Machine

/-! ## Holds, wait states and HOLDA -/

/-- The extra cycle of a read over the primary bus, by the access before it (R681). -/
theorem followsWrite_primary (s : State) (t : Nat) :
    followsWrite s .primary t = (match s.primary with
      | [] => t == 0 && s.primaryWrote
      | c :: _ => c.write && region s c.addr != .iostrb && c.stop == some t) := by
  unfold followsWrite portCycles
  cases s.primary <;> rfl

/-- Accesses over an idle primary bus: held, none begins; not held, they take what `load_primary` and `store_primary` say. -/
theorem primaryAccess_waits (s : State) (a : Addr) (v : Word) (ha : region s a = .primary) (hd : s.env.dmaWithin = [])
    (hp : portIdle s .primary = true) {lead : Nat} (hl : readLead s .primary a s.elapsed = lead) :
    (holdsBus (pinsIn s s.elapsed) s.primaryCtl = true →
      load a s = .error (.stall .held) ∧ store a v s = .error (.stall .held)) ∧
    (holdsBus (pinsIn s s.elapsed) s.primaryCtl = false →
      (∃ u, store a v s = .ok u ∧ u.elapsed = s.elapsed) ∧
      (∀ n, portWait s .primary (nextRead s).waits (s.elapsed + lead) = some n →
        ∃ x u, load a s = .ok (x, u) ∧ u.elapsed = s.elapsed + lead + n) ∧
      (portWait s .primary (nextRead s).waits (s.elapsed + lead) = none →
        load a s = .error (.lockup .primary (readCycle s a lead (s.elapsed + lead) none)))) := by
  have starts := portStart_idle hp
  rw [show busHeld s = holdsBus (pinsIn s s.elapsed) s.primaryCtl from rfl] at starts
  refine ⟨fun held => primary_error hd ha (starts.trans (if_pos ⟨rfl, held⟩)), fun free => ?_⟩
  have begins : portStart s .primary = .ok s.elapsed := starts.trans (if_neg fun ⟨_, held⟩ => by
    rw [free] at held; cases held)
  obtain ⟨loaded, locked⟩ := load_primary hd ha begins hl
  exact ⟨⟨_, store_primary hd ha begins, primaryStored_elapsed ..⟩,
    fun n hn => ⟨_, _, loaded n hn, primaryLoaded_elapsed ..⟩, locked⟩

/-- HOLDA is low while the bus is held, its accesses over and the CPU not locked up (R662, R672). -/
theorem holdaPin_idle {s : State} (hp : portIdle { s with elapsed := 0 } .primary = true) (hs : s.stalled ≠ some .primary) :
    holdaPin s = if holdsBus s.pins s.primaryCtl then .low else .high := by
  have given : granted s = holdsBus s.pins s.primaryCtl := by
    unfold granted holdState
    rw [hp, Bool.and_true, bne_iff_ne.mpr hs, Bool.and_true]
    rfl
  rw [holdaPin, given]
  rfl

/-! ## An instruction that waits -/

/-- An instruction whose computation stops waits, or is locked up, or refused. -/
theorem waits_of_stop {i : Instr} {s : State} {e : Stop} (h : exec i s = stop s e) : Waits i s e := by
  unfold Waits
  rw [h]
  cases e with
  | refuse r => rfl
  | stall w => rfl
  | lockup p c => cases p <;> rfl

theorem waits_of_error {i : Instr} {s : State} {x : Except Stop State} {w : Stop} (hexec : exec i s = outcome s x)
    (h : x = .error w) : Waits i s w := waits_of_stop (by rw [hexec, h]; rfl)

theorem bind_error {α β : Type} {x : Except Stop α} {f : α → Except Stop β} {w : Stop} (h : x = .error w) :
    (x >>= f) = .error w := by rw [h]; rfl

theorem bind_ok_error {α β : Type} {x : Except Stop α} {f : α → Except Stop β} {a : α} {w : Stop} (h : x = .ok a)
    (hf : f a = .error w) : (x >>= f) = .error w := by rw [h]; exact hf

/-- An instruction whose first access cannot be made. -/
theorem waits_of_first {α : Type} {i : Instr} {s : State} {x : Except Stop α} {f : α → Except Stop State} {w : Stop}
    (hexec : exec i s = outcome s (x >>= f)) (h : x = .error w) : Waits i s w := waits_of_error hexec (bind_error h)

/-- An instruction whose first access can be made, or its addresses found, and which then stops. -/
theorem waits_of_then {α : Type} {i : Instr} {s : State} {x : Except Stop α} {f : α → Except Stop State} {a : α} {w : Stop}
    (hexec : exec i s = outcome s (x >>= f)) (h : x = .ok a) (hf : f a = .error w) : Waits i s w :=
  waits_of_error hexec (bind_ok_error h hf)

/-! ## Sources -/

section
variable {s : State} {w : Stop}

theorem srcInt_waits {src : Src Reg} (h : srcInt src s = .error w) (dst : Reg) (f : FReg) (c : Cond) :
    ∀ i ∈ [Instr.absi src dst, .addc src dst, .addi src dst, .ash src dst,
        .cmpi src dst, .ldi src dst, .lsh src dst, .mpyi src dst, .negb src dst, .negi src dst, .subb src dst,
        .subi src dst, .subrb src dst, .subri src dst, .float src f, .ldiCond c src dst], Waits i s w := by
  simp only [List.forall_mem_cons, List.not_mem_nil, false_implies, implies_true, and_true]
  and_intros <;> exact waits_of_first rfl h

theorem srcUns_waits {src : Src Reg} (h : srcUns src s = .error w) (dst : Reg) :
    ∀ i ∈ [Instr.and src dst, .andn src dst, .not src dst, .or src dst, .subc src dst,
        .tstb src dst, .xor src dst, .rpts src], Waits i s w := by
  simp only [List.forall_mem_cons, List.not_mem_nil, false_implies, implies_true, and_true]
  and_intros <;> exact waits_of_first rfl h

theorem srcFlt_waits {src : Src FReg} (h : srcFlt src s = .error w) (dst : Reg) (f : FReg) (c : Cond) :
    ∀ i ∈ [Instr.absf src f, .addf src f, .cmpf src f, .fix src dst, .lde src f,
        .ldf src f, .mpyf src f, .negf src f, .norm src f, .rnd src f, .subf src f, .subrf src f,
        .ldfCond c src f], Waits i s w := by
  simp only [List.forall_mem_cons, List.not_mem_nil, false_implies, implies_true, and_true]
  and_intros <;> exact waits_of_first rfl h

theorem srcPairInt_waits {x y : Src3 Reg} (h : srcPairInt x y s = .error w) (dst : Reg) :
    ∀ i ∈ [Instr.addc3 x y dst, .addi3 x y dst, .and3 x y dst, .andn3 x y dst,
        .ash3 x y dst, .cmpi3 x y, .lsh3 x y dst, .mpyi3 x y dst, .or3 x y dst, .subb3 x y dst, .subi3 x y dst, .tstb3 x y,
        .xor3 x y dst], Waits i s w := by
  simp only [List.forall_mem_cons, List.not_mem_nil, false_implies, implies_true, and_true]
  and_intros <;> exact waits_of_first rfl h

theorem srcPairFlt_waits {x y : Src3 FReg} (h : srcPairFlt x y s = .error w) (f : FReg) :
    ∀ i ∈ [Instr.addf3 x y f, .cmpf3 x y, .mpyf3 x y f, .subf3 x y f], Waits i s w := by
  simp only [List.forall_mem_cons, List.not_mem_nil, false_implies, implies_true, and_true]
  and_intros <;> exact waits_of_first rfl h

end

end Sys2Proof.Machine
end

section
/-! That every instruction waits for its accesses: the stack, memory operands, interlocked and parallel instructions. -/
namespace Sys2Proof.Machine

variable {s s₁ s₂ : State} {w : Stop} {a a1 a2 : Addr} {v : Word}

/-! ## The stack, calls and traps -/

theorem pop_error (h : load (s.sp.extractLsb' 0 24) s = .error w) : pop s = .error w := bind_error h

theorem popPc_error (h : load (s.sp.extractLsb' 0 24) s = .error w) : popPc s = .error w := bind_error (pop_error h)

/-- Returns of which the condition holds (R468, R469). -/
theorem return_waits {c : Cond} (h : load (s.sp.extractLsb' 0 24) s = .error w) (hc : condHolds s.st c = true) :
    Waits (.retsCond c) s w ∧ Waits (.retiCond c) s w :=
  ⟨waits_of_error rfl ((if_pos hc).trans (popPc_error h)),
    waits_of_error rfl ((if_pos hc).trans (bind_error (popPc_error h)))⟩

/-- The push of a return address cannot be made (R448, R449). -/
theorem callTo_error {target : State → Addr}
    (h : store ((s.sp + 1).extractLsb' 0 24) ((s.pc + 1).setWidth 32) { s with sp := s.sp + 1 } = .error w) :
    callTo target s = .error w := bind_error h

/-- GIE cleared is bit 13 masked out. -/
theorem setGie_false (s : State) : setGie false s = { s with st := s.st &&& ~~~0x2000#32 } := rfl

/-- The vector of trap `k` (R632). -/
theorem trapVector_eq (k : BitVec 5) : 0x20#24 + k.setWidth 24 = BitVec.ofNat 24 (0x20 + k.toNat) := by
  apply BitVec.eq_of_toNat_eq
  have := k.isLt
  simp only [BitVec.toNat_add, BitVec.toNat_setWidth, BitVec.toNat_ofNat]
  omega

/-- A trap whose push, or whose vector, cannot be accessed (R632). -/
theorem takeTrap_error {k : BitVec 5}
    (h : store ((s.sp + 1).extractLsb' 0 24) ((s.pc + 1).setWidth 32)
        { s with sp := s.sp + 1, st := s.st &&& ~~~0x2000#32 } = .error w ∨
      store ((s.sp + 1).extractLsb' 0 24) ((s.pc + 1).setWidth 32)
        { s with sp := s.sp + 1, st := s.st &&& ~~~0x2000#32 } = .ok s₁ ∧
        loadFor .vector (BitVec.ofNat 24 (0x20 + k.toNat)) s₁ = .error w) :
    takeTrap k s = .error w := by
  rcases h with h | ⟨h, hv⟩
  · exact bind_error h
  · rw [← trapVector_eq] at hv
    exact bind_ok_error h (bind_error (bind_error hv))

/-! ## Memory operands -/

/-- A load through a memory operand (R330). -/
theorem memSrc_error {m : MemOp} (hm : memAddr m s = .ok (a, s₁)) (h : load a s₁ = .error w) : memSrc m s = .error w :=
  bind_ok_error hm h

/-- IACK waits as others do; one whose read has begun and never ends gives its pulse (R453, R682). -/
theorem execIack_waits {m : MemOp} (hm : memAddr m s = .ok (a, s₁)) (h : load a s₁ = .error w) :
    ((∀ n c, w ≠ .lockup n c) → Waits (.iack m) s w) ∧
      ∀ n c, w = .lockup n c → exec (.iack m) s = .next (addCycle c { s with
        stalled := some n.wait, iack := some { start := c.start, addr := a } } n) := by
  have meaning : exec (.iack m) s = execIack m s := rfl
  rw [execIack, hm] at meaning
  simp only [h] at meaning
  cases w with
  | refuse r => exact ⟨fun _ => waits_of_stop meaning, fun _ _ e => nomatch e⟩
  | stall x => exact ⟨fun _ => waits_of_stop meaning, fun _ _ e => nomatch e⟩
  | lockup p c =>
    refine ⟨fun hl => absurd rfl (hl p c), fun n d e => ?_⟩
    cases e
    exact meaning

/-! ## Interlocked instructions (R501, R504) -/

/-- An interlocked load that takes XF0 nowhere is an ordinary load (R506). -/
theorem interlockedLoad_onChip {m : MemOp} {fin : Word → State → Except Stop State} (hm : memAddr m s = .ok (a, s₁))
    (hr : (lockRegion s a).interlocked = false) (h : load a s₁ = .error w) : interlockedLoad m fin s = .error w := by
  refine bind_ok_error hm ?_
  dsimp only
  rw [hr]
  exact bind_error h

/-- An interlocked load whose port is not free, or which its bus in hold keeps back (R501, R672). -/
theorem interlockedLoad_port {m : MemOp} {fin : Word → State → Except Stop State} {n : PortName}
    (hm : memAddr m s = .ok (a, s₁)) (hi : interlocked s a = true) (hx : xfConfigured s = true) (hl : s.lockWait = 0)
    (hn : portOf (region s a) = some n)
    (h : portStart s n = .error w ∨ (∃ d, portStart s n = .ok d ∧ d ≠ s.elapsed) ∧ w = .stall n.wait) :
    interlockedLoad m fin s = .error w := by
  have route : lockRegion s a = region s a := if_neg fun ⟨h0, _⟩ => h0 hl
  have read : lockedRead n a s = .error w := by
    rw [lockedRead, if_neg (not_not_intro hl)]
    rcases h with h | ⟨⟨d, h, hd⟩, rfl⟩
    · exact bind_error h
    · exact bind_ok_error h (if_pos hd)
  have loads : lockedLoad a s = .error w := by
    unfold lockedLoad
    rw [route, hn]
    exact read
  refine bind_ok_error hm ?_
  dsimp only
  rw [route, show (region s a).interlocked = true from hi, hx]
  exact bind_error loads

/-- On-chip RAM, and the ROM where no interlocked load waits, take no XF0 (R506). -/
theorem lockRegion_onChip (h : region s a = .ram ∨ region s a = .rom ∧ s.lockWait = 0) :
    (lockRegion s a).interlocked = false := by
  unfold lockRegion
  rcases h with h | ⟨h, hl⟩
  · split
    · next hw =>
      obtain ⟨-, low⟩ := hw
      unfold region at h
      rw [if_pos low] at h
      split at h <;> cases h
    · rw [h]; rfl
  · rw [if_neg fun ⟨h0, _⟩ => h0 hl, h]; rfl

/-- An interlocked store whose store cannot be made; while its bus is held no interrupt is taken (R504). -/
theorem interlockedStore_error {m : MemOp} {word : State → Word} (hm : memAddr m s = .ok (a, s₁))
    (hi : interlocked s a = true) (hx : xfConfigured s = true)
    (h : store a (word (latchXf0 true s₁)) (latchXf0 true s₁) = .error w) :
    interlockedStore m word s = .error (if w = .stall .held then .stall .heldStore else w) := by
  obtain ⟨ar, rfl⟩ := memAddr_cases hm
  refine bind_ok_error hm ?_
  dsimp only
  rw [show interlocked { s with ar := ar } a = true from hi, hx, if_pos rfl, if_neg (by decide), h]
  cases w with
  | stall x => cases x <;> rfl
  | _ => rfl

/-! ## Parallel instructions -/

/-- Two loads, of which the first or the second cannot be made. -/
theorem loadPair_error {a b : Addr}
    (h : readFirst (offChip s a) b a s = .error w ∨
      readFirst (offChip s a) b a s = .ok (v, s₂) ∧ readOperand [] b s₂ = .error w) : loadPair a b s = .error w := by
  rcases h with h | ⟨h, hb⟩
  · exact bind_error h
  · exact bind_ok_error h (bind_error hb)

/-- The two loads of a parallel multiply, in either order (R850). -/
theorem loadMul_error
    (h : if offChip s a1 && !offChip s a2 then
        readFirst true a1 a2 s = .error w ∨ readFirst true a1 a2 s = .ok (v, s₂) ∧ readOperand [] a1 s₂ = .error w
      else readFirst (offChip s a1) a2 a1 s = .error w ∨
        readFirst (offChip s a1) a2 a1 s = .ok (v, s₂) ∧ readOperand [] a2 s₂ = .error w) :
    loadMul a1 a2 s = .error w := by
  unfold loadMul
  by_cases hc : (offChip s a1 && !offChip s a2) = true
  · rw [if_pos hc] at h ⊢
    rcases h with h | ⟨h, hb⟩
    · exact bind_error h
    · exact bind_ok_error h (bind_error hb)
  · rw [if_neg hc] at h ⊢
    exact loadPair_error h

/-- Two parallel loads. -/
theorem twoLoads_waits {hi lo : Ind Unit} (hp : indirectPair hi lo s = .ok (a1, a2, s₁))
    (h : readFirst (offChip s₁ a1) a2 a1 s₁ = .error w ∨
      readFirst (offChip s₁ a1) a2 a1 s₁ = .ok (v, s₂) ∧ readOperand [] a2 s₂ = .error w) (f g : FReg) :
    Waits (.ldf_ldf f g hi lo) s w ∧ Waits (.ldi_ldi f g hi lo) s w :=
  ⟨waits_of_then rfl hp (bind_error (loadPair_error h)), waits_of_then rfl hp (bind_error (loadPair_error h))⟩

/-- The parallel multiplies. -/
theorem parallel_waits {hi lo : Ind Unit} (hp : indirectPair hi lo s = .ok (a1, a2, s₁))
    (h : loadMul a1 a2 s₁ = .error w) (p : BitVec 2) (d1 d2 : BitVec 1) (f g : FReg) :
    ∀ i ∈ [Instr.mpyf3_addf3 p d1 d2 f g hi lo, .mpyf3_subf3 p d1 d2 f g hi lo, .mpyi3_addi3 p d1 d2 f g hi lo,
      .mpyi3_subi3 p d1 d2 f g hi lo], Waits i s w := by
  simp only [List.forall_mem_cons, List.not_mem_nil, false_implies, implies_true, and_true]
  and_intros <;> exact waits_of_then rfl hp (bind_error h)

/-- Two parallel stores. -/
theorem twoStores_error {hi lo : Ind Unit} {v1 v2 : Word} (hp : indirectPair hi lo s = .ok (a1, a2, s₁))
    (h : storeWith [a2] a1 v1 s₁ = .error w ∨
      storeWith [a2] a1 v1 s₁ = .ok s₂ ∧ storeSecond a1 a2 v2 s₂ = .error w) : twoStores v1 v2 hi lo s = .error w := by
  refine bind_ok_error hp ?_
  rcases h with h | ⟨h, hb⟩
  · exact bind_error h
  · exact bind_ok_error h (bind_error hb)

/-- An operation with a parallel store, of which the read or the store cannot be made. -/
theorem withStore_error {op : Word → State → Word × (State → State)} {hi lo : Ind Unit} {x : Word}
    (hp : indirectPair hi lo s = .ok (a1, a2, s₁)) (hx : ∀ m t, t.r = s.r → (op m t).1 = x)
    (h : readOperand [] a2 s₁ = .error w ∨ readOperand [] a2 s₁ = .ok (v, s₂) ∧ storeLater a1 x s₂ = .error w) :
    withStore op hi lo s = .error w := by
  refine bind_ok_error hp ?_
  rcases h with h | ⟨h, hs⟩
  · exact bind_error h
  · obtain ⟨ar, rfl⟩ := indirectPair_cases hp
    have regs : s₂.r = s.r := (congrArg State.r (readOperand_work h).1 :)
    rw [← hx v s₂ regs] at hs
    exact bind_ok_error h (bind_error hs)

theorem readExt_of_r {t : State} (h : t.r = s.r) (n : FReg) : readExt n t = readExt n s := by
  unfold readExt; rw [h]

theorem readInt_of_r {t : State} (h : t.r = s.r) (n : FReg) : readInt n t = readInt n s := by
  unfold readInt; rw [h]

theorem fltStf_waits {hi lo : Ind Unit} {h : FReg} (hp : indirectPair hi lo s = .ok (a1, a2, s₁))
    (he : readOperand [] a2 s₁ = .error w ∨
      readOperand [] a2 s₁ = .ok (v, s₂) ∧ storeLater a1 ((readExt h s).extractLsb' 8 32) s₂ = .error w) (f g : FReg) :
    ∀ i ∈ [Instr.absf_stf f h hi lo, .addf3_stf f g h hi lo, .float_stf f h hi lo, .ldf_stf f h hi lo,
      .mpyf3_stf f g h hi lo, .negf_stf f h hi lo, .subf3_stf f g h hi lo], Waits i s w := by
  have word : ∀ t : State, t.r = s.r → fstore (readExt h t) = (readExt h s).extractLsb' 8 32 :=
    fun t ht => congrArg fstore (readExt_of_r ht h)
  simp only [List.forall_mem_cons, List.not_mem_nil, false_implies, implies_true, and_true]
  and_intros <;> exact waits_of_error rfl (withStore_error hp (fun _ => word) he)

theorem intSti_waits {hi lo : Ind Unit} {h : FReg} (hp : indirectPair hi lo s = .ok (a1, a2, s₁))
    (he : readOperand [] a2 s₁ = .error w ∨
      readOperand [] a2 s₁ = .ok (v, s₂) ∧ storeLater a1 (readInt h s) s₂ = .error w) (f g : FReg) :
    ∀ i ∈ [Instr.absi_sti f h hi lo, .addi3_sti f g h hi lo, .and3_sti f g h hi lo, .ash3_sti f g h hi lo,
      .fix_sti f h hi lo, .ldi_sti f h hi lo, .lsh3_sti f g h hi lo, .mpyi3_sti f g h hi lo, .negi_sti f h hi lo,
      .not_sti f h hi lo, .or3_sti f g h hi lo, .subi3_sti f g h hi lo, .xor3_sti f g h hi lo], Waits i s w := by
  simp only [List.forall_mem_cons, List.not_mem_nil, false_implies, implies_true, and_true]
  and_intros <;> exact waits_of_error rfl (withStore_error hp (fun _ t ht => readInt_of_r ht h) he)

end Sys2Proof.Machine
end

section
/-! The claim on waiting (O12). -/
namespace Sys2Proof.Machine

/-- The wait states of R668, with the ready condition written out by the fields of the control register. -/
theorem portWait_iff_readyBy (s : State) (p : PortName) (waits t n : Nat) :
    let ready (j : Nat) : Bool := readyBy ((portCtl s p).extractLsb' 3 2).toNat
      (!p.pin (pinsIn s (t + j)) && decide (waits ≤ j)) (decide (((portCtl s p).extractLsb' 5 3).toNat ≤ j))
    portWait s p waits t = some n ↔
      ready n = true ∧ (∀ j < n, ready j = false) ∧ ∀ j ≤ n, (pinsIn s (t + j)).reset = true := by
  simp only [portWait_eq_some, FirstAt, readyAt_eq, and_assoc]

section
variable {s s₁ : State} {w : Stop} {a : Addr}

/-- Interlocked accesses off chip, with XF0 and XF1 configured (R500, R501, R504). -/
theorem interlocked_waits {m : MemOp} (hm : memAddr m s = .ok (a, s₁)) (hi : interlocked s a = true)
    (out : s.iof.getLsbD 1 = true) (inp : s.iof.getLsbD 5 = false) (r dst : Reg) (f : FReg) :
    (∀ n, s.lockWait = 0 → portOf (region s a) = some n →
      portStart s n = .error w ∨ (∃ d, portStart s n = .ok d ∧ d ≠ s.elapsed) ∧ w = .stall n.wait →
      Waits (.ldfi m f) s w ∧ Waits (.ldii m dst) s w) ∧
    (store a (readReg r { s₁ with iof := setBit s₁.iof 2 true }) { s₁ with iof := setBit s₁.iof 2 true } = .error w →
      Waits (.stii r m) s (if w = .stall .held then .stall .heldStore else w)) ∧
    (store a ((readExt f s₁).extractLsb' 8 32) { s₁ with iof := setBit s₁.iof 2 true } = .error w →
      Waits (.stfi f m) s (if w = .stall .held then .stall .heldStore else w)) := by
  have hx : xfConfigured s = true := by rw [xfConfigured, out, inp]; rfl
  refine ⟨fun n hl hn h => ⟨?_, ?_⟩, fun h => ?_, fun h => ?_⟩
  · exact waits_of_error rfl (interlockedLoad_port hm hi hx hl hn h)
  · exact waits_of_error rfl (interlockedLoad_port hm hi hx hl hn h)
  · exact waits_of_error rfl (interlockedStore_error hm hi hx h)
  · exact waits_of_error rfl (interlockedStore_error (word := fun t => fstore (readExt f t)) hm hi hx h)

end

/-- Settles O12: each clause of an access from the rules of the port it goes over, and each instruction from the access
that its computation begins with or comes to. -/
theorem busNotReadyWaits : Obligations.BusNotReadyWaits := by
  unfold Obligations.BusNotReadyWaits
  refine ⟨fun s a v ha hd hp => ?_, portWait_iff_readyBy, fun s => holdaPin_idle, ?_⟩
  · have lead := readLead_primary ha s.elapsed
    rw [followsWrite_primary] at lead
    exact primaryAccess_waits s a v ha hd hp lead
  intro s w src dst r fsrc f g h m c x y fx fy p d1 d2 hi lo k t a a1 a2 v s₁ s₂
  refine ⟨fun e => srcInt_waits e dst f c, fun e => srcUns_waits e dst, fun e => srcFlt_waits e dst f c,
    waits_of_first rfl, fun e => srcPairInt_waits e dst, fun e => srcPairFlt_waits e f,
    fun e => ⟨?_, ?_, return_waits e⟩, waits_of_first rfl, waits_of_first rfl, fun e => ⟨?_, fun hc => ?_⟩, fun hc e => ?_,
    fun hm => ⟨fun e => ?_, ?_, ?_, ?_⟩,
    fun hp => ⟨fun e => twoLoads_waits hp e f g, fun e => parallel_waits hp (loadMul_error e) p d1 d2 f g, ?_, ?_,
      fun e => fltStf_waits hp e f g, fun e => intSti_waits hp e f g⟩⟩
  · exact waits_of_first rfl (pop_error e)
  · exact waits_of_first rfl (pop_error e)
  · exact waits_of_error rfl (callTo_error e)
  · exact waits_of_error rfl ((if_pos hc).trans (callTo_error e))
  · exact waits_of_error rfl ((if_pos hc).trans (takeTrap_error e))
  · obtain ⟨waits, pulse⟩ := execIack_waits hm e
    refine ⟨fun i hi => ?_, waits, pulse, fun hr => ⟨?_, ?_⟩⟩
    · subst hi
      exact waits_of_first rfl (memSrc_error hm e)
    · exact waits_of_error rfl (interlockedLoad_onChip hm (lockRegion_onChip hr) e)
    · exact waits_of_error rfl (interlockedLoad_onChip hm (lockRegion_onChip hr) e)
  · exact fun e => waits_of_then rfl hm (bind_error e)
  · exact fun e => waits_of_then rfl hm (bind_error e)
  · exact fun hi out inp => interlocked_waits hm hi out inp r dst f
  · exact fun e => waits_of_error rfl (twoStores_error hp e)
  · exact fun e => waits_of_error rfl (twoStores_error hp e)

end Sys2Proof.Machine
end

section
/-! The device and its ROM, kept by each shared operation and each shape of instruction (R7, R84). -/
namespace Sys2Proof.Machine

/-! ## What the claim speaks of -/

/-- The device and the contents of its ROM. -/
def board (s : State) : Device × List Word := (s.device, s.rom)

/-- Every state a computation completes with has the device and the ROM `b`. -/
def OkBoard (b : Device × List Word) (x : Except Stop State) : Prop := ∀ t, x = .ok t → board t = b

/-- Every next state of an outcome has the device and the ROM `b`. -/
def NextBoard (b : Device × List Word) (x : Host.Outcome State Fault Refusal) : Prop := ∀ t, x = .next t → board t = b

section
variable {b : Device × List Word} {s t u : State}

theorem board_of_cpu (h : cpuPart t = cpuPart s) : board t = board s := (congrArg board h :)

theorem board_of_load (h : loadPart t = loadPart s) : board t = board s := (congrArg board h :)

/-- The units' work keeps the device and the ROM. -/
theorem UnitsWork.board (h : UnitsWork s t) (hs : board s = b) : Machine.board t = b := (board_of_cpu h.1).trans hs

/-- Reading operands keeps them. -/
theorem Fetched.board (h : Fetched s t) (hs : board s = b) : Machine.board t = b := by
  obtain ⟨v, hwork, -⟩ := h
  exact hwork.board hs

/-! ## Computations and outcomes -/

theorem okBoard_ok (h : board t = b) : OkBoard b (.ok t) := fun _ e => Except.ok.inj e ▸ h

theorem okBoard_error (e : Stop) : OkBoard b (.error e) := fun _ h => nomatch h

theorem okBoard_ite {c : Prop} [Decidable c] {x y : Except Stop State} (hx : OkBoard b x) (hy : OkBoard b y) :
    OkBoard b (if c then x else y) := by
  split
  · exact hx
  · exact hy

theorem okBoard_bind {α : Type} {x : Except Stop α} {f : α → Except Stop State} (h : ∀ a, x = .ok a → OkBoard b (f a)) :
    OkBoard b (x >>= f) := fun t ht => by
  obtain ⟨a, ha, hf⟩ := bind_eq_ok.mp ht
  exact h a ha t hf

theorem nextBoard_next (h : board t = b) : NextBoard b (.next t) := fun _ e => Host.Outcome.next.inj e ▸ h

theorem nextBoard_fault (r : Fault) : NextBoard b (.fault r) := nomatch r

theorem nextBoard_refused (r : Refusal) : NextBoard b (.refused r) := fun _ h => nomatch h

theorem nextBoard_ite {c : Prop} [Decidable c] {x y : Host.Outcome State Fault Refusal} (hx : NextBoard b x)
    (hy : NextBoard b y) : NextBoard b (if c then x else y) := by
  split
  · exact hx
  · exact hy

/-- A machine that waits keeps them. -/
theorem stop_nextBoard (hs : board s = b) (e : Stop) : NextBoard b (stop s e) := fun t h => by
  rcases stop_eq_next.mp h with ⟨w, -, rfl⟩ | ⟨p, c, -, rfl⟩
  · exact hs
  · exact (board_of_load (loadPart_addCycle c _ p)).trans hs

theorem outcome_nextBoard (hs : board s = b) {x : Except Stop State} (hx : OkBoard b x) : NextBoard b (outcome s x) :=
  fun t h => by
    rcases outcome_eq_next.mp h with h | ⟨e, -, h⟩
    · exact hx t h
    · exact stop_nextBoard hs e t h

/-! ## Shared operations -/

theorem board_writeReg {q : Reg} {v : Word} (h : writeReg q v s = .ok t) : board t = board s := by
  obtain ⟨r, ar, dp, ir0, ir1, bk, sp, st, ie, ifr, iof, rs, re, rc, c, g, l, o, w, x, rfl⟩ := writeReg_changes h
  rfl

theorem board_deliver {dst : Reg} {e : Effect Word} (h : deliver dst e s = .ok t) : board t = board s := by
  obtain ⟨u, hu, rfl⟩ := deliver_cases h
  have written : board u = board s := board_writeReg hu
  split <;> exact written

theorem okBoard_writeReg (hs : board s = b) {q : Reg} {v : Word} : OkBoard b (writeReg q v s) :=
  fun _ h => (board_writeReg h).trans hs

theorem okBoard_deliver (hs : board s = b) {dst : Reg} {e : Effect Word} : OkBoard b (deliver dst e s) :=
  fun _ h => (board_deliver h).trans hs

theorem board_memAddr {m : MemOp} {a : Addr} (h : memAddr m s = .ok (a, t)) : board t = board s := by
  obtain ⟨v, rfl⟩ := memAddr_cases h
  rfl

theorem board_indirectPair {hi lo : Ind Unit} {a1 a2 : Addr} (h : indirectPair hi lo s = .ok (a1, a2, t)) :
    board t = board s := by
  obtain ⟨v, rfl⟩ := indirectPair_cases h
  rfl

theorem okBoard_storeWith (hs : board s = b) {l : List Addr} {a : Addr} {v : Word} : OkBoard b (storeWith l a v s) :=
  fun _ h => (storeWith_work h).board hs

theorem okBoard_push (hs : board s = b) {v : Word} : OkBoard b (push v s) :=
  okBoard_storeWith (s := { s with sp := s.sp + 1 }) hs

theorem board_pop {w : Word} (hs : board s = b) (h : pop s = .ok (w, t)) : board t = b := by
  obtain ⟨u, hu, rfl⟩ := pop_cases h
  exact (load_work hu).board hs

/-- The last step of an instruction: the PC moves on. -/
theorem okBoard_advance {x : Except Stop State} (hx : OkBoard b x) : OkBoard b (x >>= fun t => pure (advance t)) :=
  okBoard_bind fun t ht => okBoard_ok (hx t ht)

theorem okBoard_enterException (hs : board s = b) {v ret : Addr} : OkBoard b (enterException v ret s) := fun t h => by
  obtain ⟨s1, w, s2, hpush, hload, rfl⟩ := enterException_cases h
  have pushed : board s1 = b := okBoard_push (s := setGie false s) hs s1 hpush
  exact (board_of_load (loadFor_keeps hload)).trans pushed

theorem okBoard_popPc (hs : board s = b) : OkBoard b (popPc s) := fun t h => by
  obtain ⟨w, u, hu, rfl⟩ := popPc_cases h
  exact (load_work hu).board hs

theorem okBoard_returnFromException (hs : board s = b) : OkBoard b (returnFromException s) := fun t h => by
  obtain ⟨w, u, hu, rfl⟩ := returnFromException_cases h
  exact (load_work hu).board hs

end

end Sys2Proof.Machine
end

section
/-! The device and its ROM, kept by every instruction: one lemma per shape, then the instructions by their shape. -/
namespace Sys2Proof.Machine

section
variable {b : Device × List Word} {s : State}

/-! ## Operations that deliver a result -/

/-- The general form on an integer destination. -/
theorem twoInt_nextBoard (hs : board s = b) {get : Src Reg → State → Except Stop (Word × State)}
    {op : Word → Word → Word → Effect Word} {src : Src Reg} {dst : Reg}
    (hget : ∀ {w t}, get src s = .ok (w, t) → Fetched s t) : NextBoard b (outcome s (twoInt get op src dst s)) :=
  outcome_nextBoard hs (okBoard_bind fun _ ha => okBoard_advance (okBoard_deliver ((hget ha).board hs)))

/-- The general form on a floating-point destination. -/
theorem twoFlt_nextBoard (hs : board s = b) {op : Ext → Ext → Effect Ext} {src : Src FReg} {dst : FReg} :
    NextBoard b (outcome s (twoFlt op src dst s)) :=
  outcome_nextBoard hs (okBoard_bind fun _ ha => okBoard_ok ((srcExt_fetched ha).board hs))

/-- The three-operand form on an integer destination. -/
theorem threeInt_nextBoard (hs : board s = b) {op : Word → Word → Word → Effect Word} {x y : Src3 Reg} {dst : Reg} :
    NextBoard b (outcome s (threeInt op x y dst s)) :=
  outcome_nextBoard hs (okBoard_bind fun _ ha => okBoard_advance (okBoard_deliver ((srcPair_fetched ha).board hs)))

/-- The three-operand form on a floating-point destination. -/
theorem threeFlt_nextBoard (hs : board s = b) {op : Ext → Ext → Effect Ext} {x y : Src3 FReg} {dst : FReg} :
    NextBoard b (outcome s (threeFlt op x y dst s)) :=
  outcome_nextBoard hs (okBoard_bind fun _ ha => okBoard_ok ((srcPair_fetched ha).board hs))

/-- One register, read and written. -/
theorem oneInt_nextBoard (hs : board s = b) {op : Word → Word → Effect Word} {dst : Reg} :
    NextBoard b (outcome s (oneInt op dst s)) := outcome_nextBoard hs (okBoard_advance (okBoard_deliver hs))

/-- An operation with a parallel store. -/
theorem withStore_nextBoard (hs : board s = b) {op : Word → State → Word × (State → State)} {dst2 src2 : Ind Unit}
    (hop : ∀ w u v, board ((op w u).2 v) = board v) : NextBoard b (outcome s (withStore op dst2 src2 s)) :=
  outcome_nextBoard hs <| okBoard_bind fun _ ha => okBoard_bind fun _ hw => okBoard_bind fun s3 hs3 => okBoard_ok <| by
    have addressed := (board_indirectPair ha).trans hs
    have stored : board s3 = b := (storeLater_work hs3).board ((readOperand_work hw).board addressed)
    exact (hop _ _ s3).trans stored

theorem intSti_nextBoard (hs : board s = b) {op : Word → State → Effect Word} {dst1 src3 : FReg} {dst2 src2 : Ind Unit} :
    NextBoard b (outcome s (intSti op dst1 src3 dst2 src2 s)) := withStore_nextBoard hs fun _ _ _ => rfl

theorem fltStf_nextBoard (hs : board s = b) {op : Ext → State → Effect Ext} {dst1 src3 : FReg} {dst2 src2 : Ind Unit} :
    NextBoard b (outcome s (fltStf op dst1 src3 dst2 src2 s)) := withStore_nextBoard hs fun _ _ _ => rfl

theorem parallelFlt_nextBoard (hs : board s = b) {add : Ext → Ext → FResult} {p : BitVec 2} {d1 d2 : BitVec 1}
    {src1 src2 : FReg} {src3 src4 : Ind Unit} :
    NextBoard b (outcome s (parallelFlt add p d1 d2 src1 src2 src3 src4 s)) :=
  outcome_nextBoard hs <| okBoard_bind fun _ ha => okBoard_bind fun _ hm =>
    okBoard_ok (((Fetched.refl _).loadMul hm).board ((board_indirectPair ha).trans hs))

theorem parallelInt_nextBoard (hs : board s = b) {add : Int → Int → Int} {p : BitVec 2} {d1 d2 : BitVec 1}
    {src1 src2 : FReg} {src3 src4 : Ind Unit} :
    NextBoard b (outcome s (parallelInt add p d1 d2 src1 src2 src3 src4 s)) :=
  outcome_nextBoard hs <| okBoard_bind fun _ ha => okBoard_bind fun _ hm =>
    okBoard_ok (((Fetched.refl _).loadMul hm).board ((board_indirectPair ha).trans hs))

theorem execLdfLdf_nextBoard (hs : board s = b) {dst2 dst1 : FReg} {src1 src2 : Ind Unit} :
    NextBoard b (execLdfLdf dst2 dst1 src1 src2 s) :=
  outcome_nextBoard hs <| okBoard_bind fun _ ha => okBoard_bind fun _ hm =>
    okBoard_ok (((Fetched.refl _).loadPair hm).board ((board_indirectPair ha).trans hs))

theorem execLdiLdi_nextBoard (hs : board s = b) {dst2 dst1 : FReg} {src1 src2 : Ind Unit} :
    NextBoard b (execLdiLdi dst2 dst1 src1 src2 s) :=
  outcome_nextBoard hs <| okBoard_bind fun _ ha => okBoard_bind fun _ hm =>
    okBoard_ok (((Fetched.refl _).loadPair hm).board ((board_indirectPair ha).trans hs))

/-! ## Compares, conversions and conditional loads -/

/-- An instruction that reads an integer or logical source and then finishes. -/
theorem srcWord_nextBoard (hs : board s = b) {ext : BitVec 16 → Word} {x : Src Reg} {f : Word × State → Except Stop State}
    (hf : ∀ w u, board u = b → OkBoard b (f (w, u))) : NextBoard b (outcome s (srcWord ext x s >>= f)) :=
  outcome_nextBoard hs (okBoard_bind fun a ha => hf a.1 a.2 ((srcWord_fetched ha).board hs))

/-- An instruction that reads a floating-point source and then finishes. -/
theorem srcExt_nextBoard (hs : board s = b) {mem : Word → Ext} {imm : BitVec 16 → Ext} {x : Src FReg}
    {f : Ext × State → Except Stop State} (hf : ∀ v u, board u = b → OkBoard b (f (v, u))) :
    NextBoard b (outcome s (srcExt mem imm x s >>= f)) :=
  outcome_nextBoard hs (okBoard_bind fun a ha => hf a.1 a.2 ((srcExt_fetched ha).board hs))

/-- A compare of two three-operand sources. -/
theorem srcPair_nextBoard (hs : board s = b) {ρ α : Type} {reg : ρ → State → α} {mem : Word → α} {p q : Src3 ρ}
    {f : α × α × State → Except Stop State} (hf : ∀ x y u, board u = b → OkBoard b (f (x, y, u))) :
    NextBoard b (outcome s (srcPair reg mem p q s >>= f)) :=
  outcome_nextBoard hs (okBoard_bind fun a ha => hf a.1 a.2.1 a.2.2 ((srcPair_fetched ha).board hs))

theorem execLdiCond_nextBoard (hs : board s = b) {c : Cond} {src : Src Reg} {dst : Reg} :
    NextBoard b (execLdiCond c src dst s) :=
  srcWord_nextBoard hs fun _ _ hu =>
    okBoard_ite (okBoard_advance (okBoard_writeReg hu)) (okBoard_advance (okBoard_ok hu))

theorem execLdfCond_nextBoard (hs : board s = b) {c : Cond} {src : Src FReg} {dst : FReg} :
    NextBoard b (execLdfCond c src dst s) :=
  srcExt_nextBoard hs fun _ _ hu => okBoard_ok <| by split <;> exact hu

/-! ## Stores and the stack -/

theorem execStf_nextBoard (hs : board s = b) {src : FReg} {dst : MemOp} : NextBoard b (execStf src dst s) :=
  outcome_nextBoard hs (okBoard_bind fun _ ha => okBoard_advance (okBoard_storeWith ((board_memAddr ha).trans hs)))

theorem execSti_nextBoard (hs : board s = b) {src : Reg} {dst : MemOp} : NextBoard b (execSti src dst s) :=
  outcome_nextBoard hs (okBoard_bind fun _ ha => okBoard_advance (okBoard_storeWith ((board_memAddr ha).trans hs)))

theorem execPop_nextBoard (hs : board s = b) {dst : Reg} : NextBoard b (execPop dst s) :=
  outcome_nextBoard hs (okBoard_bind fun _ hp => okBoard_advance (okBoard_deliver (board_pop hs hp)))

theorem execPopf_nextBoard (hs : board s = b) {dst : FReg} : NextBoard b (execPopf dst s) :=
  outcome_nextBoard hs <| okBoard_bind fun ⟨_, u⟩ hp => okBoard_ok <| by
    have popped : board u = b := board_pop hs hp
    exact popped

theorem twoStores_nextBoard (hs : board s = b) {v1 v2 : Word} {dst1 dst2 : Ind Unit} :
    NextBoard b (outcome s (twoStores v1 v2 dst1 dst2 s)) :=
  outcome_nextBoard hs <| okBoard_bind fun _ ha => okBoard_bind fun s2 hs2 => okBoard_bind fun s3 hs3 => okBoard_ok <| by
    have first : board s2 = b := okBoard_storeWith ((board_indirectPair ha).trans hs) s2 hs2
    exact (storeSecond_work hs3).board first

/-! ## Program control -/

theorem board_branchIf (taken : Bool) (target : Addr) (s : State) : board (branchIf taken target s) = board s := by
  unfold branchIf
  split <;> rfl

theorem board_falseTrap (s : State) : board (falseTrap s) = board s := by
  unfold falseTrap
  split <;> rfl

theorem okBoard_callTo (hs : board s = b) {target : State → Addr} : OkBoard b (callTo target s) :=
  okBoard_bind fun u hu => okBoard_ok (okBoard_push hs u hu)

theorem execCallCond_nextBoard (hs : board s = b) {c : Cond} {t : Target} : NextBoard b (execCallCond c t s) :=
  outcome_nextBoard hs (okBoard_ite (okBoard_callTo hs) (okBoard_ok hs))

theorem execTrapCond_nextBoard (hs : board s = b) {c : Cond} {n : BitVec 5} : NextBoard b (execTrapCond c n s) :=
  outcome_nextBoard hs (okBoard_ite (okBoard_enterException hs) (okBoard_ok ((board_falseTrap s).trans hs)))

theorem execRetiCond_nextBoard (hs : board s = b) {c : Cond} : NextBoard b (execRetiCond c s) :=
  outcome_nextBoard hs (okBoard_ite (okBoard_returnFromException hs) (okBoard_ok hs))

theorem execRetsCond_nextBoard (hs : board s = b) {c : Cond} : NextBoard b (execRetsCond c s) :=
  outcome_nextBoard hs (okBoard_ite (okBoard_popPc hs) (okBoard_ok hs))

theorem execIack_nextBoard (hs : board s = b) {src : MemOp} : NextBoard b (execIack src s) := by
  unfold execIack
  split
  · exact stop_nextBoard hs _
  · next ha =>
    split
    · next hload => exact nextBoard_next ((load_work hload).board ((board_memAddr ha).trans hs))
    · next p c _ => exact stop_nextBoard (s := { s with iack := some { start := c.start, addr := _ } }) hs _
    · exact stop_nextBoard hs _
    · exact stop_nextBoard hs _

theorem execNop_nextBoard (hs : board s = b) {src : NopOp} : NextBoard b (execNop src s) := by
  cases src with
  | none => exact nextBoard_next hs
  | ind i => exact outcome_nextBoard hs (okBoard_bind fun _ hm => okBoard_ok ((memSrc_fetched hm).board hs))

/-! ## Interlocked instructions -/

theorem board_beginRead (p : PortName) (c : BusCycle) (s : State) : board (beginRead p c s) = board s :=
  board_of_load (loadPart_beginRead p c s)

/-- A cycle of an interlocked read sets XF0 and the account of its wait (R501). -/
theorem board_lockedCycle {t : State} {p : PortName} {a : Addr} {age : Nat} {o : Option Word}
    (h : lockedCycle p a age s = (o, t)) : board t = board s := by
  unfold lockedCycle at h
  dsimp only at h
  split at h
  · cases h
    cases p <;> rfl
  · cases h
    rfl

theorem board_lockedRead {t : State} {p : PortName} {a : Addr} {o : Option Word} (h : lockedRead p a s = .ok (o, t)) :
    board t = board s := by
  unfold lockedRead at h
  split at h
  · exact board_lockedCycle (Except.ok.inj h)
  · obtain ⟨n, -, h⟩ := bind_eq_ok.mp h
    split at h
    · cases h
    · dsimp only [pure_eq_ok] at h
      split at h
      · exact (board_lockedCycle (Except.ok.inj h)).trans (board_beginRead p _ s)
      · cases h
        exact board_beginRead p _ s

theorem board_lockedPeripheral {t : State} {a : Addr} {o : Option Word} (h : lockedPeripheral a s = .ok (o, t)) :
    board t = board s := by
  obtain ⟨n, -, h⟩ := bind_eq_ok.mp h
  split at h
  · cases h
  split at h
  · obtain ⟨⟨w, s1⟩, hload, h⟩ := bind_eq_ok.mp h
    cases h
    have loaded : board s1 = board (latchXf0 false s) := board_of_load (loadFor_keeps hload)
    exact loaded
  · cases h
    exact board_of_load (s := waitForXf1 s) (loadPart_noteOnChip ..)

theorem board_lockedLoad {t : State} {a : Addr} {o : Option Word} (h : lockedLoad a s = .ok (o, t)) :
    board t = board s := by
  unfold lockedLoad at h
  split at h
  · exact board_lockedRead h
  · exact board_lockedPeripheral h

/-- An interlocked load, whatever its destination does. -/
theorem interlockedLoad_nextBoard (hs : board s = b) {src : MemOp} {fin : Word → State → Except Stop State}
    (hfin : ∀ w u, board u = b → OkBoard b (fin w u)) : NextBoard b (outcome s (interlockedLoad src fin s)) :=
  outcome_nextBoard hs <| okBoard_bind fun ⟨a, s1⟩ ha => by
    have addressed : board s1 = b := (board_memAddr ha).trans hs
    refine okBoard_ite (okBoard_ite (okBoard_error _) (okBoard_bind fun ⟨o, t⟩ ho => ?_))
      (okBoard_bind fun _ hw => okBoard_advance (hfin _ _ ((load_work hw).board addressed)))
    have read : board t = b := (board_lockedLoad ho).trans hs
    cases o with
    | none => exact okBoard_ok read
    | some w =>
      intro v hv
      obtain ⟨u, hu, rfl⟩ := map_eq_ok.mp hv
      exact hfin w { t with ar := s1.ar } read u hu

theorem interlockedStore_nextBoard (hs : board s = b) {dst : MemOp} {word : State → Word} :
    NextBoard b (outcome s (interlockedStore dst word s)) :=
  outcome_nextBoard hs <| okBoard_bind fun ⟨a, s1⟩ ha => by
    have addressed : board s1 = b := (board_memAddr ha).trans hs
    refine okBoard_ite (okBoard_ite (okBoard_error _) ?_) (okBoard_advance (okBoard_storeWith addressed))
    split
    · next s2 hstore => exact okBoard_ok (okBoard_storeWith (s := latchXf0 true s1) addressed s2 hstore)
    · exact okBoard_error _
    · exact okBoard_error _

theorem execSigi_nextBoard (hs : board s = b) : NextBoard b (execSigi s) :=
  nextBoard_ite (nextBoard_refused _) (nextBoard_ite (nextBoard_next hs) (nextBoard_ite (nextBoard_next hs) (nextBoard_next hs)))

/-! ## Every instruction -/

/-- Every instruction keeps the device and the ROM. -/
theorem exec_nextBoard (hs : board s = b) (i : Instr) : NextBoard b (exec i s) := by
  cases i with
  -- two-operand integer and logical instructions
  | absi | addc | addi | and | andn | ash | ldi | lsh | mpyi | negb | negi | not | or | subb | subi | subrb | subri | xor =>
    exact twoInt_nextBoard hs srcWord_fetched
  | cmpi | tstb | float => exact srcWord_nextBoard hs fun _ _ hu => okBoard_ok hu
  | subc => exact srcWord_nextBoard hs fun _ _ hu => okBoard_advance (okBoard_writeReg hu)
  | ldiCond => exact execLdiCond_nextBoard hs
  | ldp => exact outcome_nextBoard hs (okBoard_advance (okBoard_deliver hs))
  | rol | rolc | ror | rorc => exact oneInt_nextBoard hs
  -- two-operand floating-point instructions, conversions
  | absf | addf | ldf | mpyf | negf | norm | rnd | subf | subrf => exact twoFlt_nextBoard hs
  | cmpf | lde | ldm => exact srcExt_nextBoard hs fun _ _ hu => okBoard_ok hu
  | fix => exact srcExt_nextBoard hs fun _ _ hu => okBoard_advance (okBoard_deliver hu)
  | ldfCond => exact execLdfCond_nextBoard hs
  -- three-operand instructions
  | addc3 | addi3 | and3 | andn3 | ash3 | lsh3 | mpyi3 | or3 | subb3 | subi3 | xor3 => exact threeInt_nextBoard hs
  | addf3 | mpyf3 | subf3 => exact threeFlt_nextBoard hs
  | cmpf3 | cmpi3 | tstb3 => exact srcPair_nextBoard hs fun _ _ _ hu => okBoard_ok hu
  -- stores, the stack, interlocked instructions
  | stf => exact execStf_nextBoard hs
  | sti => exact execSti_nextBoard hs
  | push | pushf => exact outcome_nextBoard hs (okBoard_advance (okBoard_push hs))
  | pop => exact execPop_nextBoard hs
  | popf => exact execPopf_nextBoard hs
  | ldfi => exact interlockedLoad_nextBoard hs fun _ _ hu => okBoard_ok hu
  | ldii => exact interlockedLoad_nextBoard hs fun _ _ hu => okBoard_deliver hu
  | stfi | stii => exact interlockedStore_nextBoard hs
  | sigi => exact execSigi_nextBoard hs
  -- program control
  | rpts => exact srcWord_nextBoard hs fun _ _ hu => okBoard_ok hu
  | iack => exact execIack_nextBoard hs
  | nop => exact execNop_nextBoard hs
  | rptb | idle | br | brd | bCondD | dbCondD => exact nextBoard_next hs
  | bCond | dbCond => exact nextBoard_next ((board_branchIf ..).trans hs)
  | idle2 | maxspeed | lopower => exact nextBoard_ite (nextBoard_next hs) (nextBoard_refused _)
  | swi => exact nextBoard_refused _
  | call => exact outcome_nextBoard hs (okBoard_callTo hs)
  | callCond => exact execCallCond_nextBoard hs
  | trapCond => exact execTrapCond_nextBoard hs
  | retiCond => exact execRetiCond_nextBoard hs
  | retsCond => exact execRetsCond_nextBoard hs
  -- parallel instructions
  | mpyf3_addf3 | mpyf3_subf3 => exact parallelFlt_nextBoard hs
  | mpyi3_addi3 | mpyi3_subi3 => exact parallelInt_nextBoard hs
  | stf_stf | sti_sti => exact twoStores_nextBoard hs
  | ldf_ldf => exact execLdfLdf_nextBoard hs
  | ldi_ldi => exact execLdiLdi_nextBoard hs
  | absf_stf | addf3_stf | mpyf3_stf | negf_stf | subf3_stf => exact fltStf_nextBoard hs
  | absi_sti | addi3_sti | and3_sti | ash3_sti | fix_sti | lsh3_sti | mpyi3_sti | negi_sti | not_sti | or3_sti | subi3_sti
  | xor3_sti => exact intSti_nextBoard hs
  | float_stf | ldf_stf | ldi_sti => exact withStore_nextBoard hs fun _ _ _ => rfl

end

end Sys2Proof.Machine
end

section
/-! The device and its ROM, kept by every step (O8): what surrounds an instruction, interrupts, reset (R602). -/
namespace Sys2Proof.Machine

section
variable {b : Device × List Word} {s t : State}

/-! ## After an instruction -/

theorem board_countPass {again : State} (h : board again = board s) (a : Addr) (count rc : Word) :
    board (countPass a count rc again s) = board s := by
  unfold countPass
  split
  · rfl
  · exact h

theorem board_decrementRc {again : State} (h : board again = board s) (a : Addr) :
    board (decrementRc a again s) = board s := by
  unfold decrementRc
  split
  · exact board_countPass h a _ _
  · split
    · exact board_countPass h a _ _
    · exact board_countPass h a _ _

/-- The repeat mode changes RC, RM, S and the PC (R642, R643). -/
theorem board_repeatUpdate (f : Flow) (a : Addr) (w : Word) (s : State) : board (repeatUpdate f a w s) = board s := by
  have counted : ∀ again : State, board again = board s → board (decrementRc a again { s with ir := none }) = board s :=
    fun _ h => board_decrementRc (s := { s with ir := none }) h a
  unfold repeatUpdate
  dsimp only
  split
  · rfl
  split
  · split
    · exact counted _ rfl
    split
    · exact counted _ rfl
    · rfl
  · rfl

theorem board_delayUpdate (o : Option Delayed) (s : State) : board (delayUpdate o s) = board s := by
  unfold delayUpdate
  split
  · rfl
  · split <;> rfl

theorem board_complete (f : Flow) (w : Word) (s t : State) : board (complete f w s t) = board t := by
  have updated : board (delayUpdate s.delay (repeatUpdate f s.pc w t)) = board t :=
    (board_delayUpdate ..).trans (board_repeatUpdate ..)
  unfold complete
  dsimp only
  split <;> exact updated

theorem board_retire (f : Flow) (w : Word) (s t : State) : board (retire f w s t) = board t := by
  unfold retire
  split
  · rfl
  · exact board_complete f w s t

/-! ## One instruction -/

/-- A computation that completes or waits (R93). -/
theorem conclude_nextBoard (hs : board s = b) {x : Except Stop State} (hx : OkBoard b x) : NextBoard b (conclude s x) :=
  fun t h => by
    rcases conclude_eq_next.mp h with h | ⟨e, u, -, hu, rfl⟩
    · exact hx t h
    · exact stop_nextBoard (s := ready s) hs e u hu

theorem board_fetch {w : Word} (h : fetch s = .ok (w, t)) : board t = board s := (congrArg board (fetch_keeps h) :)

/-- Fetch, decode and run. -/
theorem instruction_nextBoard (hs : board s = b) : NextBoard b (instruction s) := fun t h => by
  rcases instruction_eq_next h with ⟨w, u, i, hfetch, -, -, v, hexec, rfl⟩ | ⟨e, u, hstop, rfl⟩
  · have fetched : board u = b := (board_fetch hfetch).trans hs
    exact (board_retire ..).trans (exec_nextBoard fetched i v hexec)
  · exact stop_nextBoard (s := ready s) hs e u hstop

/-! ## Interrupts -/

theorem okBoard_takeInterrupt (hs : board s = b) (i : Nat) : OkBoard b (takeInterrupt i s) :=
  okBoard_enterException
    ((unitsWork_noteAck i { s with ifr := setBit s.ifr i false, idle := .running }).board hs)

theorem okBoard_enterInterrupt (hs : board s = b) (i : Nat) : OkBoard b (enterInterrupt i s) :=
  okBoard_bind fun t ht => okBoard_ok <| by
    have taken : board t = b := okBoard_takeInterrupt hs i t ht
    dsimp only
    split <;> exact taken

theorem enterStep_nextBoard (hs : board s = b) (i : Nat) : NextBoard b (enterStep i s) := by
  have entering : board { s with intWindow := some { index := i, left := 0, entering := true } } = b := hs
  exact conclude_nextBoard entering (okBoard_enterInterrupt hs i)

theorem afterAbandoned_nextBoard {x : Host.Outcome State Fault Refusal} (hx : NextBoard b x) (i : Nat) :
    NextBoard b (afterAbandoned i x) := by
  cases x with
  | next t => exact nextBoard_ite (nextBoard_next (hx t rfl)) (enterStep_nextBoard (hx t rfl) i)
  | fault e => exact nextBoard_fault e
  | refused r => exact nextBoard_refused r

theorem enterHere_nextBoard (hs : board s = b) (i : Nat) : NextBoard b (enterHere i s) :=
  nextBoard_ite (afterAbandoned_nextBoard (instruction_nextBoard (s := { s with abandon := true }) hs) i)
    (enterStep_nextBoard hs i)

theorem windowStep_nextBoard (hs : board s = b) (i left : Nat) : NextBoard b (windowStep i left s) := by
  have run : NextBoard b (instruction { s with intWindow := some { index := i, left := left, entering := false } }) :=
    instruction_nextBoard hs
  unfold windowStep
  split
  · next t ht => exact nextBoard_ite (enterHere_nextBoard hs i) (nextBoard_next (run t ht))
  · exact nextBoard_fault _
  · exact nextBoard_refused _

theorem recognise_nextBoard (hs : board s = b) : NextBoard b (recognise s) := by
  have answered : ∀ e : Env, board { s with env := e } = b := fun _ => hs
  unfold recognise
  dsimp only
  split
  · exact enterHere_nextBoard hs _
  · exact enterHere_nextBoard (answered _) _
  · exact windowStep_nextBoard (answered _) _ _

theorem heldBack_nextBoard (hs : board s = b) : NextBoard b (heldBack s) := by
  have answered : ∀ e : Env, board { s with env := e } = b := fun _ => hs
  unfold heldBack
  split
  · exact instruction_nextBoard hs
  · exact nextBoard_ite (instruction_nextBoard hs)
      (nextBoard_ite (windowStep_nextBoard (answered _) _ _) (instruction_nextBoard hs))

theorem unrecognised_nextBoard (hs : board s = b) : NextBoard b (unrecognised s) :=
  nextBoard_ite (instruction_nextBoard hs) (nextBoard_ite (recognise_nextBoard hs) (heldBack_nextBoard hs))

theorem recognised_nextBoard (hs : board s = b) (p : Recognised) : NextBoard b (recognised p s) :=
  nextBoard_ite (enterStep_nextBoard hs p.index) <| nextBoard_ite (enterHere_nextBoard hs p.index) <|
    nextBoard_ite (unrecognised_nextBoard hs) (windowStep_nextBoard hs p.index _)

/-! ## The CPU's part of a step, and reset -/

theorem idling_nextBoard (hs : board s = b) : NextBoard b (idling s) := by
  unfold idling
  split
  · exact nextBoard_next hs
  split
  · exact enterStep_nextBoard hs _
  split
  · exact enterStep_nextBoard hs _
  · exact nextBoard_next hs

theorem cpu_nextBoard (hs : board s = b) : NextBoard b (cpu s) := by
  unfold cpu
  split
  · exact idling_nextBoard hs
  split
  · exact recognised_nextBoard hs _
  · exact unrecognised_nextBoard hs

/-- Of all that reset loads, the device and its ROM come from before (R72, R84). -/
theorem board_resetState (s : State) : board (resetState s) = board s := by simp only [board, resetState]

theorem board_resetCycle (s : State) : board (resetCycle s) = board s := by
  have shared : board (masterCycle { s with elapsed := 0 }) = board s := (masterCycle_work _).board rfl
  have loaded : board (if s.resetLow = 0 then resetState (masterCycle { s with elapsed := 0 })
      else masterCycle { s with elapsed := 0 }) = board s := by
    split
    · exact (board_resetState _).trans shared
    · exact shared
  exact loaded

theorem okBoard_loadReset (hs : board s = b) : OkBoard b (loadReset s) := fun t h => by
  obtain ⟨⟨a, s1⟩, hvector, h⟩ := bind_eq_ok.mp h
  obtain ⟨⟨w, s2⟩, hload, hvector⟩ := bind_eq_ok.mp hvector
  cases hvector
  cases h
  exact (board_of_load (loadFor_keeps hload)).trans hs

/-! ## The step -/

theorem machineStep_nextBoard (hs : board s = b) : NextBoard b (machineStep s) := by
  unfold machineStep
  split
  · exact nextBoard_next ((board_resetCycle s).trans hs)
  split
  · exact nextBoard_refused _
  split
  · exact conclude_nextBoard hs (okBoard_error _)
  · next t ht =>
    have passed : board t = b := (passTime_work ht).board hs
    exact nextBoard_ite (nextBoard_next passed)
      (nextBoard_ite (conclude_nextBoard (s := boot t) passed (okBoard_loadReset passed)) (cpu_nextBoard passed))

end

/-- Settles O8: a reset cycle, the passing of time, the CPU's part of a step, and in it every instruction keep the device and
its ROM. -/
theorem romNeverChanges : Obligations.RomNeverChanges := fun _ t h => Prod.mk.inj (machineStep_nextBoard rfl t h)

end Sys2Proof.Machine
end

section
/-! PROOFS. The family of 30_encoding.md: the decoder gives back what the encoder wrote. -/
namespace Sys2Proof

/-! ## The form of a word: bits 31-29 (R141) -/

section
variable {w : Word}

theorem decode_general (form : w.extractLsb' 29 3 = 0#3) : decode w = decodeG w := by rw [decode, form]; rfl

theorem decode_three (form : w.extractLsb' 29 3 = 1#3) : decode w = decodeT w := by rw [decode, form]; rfl

theorem decode_ldCond (form : w.extractLsb' 29 3 = 2#3) : decode w = decodeLdCond w := by rw [decode, form]; rfl

theorem decode_control (form : w.extractLsb' 29 3 = 3#3) : decode w = decodeControl w := by rw [decode, form]; rfl

/-- The parallel forms read bit 29 with the rest of their opcode, so both of its values are theirs (R156, R159). -/
theorem form_of_parallel {b : BitVec 2} (high : w.extractLsb' 30 2 = b) :
    w.extractLsb' 29 3 = b ++ 0#1 ∨ w.extractLsb' 29 3 = b ++ 1#1 := by grind

theorem decode_parallelMul (high : w.extractLsb' 30 2 = 2#2) : decode w = decodeP w := by
  obtain form | form := form_of_parallel high <;> rw [decode, form] <;> rfl

theorem decode_parallelStore (high : w.extractLsb' 30 2 = 3#2) : decode w = decodePS w := by
  obtain form | form := form_of_parallel high <;> rw [decode, form] <;> rfl

end

/-- The opcode `op` has the row `row` of the decoder's tables, which reads every word with `op` in bits 31-23 (R147, R151). -/
def Row (op : BitVec 9) (row : Word → Except DecodeError Instr) : Prop :=
  ∀ w : Word, w.extractLsb' 29 3 = op.extractLsb' 6 3 → w.extractLsb' 23 6 = op.extractLsb' 0 6 → decode w = row w

/-! ## General form (R142) -/

section
variable {op : BitVec 9}

theorem Row.decode_encG {row : Word → Except DecodeError Instr} (h : Row op row) (g : BitVec 2)
    (d : BitVec 5) (x : BitVec 16) : decode (encG op g d x) = row (encG op g d x) :=
  h _ (encG_form op g d x) (encG_sub op g d x)

theorem gInt_encInt (k : Src Reg → Reg → Instr) (src : Src Reg) (dst : Reg) :
    gInt k (encInt op src dst) = .ok (k src dst) := by
  rw [gInt, encInt, encG_dst, encG_g, encG_field, Reg.ofCode_code, Src.ofField_int]; rfl

theorem gFlt_encFlt (k : Src FReg → FReg → Instr) (src : Src FReg) (dst : FReg) :
    gFlt k (encFlt op src dst) = .ok (k src dst) := by
  rw [gFlt, encFlt, encG_dst, encG_g, encG_field, FReg.ofCode_code, Src.ofField_flt]; rfl

theorem Row.decode_encInt {k : Src Reg → Reg → Instr} (h : Row op (gInt k)) (src : Src Reg) (dst : Reg) :
    decode (encInt op src dst) = .ok (k src dst) :=
  (h.decode_encG _ _ _).trans (gInt_encInt k src dst)

theorem Row.decode_encFlt {k : Src FReg → FReg → Instr} (h : Row op (gFlt k)) (src : Src FReg) (dst : FReg) :
    decode (encFlt op src dst) = .ok (k src dst) :=
  (h.decode_encG _ _ _).trans (gFlt_encFlt k src dst)

theorem Row.decode_fix (h : Row op gFix) (src : Src FReg) (dst : Reg) :
    decode (encG op src.gCode dst.code (src.field FReg.code)) = .ok (.fix src dst) := by
  rw [h.decode_encG, gFix, encG_dst, encG_g, encG_field, Reg.ofCode_code, Src.ofField_flt]; rfl

theorem Row.decode_float (h : Row op gFloat) (src : Src Reg) (dst : FReg) :
    decode (encG op src.gCode dst.code (src.field Reg.code)) = .ok (.float src dst) := by
  rw [h.decode_encG, gFloat, encG_dst, encG_g, encG_field, FReg.ofCode_code, Src.ofField_int]; rfl

theorem Row.decode_ldm (h : Row op gLdm) {src : Src FReg} (ok : src.ldmOk = true) (dst : FReg) :
    decode (encFlt op src dst) = .ok (.ldm src dst) := by
  rw [encFlt, h.decode_encG, gLdm, encG_dst, encG_g, encG_field, FReg.ofCode_code, Src.ofField_flt]
  exact if_pos ok

theorem Src.gCode_ne_of_ldiOk {src : Src Reg} (ok : src.ldiOk = true) : src.gCode ≠ 3#2 := by
  cases src with
  | imm v => cases ok
  | _ => simp [Src.gCode]

/-- A source other than an immediate keeps LDI out of LDP's row (R308, log 7). -/
theorem Row.decode_ldi (h : Row op gLdi) {src : Src Reg} (ok : src.ldiOk = true) (dst : Reg) :
    decode (encInt op src dst) = .ok (.ldi src dst) := by
  rw [encInt, h.decode_encG, gLdi, encG_dst, encG_g, encG_field, Reg.ofCode_code, Src.ofField_int]
  exact if_neg (Src.gCode_ne_of_ldiOk ok)

theorem Row.decode_ldp (h : Row op gLdi) (dst : Reg) (imm : BitVec 16) :
    decode (encG op 3#2 dst.code imm) = .ok (.ldp dst imm) := by
  rw [h.decode_encG, gLdi, encG_dst, encG_g, encG_field, Reg.ofCode_code]; rfl

theorem Row.decode_gMem {k : Reg → MemOp → Instr} (h : Row op (gMem k)) (r : Reg) (m : MemOp) :
    decode (encG op m.gCode r.code m.field) = .ok (k r m) := by
  rw [h.decode_encG, gMem, encG_dst, encG_g, encG_field, Reg.ofCode_code, MemOp.ofField_field]; rfl

theorem Row.decode_gMemF {k : FReg → MemOp → Instr} (h : Row op (gMemF k)) (r : FReg) (m : MemOp) :
    decode (encG op m.gCode r.code m.field) = .ok (k r m) := by
  rw [h.decode_encG, gMemF, encG_dst, encG_g, encG_field, FReg.ofCode_code, MemOp.ofField_field]; rfl

theorem Row.decode_gOne {k : Reg → Instr} (h : Row op (gOne k)) (g : BitVec 2) (r : Reg) (x : BitVec 16) :
    decode (encG op g r.code x) = .ok (k r) := by
  rw [h.decode_encG, gOne, encG_dst, Reg.ofCode_code]; rfl

theorem Row.decode_gOneF {k : FReg → Instr} (h : Row op (gOneF k)) (g : BitVec 2) (r : FReg) (x : BitVec 16) :
    decode (encG op g r.code x) = .ok (k r) := by
  rw [h.decode_encG, gOneF, encG_dst, FReg.ofCode_code]; rfl

end

theorem decode_rpts (src : Src Reg) : decode (encode (.rpts src)) = .ok (.rpts src) := by
  rw [encode, decode_general (encG_form ..), decodeG, encG_sub, encG_g, encG_field, Src.ofField_int]; rfl

theorem decode_iack (src : MemOp) : decode (encode (.iack src)) = .ok (.iack src) := by
  rw [encode, decode_general (encG_form ..), decodeG, encG_sub, encG_g, encG_field, MemOp.ofField_field]; rfl

theorem decode_nop (src : NopOp) : decode (encode (.nop src)) = .ok (.nop src) := by
  rw [encode, decode_general (encG_form ..), decodeG, encG_sub, encG_g, encG_dst, encG_field, NopOp.ofField_field]; rfl

/-! ## Three-operand form (R150) -/

section
variable {ρ : Type} (code : ρ → BitVec 5) (op : BitVec 9) (s1 s2 : Src3 ρ) (d : BitVec 5)

theorem encT_form : (encT code op s1 s2 d).extractLsb' 29 3 = op.extractLsb' 6 3 := by unfold encT; grind

theorem encT_sub : (encT code op s1 s2 d).extractLsb' 23 6 = op.extractLsb' 0 6 := by unfold encT; grind

theorem encT_t1 : (encT code op s1 s2 d).extractLsb' 21 1 = s1.tCode := by unfold encT; grind

theorem encT_t2 : (encT code op s1 s2 d).extractLsb' 22 1 = s2.tCode := by unfold encT; grind

theorem encT_dst : (encT code op s1 s2 d).extractLsb' 16 5 = d := by unfold encT; grind

theorem encT_src1 : (encT code op s1 s2 d).extractLsb' 8 8 = s1.field code := by unfold encT; grind

theorem encT_src2 : (encT code op s1 s2 d).extractLsb' 0 8 = s2.field code := by unfold encT; grind

variable {code} in
theorem tSources_encT {ofCode : BitVec 5 → Except DecodeError ρ} (h : ∀ r, ofCode (code r) = .ok r) :
    tSources ofCode (encT code op s1 s2 d) = .ok (s1, s2) := by
  rw [tSources, encT_t1, encT_t2, encT_src1, encT_src2, Src3.ofField_field h, Src3.ofField_field h]; rfl

end

section
variable {op : BitVec 9}

theorem Row.decode_encT {row : Word → Except DecodeError Instr} (h : Row op row) {ρ : Type} (code : ρ → BitVec 5)
    (s1 s2 : Src3 ρ) (d : BitVec 5) : decode (encT code op s1 s2 d) = row (encT code op s1 s2 d) :=
  h _ (encT_form code op s1 s2 d) (encT_sub code op s1 s2 d)

theorem Row.decode_tInt {k : Src3 Reg → Src3 Reg → Reg → Instr} (h : Row op (tInt k)) (s1 s2 : Src3 Reg) (dst : Reg) :
    decode (encT Reg.code op s1 s2 dst.code) = .ok (k s1 s2 dst) := by
  rw [h.decode_encT, tInt, encT_dst, tSources_encT _ _ _ _ Reg.ofCode_code, Reg.ofCode_code]; rfl

theorem Row.decode_tFlt {k : Src3 FReg → Src3 FReg → FReg → Instr} (h : Row op (tFlt k)) (s1 s2 : Src3 FReg)
    (dst : FReg) : decode (encT FReg.code op s1 s2 dst.code) = .ok (k s1 s2 dst) := by
  rw [h.decode_encT, tFlt, encT_dst, tSources_encT _ _ _ _ FReg.ofCode_code, FReg.ofCode_code]; rfl

theorem Row.decode_tCmp {k : Src3 Reg → Src3 Reg → Instr} (h : Row op (tCmp k)) (s1 s2 : Src3 Reg) (d : BitVec 5) :
    decode (encT Reg.code op s1 s2 d) = .ok (k s1 s2) := by
  rw [h.decode_encT, tCmp, tSources_encT _ _ _ _ Reg.ofCode_code]; rfl

theorem Row.decode_tCmpF {k : Src3 FReg → Src3 FReg → Instr} (h : Row op (tCmpF k)) (s1 s2 : Src3 FReg)
    (d : BitVec 5) : decode (encT FReg.code op s1 s2 d) = .ok (k s1 s2) := by
  rw [h.decode_encT, tCmpF, tSources_encT _ _ _ _ FReg.ofCode_code]; rfl

end

/-! ## Conditional loads (R164) -/

section
variable (x : BitVec 4) (c : BitVec 5) (g : BitVec 2) (d : BitVec 5) (f : BitVec 16)

theorem encG_condForm : (encG (x ++ c) g d f).extractLsb' 29 3 = x.extractLsb' 1 3 := by unfold encG; grind

theorem encG_condLow : (encG (x ++ c) g d f).extractLsb' 28 1 = x.extractLsb' 0 1 := by unfold encG; grind

theorem encG_cond : (encG (x ++ c) g d f).extractLsb' 23 5 = c := by unfold encG; grind

end

theorem decode_ldfCond (c : Cond) (src : Src FReg) (dst : FReg) :
    decode (encode (.ldfCond c src dst)) = .ok (.ldfCond c src dst) := by
  rw [encode, encFlt, decode_ldCond (encG_condForm ..), decodeLdCond, encG_cond, encG_condLow, Cond.ofCode_code]
  exact gFlt_encFlt (.ldfCond c) src dst

theorem decode_ldiCond (c : Cond) (src : Src Reg) (dst : Reg) :
    decode (encode (.ldiCond c src dst)) = .ok (.ldiCond c src dst) := by
  rw [encode, encInt, decode_ldCond (encG_condForm ..), decodeLdCond, encG_cond, encG_condLow, Cond.ofCode_code]
  exact gInt_encInt (.ldiCond c) src dst

/-! ## Program control (R160 to R163) -/

section
variable (op : BitVec 8) (a : Addr)

theorem encLI_form : (op ++ a : Word).extractLsb' 29 3 = op.extractLsb' 5 3 := by grind

theorem encLI_sub : (op ++ a : Word).extractLsb' 26 3 = op.extractLsb' 2 3 := by grind

theorem encLI_low : (op ++ a : Word).extractLsb' 24 2 = op.extractLsb' 0 2 := by grind

theorem encLI_addr : (op ++ a : Word).extractLsb' 0 24 = a := by grind

end

/-- A long-immediate opcode, in bits 31-24, whose row of the control table makes `k` of the address (R161). -/
theorem decode_encLI {op : BitVec 8} {k : Addr → Instr} (form : op.extractLsb' 5 3 = 3#3)
    (row : ∀ w : Word, w.extractLsb' 26 3 = op.extractLsb' 2 3 → w.extractLsb' 24 2 = op.extractLsb' 0 2 →
      decodeControl w = .ok (k (w.extractLsb' 0 24))) (a : Addr) : decode (op ++ a : Word) = .ok (k a) := by
  rw [decode_control ((encLI_form op a).trans form), row _ (encLI_sub op a) (encLI_low op a), encLI_addr]

section
variable (op : BitVec 6) (n : BitVec 3) (d : BitVec 1) (c : Cond) (t : Target)

theorem encCB_form : (encCB op n d c t).extractLsb' 29 3 = op.extractLsb' 3 3 := by unfold encCB; grind

theorem encCB_sub : (encCB op n d c t).extractLsb' 26 3 = op.extractLsb' 0 3 := by unfold encCB; grind

theorem encCB_b : (encCB op n d c t).extractLsb' 25 1 = t.bCode := by unfold encCB; grind

theorem encCB_ar : (encCB op n d c t).extractLsb' 22 3 = n := by unfold encCB; grind

theorem encCB_d : (encCB op n d c t).extractLsb' 21 1 = d := by unfold encCB; grind

theorem encCB_cond : (encCB op n d c t).extractLsb' 16 5 = c.code := by unfold encCB; grind

theorem encCB_target : (encCB op n d c t).extractLsb' 0 16 = t.field := by unfold encCB; grind

theorem cbForm_encCB (k : Cond → Target → Instr) : cbForm k (encCB op n d c t) = .ok (k c t) := by
  rw [cbForm, encCB_cond, encCB_b, encCB_target, Cond.ofCode_code, Target.ofField_field]; rfl

end

section
variable (n : BitVec 3) (c : Cond) (t : Target)

theorem decode_bCond : decode (encode (.bCond c t)) = .ok (.bCond c t) := by
  rw [encode, decode_control (encCB_form ..), decodeControl, encCB_sub, encCB_mid]
  exact cbForm_encCB _ _ _ c t .bCond

theorem decode_bCondD : decode (encode (.bCondD c t)) = .ok (.bCondD c t) := by
  rw [encode, decode_control (encCB_form ..), decodeControl, encCB_sub, encCB_mid]
  exact cbForm_encCB _ _ _ c t .bCondD

theorem decode_dbCond : decode (encode (.dbCond n c t)) = .ok (.dbCond n c t) := by
  rw [encode, decode_control (encCB_form ..), decodeControl, encCB_sub, encCB_d, encCB_ar]
  exact cbForm_encCB _ _ _ c t (.dbCond n)

theorem decode_dbCondD : decode (encode (.dbCondD n c t)) = .ok (.dbCondD n c t) := by
  rw [encode, decode_control (encCB_form ..), decodeControl, encCB_sub, encCB_d, encCB_ar]
  exact cbForm_encCB _ _ _ c t (.dbCondD n)

theorem decode_callCond : decode (encode (.callCond c t)) = .ok (.callCond c t) := by
  rw [encode, decode_control (encCB_form ..), decodeControl, encCB_sub, encCB_mid]
  exact cbForm_encCB _ _ _ c t .callCond

end

section
variable (op : BitVec 7) (c : BitVec 5) (m : BitVec 11) (n : BitVec 5)

theorem encTrap_form : (op ++ 0#4 ++ c ++ m ++ n : Word).extractLsb' 29 3 = op.extractLsb' 4 3 := by grind

theorem encTrap_sub : (op ++ 0#4 ++ c ++ m ++ n : Word).extractLsb' 26 3 = op.extractLsb' 1 3 := by grind

theorem encTrap_low : (op ++ 0#4 ++ c ++ m ++ n : Word).extractLsb' 25 1 = op.extractLsb' 0 1 := by grind

theorem encTrap_cond : (op ++ 0#4 ++ c ++ m ++ n : Word).extractLsb' 16 5 = c := by grind

theorem encTrap_vector : (op ++ 0#4 ++ c ++ m ++ n : Word).extractLsb' 0 5 = n := by grind

end

theorem decode_trapCond (c : Cond) (n : BitVec 5) : decode (encode (.trapCond c n)) = .ok (.trapCond c n) := by
  rw [encode, decode_control (encTrap_form ..), decodeControl, encTrap_sub, encTrap_low, encTrap_cond, encTrap_vector,
    Cond.ofCode_code]
  rfl

section
variable (op : BitVec 9) (c : BitVec 5)

theorem encRet_form : (op ++ 0#2 ++ c ++ 0#16 : Word).extractLsb' 29 3 = op.extractLsb' 6 3 := by grind

theorem encRet_sub : (op ++ 0#2 ++ c ++ 0#16 : Word).extractLsb' 26 3 = op.extractLsb' 3 3 := by grind

theorem encRet_low : (op ++ 0#2 ++ c ++ 0#16 : Word).extractLsb' 23 3 = op.extractLsb' 0 3 := by grind

theorem encRet_cond : (op ++ 0#2 ++ c ++ 0#16 : Word).extractLsb' 16 5 = c := by grind

end

theorem decode_retiCond (c : Cond) : decode (encode (.retiCond c)) = .ok (.retiCond c) := by
  rw [encode, decode_control (encRet_form ..), decodeControl, encRet_sub, encRet_low, encRet_cond, Cond.ofCode_code]
  rfl

theorem decode_retsCond (c : Cond) : decode (encode (.retsCond c)) = .ok (.retsCond c) := by
  rw [encode, decode_control (encRet_form ..), decodeControl, encRet_sub, encRet_low, encRet_cond, Cond.ofCode_code]
  rfl

/-! ## Parallel forms (R155, R158) -/

section
variable (op : BitVec 6) (p : BitVec 2) (d1 d2 : BitVec 1) (s1 s2 : FReg) (i3 i4 : Ind Unit)

theorem encP_high : (encP op p d1 d2 s1 s2 i3 i4).extractLsb' 30 2 = op.extractLsb' 4 2 := by unfold encP; grind

theorem encP_sub : (encP op p d1 d2 s1 s2 i3 i4).extractLsb' 26 4 = op.extractLsb' 0 4 := by unfold encP; grind

theorem encP_p : (encP op p d1 d2 s1 s2 i3 i4).extractLsb' 24 2 = p := by unfold encP; grind

theorem encP_d1 : (encP op p d1 d2 s1 s2 i3 i4).extractLsb' 23 1 = d1 := by unfold encP; grind

theorem encP_d2 : (encP op p d1 d2 s1 s2 i3 i4).extractLsb' 22 1 = d2 := by unfold encP; grind

theorem encP_src1 : (encP op p d1 d2 s1 s2 i3 i4).extractLsb' 19 3 = s1 := by unfold encP; grind

theorem encP_src2 : (encP op p d1 d2 s1 s2 i3 i4).extractLsb' 16 3 = s2 := by unfold encP; grind

theorem encP_src3 : (encP op p d1 d2 s1 s2 i3 i4).extractLsb' 8 8 = i3.field8 := by unfold encP; grind

theorem encP_src4 : (encP op p d1 d2 s1 s2 i3 i4).extractLsb' 0 8 = i4.field8 := by unfold encP; grind

end

/-- The two indirect operands of a parallel word, from its two low bytes (R155, R158). -/
theorem pFields_eq {w : Word} {i j : Ind Unit} (hi : w.extractLsb' 8 8 = i.field8) (lo : w.extractLsb' 0 8 = j.field8) :
    pFields w = .ok (i, j) := by
  rw [pFields, hi, lo, Ind.ofField8_field8, Ind.ofField8_field8]; rfl

theorem decode_encP {op : BitVec 6} {k : BitVec 2 → BitVec 1 → BitVec 1 → FReg → FReg → Ind Unit → Ind Unit → Instr}
    (high : op.extractLsb' 4 2 = 2#2)
    (row : ∀ w : Word, w.extractLsb' 26 4 = op.extractLsb' 0 4 → decodeP w = pForm k w)
    (p : BitVec 2) (d1 d2 : BitVec 1) (s1 s2 : FReg) (i3 i4 : Ind Unit) :
    decode (encP op p d1 d2 s1 s2 i3 i4) = .ok (k p d1 d2 s1 s2 i3 i4) := by
  rw [decode_parallelMul ((encP_high ..).trans high), row _ (encP_sub ..), pForm,
    pFields_eq (encP_src3 ..) (encP_src4 ..), encP_p, encP_d1, encP_d2, encP_src1, encP_src2]
  rfl

section
variable (op : BitVec 7) (a b c : FReg) (hi lo : Ind Unit)

theorem encPS_high : (encPS op a b c hi lo).extractLsb' 30 2 = op.extractLsb' 5 2 := by unfold encPS; grind

theorem encPS_sub : (encPS op a b c hi lo).extractLsb' 25 5 = op.extractLsb' 0 5 := by unfold encPS; grind

theorem encPS_a : (encPS op a b c hi lo).extractLsb' 22 3 = a := by unfold encPS; grind

theorem encPS_b : (encPS op a b c hi lo).extractLsb' 19 3 = b := by unfold encPS; grind

theorem encPS_c : (encPS op a b c hi lo).extractLsb' 16 3 = c := by unfold encPS; grind

theorem encPS_hi : (encPS op a b c hi lo).extractLsb' 8 8 = hi.field8 := by unfold encPS; grind

theorem encPS_lo : (encPS op a b c hi lo).extractLsb' 0 8 = lo.field8 := by unfold encPS; grind

end

section
variable {op : BitVec 7} (high : op.extractLsb' 5 2 = 3#2)
include high

theorem decode_encPS {k : FReg → FReg → FReg → Ind Unit → Ind Unit → Instr}
    (row : ∀ w : Word, w.extractLsb' 25 5 = op.extractLsb' 0 5 → decodePS w = ps3 k w)
    (a b c : FReg) (hi lo : Ind Unit) : decode (encPS op a b c hi lo) = .ok (k a b c hi lo) := by
  rw [decode_parallelStore ((encPS_high ..).trans high), row _ (encPS_sub ..), ps3,
    pFields_eq (encPS_hi ..) (encPS_lo ..), encPS_a, encPS_b, encPS_c]
  rfl

theorem decode_encPS_ac {k : FReg → FReg → Ind Unit → Ind Unit → Instr}
    (row : ∀ w : Word, w.extractLsb' 25 5 = op.extractLsb' 0 5 → decodePS w = psAC k w)
    (a b c : FReg) (hi lo : Ind Unit) : decode (encPS op a b c hi lo) = .ok (k a c hi lo) :=
  decode_encPS high (k := fun a _ c => k a c) row a b c hi lo

theorem decode_encPS_ab {k : FReg → FReg → Ind Unit → Ind Unit → Instr}
    (row : ∀ w : Word, w.extractLsb' 25 5 = op.extractLsb' 0 5 → decodePS w = psAB k w)
    (a b c : FReg) (hi lo : Ind Unit) : decode (encPS op a b c hi lo) = .ok (k a b hi lo) :=
  decode_encPS high (k := fun a b _ => k a b) row a b c hi lo

end

/-! ## The obligations -/

/-- Settles O1: by the forms of 30_encoding.md, each instruction's word is read by its opcode's row, and that row reads
back the fields its form writes. -/
theorem roundTrip : Obligations.RoundTrip := by
  intro i wf
  cases i with
  | absi src dst | addc src dst | addi src dst | and src dst | andn src dst | ash src dst | cmpi src dst | lsh src dst
  | mpyi src dst | negb src dst | negi src dst | not src dst | or src dst | subb src dst | subc src dst | subi src dst
  | subrb src dst | subri src dst | tstb src dst | xor src dst =>
    exact Row.decode_encInt (fun w form sub => by rw [decode_general form, decodeG, sub]; rfl) src dst
  | absf src dst | addf src dst | cmpf src dst | lde src dst | ldf src dst | mpyf src dst | negf src dst | norm src dst
  | rnd src dst | subf src dst | subrf src dst =>
    exact Row.decode_encFlt (fun w form sub => by rw [decode_general form, decodeG, sub]; rfl) src dst
  | fix src dst => exact Row.decode_fix (fun w form sub => by rw [decode_general form, decodeG, sub]; rfl) src dst
  | float src dst => exact Row.decode_float (fun w form sub => by rw [decode_general form, decodeG, sub]; rfl) src dst
  | ldi src dst => exact Row.decode_ldi (fun w form sub => by rw [decode_general form, decodeG, sub]; rfl) wf dst
  | ldm src dst => exact Row.decode_ldm (fun w form sub => by rw [decode_general form, decodeG, sub]; rfl) wf dst
  | ldp dst imm => exact Row.decode_ldp (fun w form sub => by rw [decode_general form, decodeG, sub]; rfl) dst imm
  | ldfi m r =>
    exact Row.decode_gMemF (k := fun r m => .ldfi m r)
      (fun w form sub => by rw [decode_general form, decodeG, sub]; rfl) r m
  | ldii m r =>
    exact Row.decode_gMem (k := fun r m => .ldii m r)
      (fun w form sub => by rw [decode_general form, decodeG, sub]; rfl) r m
  | stf r m | stfi r m =>
    exact Row.decode_gMemF (fun w form sub => by rw [decode_general form, decodeG, sub]; rfl) r m
  | sti r m | stii r m =>
    exact Row.decode_gMem (fun w form sub => by rw [decode_general form, decodeG, sub]; rfl) r m
  | pop r | push r | rol r | rolc r | ror r | rorc r =>
    exact Row.decode_gOne (fun w form sub => by rw [decode_general form, decodeG, sub]; rfl) _ r _
  | popf r | pushf r => exact Row.decode_gOneF (fun w form sub => by rw [decode_general form, decodeG, sub]; rfl) _ r _
  | rpts src => exact decode_rpts src
  | iack src => exact decode_iack src
  | nop src => exact decode_nop src
  | idle | idle2 | maxspeed | lopower | sigi | swi => rfl
  | addc3 s1 s2 dst | addi3 s1 s2 dst | and3 s1 s2 dst | andn3 s1 s2 dst | ash3 s1 s2 dst | lsh3 s1 s2 dst
  | mpyi3 s1 s2 dst | or3 s1 s2 dst | subb3 s1 s2 dst | subi3 s1 s2 dst | xor3 s1 s2 dst =>
    exact Row.decode_tInt (fun w form sub => by rw [decode_three form, decodeT, sub]; rfl) s1 s2 dst
  | addf3 s1 s2 dst | mpyf3 s1 s2 dst | subf3 s1 s2 dst =>
    exact Row.decode_tFlt (fun w form sub => by rw [decode_three form, decodeT, sub]; rfl) s1 s2 dst
  | cmpi3 s1 s2 | tstb3 s1 s2 =>
    exact Row.decode_tCmp (fun w form sub => by rw [decode_three form, decodeT, sub]; rfl) s1 s2 _
  | cmpf3 s1 s2 => exact Row.decode_tCmpF (fun w form sub => by rw [decode_three form, decodeT, sub]; rfl) s1 s2 _
  | ldfCond c src dst => exact decode_ldfCond c src dst
  | ldiCond c src dst => exact decode_ldiCond c src dst
  | br a | brd a | call a | rptb a =>
    exact decode_encLI rfl (fun w sub low => by rw [decodeControl, sub, low]; rfl) a
  | bCond c t => exact decode_bCond c t
  | bCondD c t => exact decode_bCondD c t
  | dbCond n c t => exact decode_dbCond n c t
  | dbCondD n c t => exact decode_dbCondD n c t
  | callCond c t => exact decode_callCond c t
  | trapCond c n => exact decode_trapCond c n
  | retiCond c => exact decode_retiCond c
  | retsCond c => exact decode_retsCond c
  | mpyf3_addf3 p d1 d2 s1 s2 i3 i4 | mpyf3_subf3 p d1 d2 s1 s2 i3 i4 | mpyi3_addi3 p d1 d2 s1 s2 i3 i4
  | mpyi3_subi3 p d1 d2 s1 s2 i3 i4 =>
    exact decode_encP rfl (fun w sub => by rw [decodeP, sub]; rfl) p d1 d2 s1 s2 i3 i4
  | ldf_ldf a b hi lo | ldi_ldi a b hi lo =>
    exact decode_encPS_ab rfl (fun w sub => by rw [decodePS, sub]; rfl) a b _ hi lo
  | stf_stf a c hi lo | sti_sti a c hi lo | absf_stf a c hi lo | absi_sti a c hi lo | fix_sti a c hi lo
  | float_stf a c hi lo | ldf_stf a c hi lo | ldi_sti a c hi lo | negf_stf a c hi lo | negi_sti a c hi lo
  | not_sti a c hi lo =>
    exact decode_encPS_ac rfl (fun w sub => by rw [decodePS, sub]; rfl) a _ c hi lo
  | addf3_stf a b c hi lo | addi3_sti a b c hi lo | and3_sti a b c hi lo | ash3_sti a b c hi lo | lsh3_sti a b c hi lo
  | mpyf3_stf a b c hi lo | mpyi3_sti a b c hi lo | or3_sti a b c hi lo | subf3_stf a b c hi lo | subi3_sti a b c hi lo
  | xor3_sti a b c hi lo =>
    exact decode_encPS rfl (fun w sub => by rw [decodePS, sub]; rfl) a b c hi lo

/-- Settles O2: each printed instruction's word is its encoding, so O1 decodes it; the decoder is run on the
words of no row. -/
theorem decodeWords : Obligations.DecodeWords := by
  refine ⟨roundTrip (.ldp .rc 9#16) rfl, roundTrip (.addi (.reg (.r 1#3)) (.r 0#3)) rfl,
    roundTrip (.sti (.r 0#3) (.dir 0x9800#16)) rfl, roundTrip (.rptb 0x809C05#24) rfl,
    roundTrip (.dbCond 0#3 .ne (.rel 0xFFFE#16)) rfl,
    roundTrip (.mpyf3 (.ind (.plain 1#3)) (.ind (.plain 0#3)) 0#3) rfl,
    roundTrip (.mpyf3_addf3 0#2 0#1 0#1 0#3 2#3 (.idx .preAddMod (.disp ()) 0#3) (.idx .preAddMod (.disp ()) 1#3)) rfl,
    roundTrip (.trapCond .u 3#5) rfl, roundTrip (.push .st) rfl, ?_⟩
  simp only [List.forall_mem_cons]
  exact ⟨rfl, rfl, rfl, rfl, rfl, rfl, rfl, List.forall_mem_nil _⟩

end Sys2Proof
end

section
/-! PROOFS. The family of 40_float_formats.md: normalisation by the exact value of a mantissa and an exponent (O33). -/
namespace Sys2Proof.Machine

/-! ## Significant bits of a mantissa (R207) -/

theorem bitLength_le_iff {n k : Nat} : bitLength n ≤ k ↔ n < 2 ^ k := by
  rw [bitLength]
  split
  · next h => simp [h]
  · next h => rw [← Nat.log2_lt h, Nat.succ_le_iff]

/-- A number has at most `k` significant bits where a two's-complement number of `k` bits and a sign can hold it. -/
theorem significant_le_iff {m : Int} {k : Nat} : significant m ≤ k ↔ -2 ^ k ≤ m ∧ m < 2 ^ k := by
  have pos : (0 : Int) < 2 ^ k := by positivity
  have cast : ((2 ^ k : Nat) : Int) = 2 ^ k := by push_cast; rfl
  rw [significant]
  split <;> rw [bitLength_le_iff] <;> omega

/-- The same bound for a number that is not 0 and any integer `k`, also a negative one. -/
theorem significant_le_iff_zpow {m : Int} (hm : m ≠ 0) (k : Int) :
    (significant m : Int) ≤ k ↔ -(2 : ℚ) ^ k ≤ m ∧ (m : ℚ) < 2 ^ k := by
  obtain ⟨n, rfl | rfl⟩ := k.eq_nat_or_neg
  · rw [Int.ofNat_le, significant_le_iff, zpow_natCast]
    exact_mod_cast Iff.rfl
  · obtain rfl | hn := n.eq_zero_or_pos
    · have := significant_le_iff (m := m) (k := 0)
      norm_num at this ⊢
      rw [this]
      exact_mod_cast Iff.rfl
    · have small : (2 : ℚ) ^ (-(n : Int)) < 1 := zpow_lt_one_of_neg₀ one_lt_two (by omega)
      refine iff_of_false (by omega) fun ⟨lo, hi⟩ => hm ?_
      have below : (m : ℚ) < (1 : Int) := by push_cast; linarith
      have above : ((-1 : Int) : ℚ) < m := by push_cast; linarith
      rw [Int.cast_lt] at below above
      omega

/-! ## The normalised exponent and mantissa (R207) -/

/-- The exponent of the normalised number. -/
def normExp (m e : Int) : Int := e - 32 + significant m

/-- The mantissa shifted to 32 significant bits, toward minus infinity (D19). -/
def normMan (m : Int) : Int := ⌊(m : ℚ) * 2 ^ (32 - significant m : Int)⌋

/-- A shift down by `n` bits rounds toward minus infinity. -/
theorem floor_mul_zpow_neg (m : Int) (n : Nat) : ⌊(m : ℚ) * 2 ^ (-n : Int)⌋ = m / 2 ^ n := by
  rw [zpow_neg, zpow_natCast, ← div_eq_mul_inv]
  exact_mod_cast Rat.floor_intCast_div_natCast m (2 ^ n)

theorem align33_eq_normMan (m : Int) : align33 m = BitVec.ofInt 33 (normMan m) := by
  rw [align33, normMan]
  congr 1
  split
  · next h =>
    rw [show (32 - significant m : Int) = ((32 - significant m : Nat) : Int) by omega, zpow_natCast]
    exact_mod_cast (Int.floor_intCast (R := ℚ) _).symm
  · next h =>
    rw [show (32 - significant m : Int) = -((significant m - 32 : Nat) : Int) by omega, floor_mul_zpow_neg]

/-- The value of a mantissa and an exponent lies between the powers of two that its normalised exponent names. -/
theorem normExp_le_iff {m : Int} (hm : m ≠ 0) (e k : Int) :
    normExp m e ≤ k ↔ -(2 : ℚ) ^ (k + 1) ≤ m * 2 ^ (e - 31) ∧ (m : ℚ) * 2 ^ (e - 31) < 2 ^ (k + 1) := by
  have scale : (2 : ℚ) ^ (k + 1) = 2 ^ (k + 32 - e) * 2 ^ (e - 31) := by
    rw [← zpow_add₀ two_ne_zero]; congr 1; ring
  have pos : (0 : ℚ) < 2 ^ (e - 31) := by positivity
  rw [scale, ← neg_mul, mul_le_mul_iff_of_pos_right pos, mul_lt_mul_iff_of_pos_right pos, ← significant_le_iff_zpow hm,
    normExp]
  omega

/-- The mantissas of R196: the sign and the bit below it differ. -/
def IsMant (m : Int) : Prop := (2 ^ 31 ≤ m ∧ m < 2 ^ 32) ∨ (-2 ^ 32 ≤ m ∧ m < -2 ^ 31)

theorem IsMant.ne_zero {m : Int} (h : IsMant m) : m ≠ 0 := by
  rw [IsMant] at h
  omega

theorem normMan_isMant {m : Int} (hm : m ≠ 0) : IsMant (normMan m) := by
  have upper := (normExp_le_iff hm (63 - significant m) 31).mp (by rw [normExp]; omega)
  have lower := (normExp_le_iff hm (63 - significant m) 30).not.mp (by rw [normExp]; omega)
  rw [show (63 - significant m - 31 : Int) = 32 - significant m by ring] at upper lower
  obtain ⟨lo, hi⟩ := upper
  norm_num at lo hi lower
  have lo' : -2 ^ 32 ≤ normMan m := Int.le_floor.mpr (by push_cast; linarith)
  have hi' : normMan m < 2 ^ 32 := Int.floor_lt.mpr (by push_cast; linarith)
  obtain neg | nonneg := lt_or_ge ((m : ℚ) * 2 ^ (32 - significant m : Int)) (-2147483648)
  · exact .inr ⟨lo', Int.floor_lt.mpr (by push_cast; linarith)⟩
  · exact .inl ⟨Int.le_floor.mpr (by push_cast; linarith [lower nonneg]), hi'⟩

/-- The value at the scale of the normalised number. -/
theorem value_eq_normExp (m e : Int) :
    (m : ℚ) * 2 ^ (e - 31) = m * 2 ^ (32 - significant m : Int) * 2 ^ (normExp m e - 31) := by
  rw [mul_assoc, ← zpow_add₀ two_ne_zero, normExp]
  congr 2
  ring

/-- The normalised number is the value it stands for, cut to a unit of its last place (D19). -/
theorem normMan_le (m e : Int) : (normMan m : ℚ) * 2 ^ (normExp m e - 31) ≤ m * 2 ^ (e - 31) := by
  have nonneg : (0 : ℚ) ≤ 2 ^ (normExp m e - 31) := by positivity
  rw [value_eq_normExp m]
  exact mul_le_mul_of_nonneg_right (Int.floor_le _) nonneg

theorem lt_normMan_add_unit (m e : Int) :
    (m : ℚ) * 2 ^ (e - 31) < normMan m * 2 ^ (normExp m e - 31) + 2 ^ (normExp m e - 31) := by
  have pos : (0 : ℚ) < 2 ^ (normExp m e - 31) := by positivity
  rw [value_eq_normExp, ← add_one_mul]
  exact mul_lt_mul_of_pos_right (Int.lt_floor_add_one _) pos

/-- Where 32 significant bits hold the mantissa, nothing is cut. -/
theorem normMan_exact {m : Int} (h : significant m ≤ 32) (e : Int) :
    (normMan m : ℚ) * 2 ^ (normExp m e - 31) = m * 2 ^ (e - 31) := by
  have whole : (m : ℚ) * 2 ^ (32 - significant m : Int) = (m * 2 ^ (32 - significant m) : Int) := by
    rw [show (32 - significant m : Int) = ((32 - significant m : Nat) : Int) by omega, zpow_natCast]
    push_cast
    rfl
  rw [value_eq_normExp m e, normMan, whole, Int.floor_intCast]

/-- A mantissa with one bit more, as a carry leaves it, is halved. -/
theorem normMan_of_carry {m : Int} (h : significant m = 33) : normMan m = m / 2 := by
  rw [normMan, h]
  exact floor_mul_zpow_neg m 1

theorem normMan_carry {m : Int} (h : significant m = 33) (e : Int) :
    (normMan m : ℚ) * 2 ^ (normExp m e - 31) = 2 * (m / 2 : Int) * 2 ^ (e - 31) := by
  rw [normMan_of_carry h, normExp, h, show (e - 32 + (33 : Nat) - 31 : Int) = 1 + (e - 31) by push_cast; ring,
    zpow_add₀ two_ne_zero]
  ring

/-! ## Fields of a register value (R195, R196) -/

theorem toInt_append_of_ne {n k : Nat} (hn : n ≠ 0) (x : BitVec n) (y : BitVec k) :
    (x ++ y).toInt = 2 ^ k * x.toInt + y.toNat := by
  rw [BitVec.toInt_append, if_neg (by simpa using hn)]

theorem mant33_append (s : BitVec 1) (f : BitVec 31) : mant33 (s ++ f) = 2 ^ 31 * (s ++ ~~~s).toInt + f.toNat := by
  rw [mant33, BitVec.extractLsb'_append_eq_left, BitVec.extractLsb'_append_eq_right,
    toInt_append_of_ne (by decide)]

/-- The implied bit moves a mantissa away from 0 by 2^31. -/
theorem mant33_eq (w : Word) : mant33 w = w.toInt + if w.toInt < 0 then -2 ^ 31 else 2 ^ 31 := by
  obtain ⟨s, f, rfl⟩ : ∃ (s : BitVec 1) (f : BitVec 31), w = s ++ f := ⟨w.extractLsb' 31 1, w.extractLsb' 0 31, by grind⟩
  have low : f.toNat < 2 ^ 31 := f.isLt
  rw [mant33_append, toInt_append_of_ne (by decide) s f]
  obtain rfl | rfl := s.eq_zero_or_eq_one
  all_goals simp only [BitVec.toInt_zero, BitVec.reduceAppend, BitVec.reduceNot, BitVec.reduceToInt]
  all_goals split <;> omega

theorem mant33_isMant (w : Word) : IsMant (mant33 w) := by
  have lo := w.le_toInt
  have hi := w.toInt_lt
  rw [mant33_eq, IsMant]
  split <;> omega

theorem mant33_neg_iff (w : Word) : mant33 w < 0 ↔ w.toInt < 0 := by
  have lo := w.le_toInt
  have hi := w.toInt_lt
  rw [mant33_eq]
  split <;> omega

/-- The register value with the exponent `x` and the mantissa `m`, as normalisation packs it (R207). -/
def pack (x m : Int) : Ext :=
  BitVec.ofInt 8 x ++ (BitVec.ofInt 33 m).extractLsb' 32 1 ++ (BitVec.ofInt 33 m).extractLsb' 0 31

theorem expOf_pack {x : Int} (lo : -128 ≤ x) (hi : x ≤ 127) (m : Int) : expOf (pack x m) = x := by
  have field : (pack x m).extractLsb' 32 8 = BitVec.ofInt 8 x := by rw [pack]; grind
  rw [expOf, field]
  exact BitVec.toInt_ofInt_eq_self (by decide) lo (by omega)

theorem mant33_pack {m : Int} (hm : IsMant m) (x : Int) : mant33 (manOf (pack x m)) = m := by
  rw [IsMant] at hm
  have value : (BitVec.ofInt 33 m).toInt = m := BitVec.toInt_ofInt_eq_self (by decide) (by omega) (by omega)
  rw [show manOf (pack x m) = (BitVec.ofInt 33 m).extractLsb' 32 1 ++ (BitVec.ofInt 33 m).extractLsb' 0 31 by
    rw [manOf, pack]; grind]
  obtain ⟨s, t, f, parts⟩ : ∃ (s t : BitVec 1) (f : BitVec 31), BitVec.ofInt 33 m = s ++ t ++ f :=
    ⟨(BitVec.ofInt 33 m).extractLsb' 32 1, (BitVec.ofInt 33 m).extractLsb' 31 1, (BitVec.ofInt 33 m).extractLsb' 0 31,
      by grind⟩
  have low : f.toNat < 2 ^ 31 := f.isLt
  rw [parts, toInt_append_of_ne (by decide)] at value
  rw [parts, show (s ++ t ++ f).extractLsb' 32 1 = s by grind, show (s ++ t ++ f).extractLsb' 0 31 = f by grind,
    mant33_append]
  have implied : t = ~~~s := by
    obtain rfl | rfl := s.eq_zero_or_eq_one <;> obtain rfl | rfl := t.eq_zero_or_eq_one
    all_goals simp only [BitVec.reduceAppend, BitVec.reduceToInt] at value
    case inl.inr | inr.inl => rfl
    all_goals omega
  rw [implied] at value
  exact value

/-! ## The value of a register (R196, R197) -/

theorem isZero_iff (a : Ext) : isZero a = true ↔ expOf a = -128 := by
  rw [isZero, decide_eq_true_iff, expOf, ← BitVec.toInt_inj]
  rfl

theorem isZero_eq_false_iff (a : Ext) : isZero a = false ↔ expOf a ≠ -128 := by
  rw [← Bool.not_eq_true, isZero_iff]

theorem expOf_range (a : Ext) : -128 ≤ expOf a ∧ expOf a ≤ 127 :=
  ⟨(a.extractLsb' 32 8).le_toInt, Int.le_of_lt_add_one (a.extractLsb' 32 8).toInt_lt⟩

theorem fval_of_isZero {a : Ext} (h : isZero a = true) : fval a = 0 := if_pos h

theorem fval_of_ne_zero {a : Ext} (h : isZero a = false) : fval a = mant33 (manOf a) * 2 ^ (expOf a - 31) := by
  rw [fval, h]
  rfl

theorem fval_pack {x m : Int} (lo : -128 < x) (hi : x ≤ 127) (hm : IsMant m) :
    isZero (pack x m) = false ∧ fval (pack x m) = m * 2 ^ (x - 31) := by
  have he := expOf_pack lo.le hi m
  have nonzero : isZero (pack x m) = false := (isZero_eq_false_iff _).mpr (by omega)
  rw [fval_of_ne_zero nonzero, he, mant33_pack hm]
  exact ⟨nonzero, rfl⟩

/-! ## Normalisation case by case (R207) -/

theorem fnorm_zero (e : Int) : fnorm 0 e = { val := fzero, ovf := false, unf := false, neg := false, zero := true } := rfl

theorem fnorm_above {m e : Int} (hm : m ≠ 0) (h : 127 < normExp m e) :
    fnorm m e = { val := fmost (m < 0), ovf := true, unf := false, neg := m < 0, zero := false } := by
  rw [fnorm, if_neg hm]
  exact if_pos h

theorem fnorm_below {m e : Int} (hm : m ≠ 0) (h : normExp m e ≤ -128) :
    fnorm m e = { val := fzero, ovf := false, unf := true, neg := m < 0, zero := false } := by
  rw [fnorm, if_neg hm]
  exact (if_neg (by rw [normExp] at h; omega)).trans (if_pos h)

theorem fnorm_within {m e : Int} (hm : m ≠ 0) (lo : -128 < normExp m e) (hi : normExp m e ≤ 127) :
    fnorm m e = { val := pack (normExp m e) (normMan m), ovf := false, unf := false, neg := m < 0, zero := false } := by
  rw [fnorm, if_neg hm, pack, ← align33_eq_normMan]
  exact (if_neg hi.not_gt).trans (if_neg lo.not_ge)

theorem fnorm_negFlag (m e : Int) : (fnorm m e).neg = decide (m < 0) := by
  rw [fnorm]
  split
  · next h => simp [h]
  · dsimp only
    split_ifs <;> rfl

theorem fnorm_zeroFlag (m e : Int) : (fnorm m e).zero = decide (m = 0) := by
  rw [fnorm]
  split
  · next h => simp [h]
  · next h =>
    rw [decide_eq_false h]
    dsimp only
    split_ifs <;> rfl

/-- Overflow, by the normalised exponent and by the exact value. -/
theorem fnorm_ovf_iff {m : Int} (hm : m ≠ 0) (e : Int) : (fnorm m e).ovf = true ↔ 127 < normExp m e := by
  obtain hi | hi := lt_or_ge 127 (normExp m e)
  · simp [fnorm_above hm hi, hi]
  obtain lo | lo := le_or_gt (normExp m e) (-128)
  · simp [fnorm_below hm lo, hi]
  · simp [fnorm_within hm lo hi, hi]

theorem fnorm_unf_iff {m : Int} (hm : m ≠ 0) (e : Int) : (fnorm m e).unf = true ↔ normExp m e ≤ -128 := by
  obtain hi | hi := lt_or_ge 127 (normExp m e)
  · exact iff_of_false (by simp [fnorm_above hm hi]) (by omega)
  obtain lo | lo := le_or_gt (normExp m e) (-128)
  · simp [fnorm_below hm lo, lo]
  · simp [fnorm_within hm lo hi, lo]

theorem fnorm_ovf_iff_value (m e : Int) : (fnorm m e).ovf = true ↔
    (m : ℚ) * 2 ^ (e - 31) < -2 ^ (128 : Int) ∨ 2 ^ (128 : Int) ≤ (m : ℚ) * 2 ^ (e - 31) := by
  by_cases hm : m = 0
  · simp [hm, fnorm_zero]
  · rw [fnorm_ovf_iff hm, ← not_le, normExp_le_iff hm, not_and_or, not_le, not_lt]
    rfl

theorem fnorm_unf_iff_value (m e : Int) : (fnorm m e).unf = true ↔
    m ≠ 0 ∧ -2 ^ (-127 : Int) ≤ (m : ℚ) * 2 ^ (e - 31) ∧ (m : ℚ) * 2 ^ (e - 31) < 2 ^ (-127 : Int) := by
  by_cases hm : m = 0
  · simp [hm, fnorm_zero]
  · rw [fnorm_unf_iff hm, normExp_le_iff hm]
    exact (and_iff_right hm).symm

theorem fnorm_val_of_ovf {m e : Int} (h : (fnorm m e).ovf = true) : (fnorm m e).val = fmost (m < 0) := by
  by_cases hm : m = 0
  · rw [hm, fnorm_zero] at h
    cases h
  · rw [fnorm_above hm ((fnorm_ovf_iff hm e).mp h)]

theorem fnorm_val_of_unf {m e : Int} (h : (fnorm m e).unf = true) : (fnorm m e).val = fzero := by
  by_cases hm : m = 0
  · rw [hm, fnorm_zero]
  · rw [fnorm_below hm ((fnorm_unf_iff hm e).mp h)]

theorem fnorm_not_ovf_of_unf {m e : Int} (h : (fnorm m e).unf = true) : (fnorm m e).ovf = false := by
  by_cases hm : m = 0
  · rw [hm, fnorm_zero]
  · rw [fnorm_below hm ((fnorm_unf_iff hm e).mp h)]

/-- In range, normalisation packs the normalised exponent and mantissa. -/
theorem fnorm_val {m e : Int} (hm : m ≠ 0) (ho : (fnorm m e).ovf = false) (hu : (fnorm m e).unf = false) :
    (fnorm m e).val = pack (normExp m e) (normMan m) ∧ -128 < normExp m e ∧ normExp m e ≤ 127 := by
  have hi : normExp m e ≤ 127 := not_lt.mp ((fnorm_ovf_iff hm e).not.mp (by simp [ho]))
  have lo : -128 < normExp m e := not_le.mp ((fnorm_unf_iff hm e).not.mp (by simp [hu]))
  exact ⟨by rw [fnorm_within hm lo hi], lo, hi⟩

theorem fval_fnorm {m e : Int} (ho : (fnorm m e).ovf = false) (hu : (fnorm m e).unf = false) :
    fval (fnorm m e).val = normMan m * 2 ^ (normExp m e - 31) := by
  by_cases hm : m = 0
  · simp [hm, fnorm_zero, normMan, fval_of_isZero (a := fzero) rfl]
  · obtain ⟨val, lo, hi⟩ := fnorm_val hm ho hu
    rw [val, (fval_pack lo hi (normMan_isMant hm)).2]

theorem expOf_fnorm {m e : Int} (hm : m ≠ 0) (ho : (fnorm m e).ovf = false) (hu : (fnorm m e).unf = false) :
    expOf (fnorm m e).val = normExp m e ∧ isZero (fnorm m e).val = false := by
  obtain ⟨val, lo, hi⟩ := fnorm_val hm ho hu
  rw [val]
  exact ⟨expOf_pack lo.le hi _, (fval_pack lo hi (normMan_isMant hm)).1⟩

/-- A result in range is exact where 32 significant bits hold the mantissa, and at the first number beyond them. -/
theorem fval_fnorm_exact {m e : Int} (lo : -2 ^ 32 ≤ m) (hi : m ≤ 2 ^ 32) (ho : (fnorm m e).ovf = false)
    (hu : (fnorm m e).unf = false) : fval (fnorm m e).val = m * 2 ^ (e - 31) := by
  obtain hi | rfl := hi.lt_or_eq
  · rw [fval_fnorm ho hu, normMan_exact (significant_le_iff.mpr ⟨lo, hi⟩)]
  · rw [fval_fnorm ho hu, normMan_carry (by decide)]
    norm_num

/-- A result in range whose mantissa has at most one carry is cut by at most one unit of the place it began with. -/
theorem fval_fnorm_near {m e : Int} (lo : -2 ^ 33 ≤ m) (hi : m < 2 ^ 33) (ho : (fnorm m e).ovf = false)
    (hu : (fnorm m e).unf = false) :
    fval (fnorm m e).val ≤ m * 2 ^ (e - 31) ∧ (m : ℚ) * 2 ^ (e - 31) ≤ fval (fnorm m e).val + 2 ^ (e - 31) := by
  have pos : (0 : ℚ) < 2 ^ (e - 31) := by positivity
  rw [fval_fnorm ho hu]
  refine ⟨normMan_le m e, ?_⟩
  obtain fits | carry := (significant_le_iff.mpr ⟨lo, hi⟩ : significant m ≤ 33).lt_or_eq
  · rw [normMan_exact (Nat.le_of_lt_succ fits)]
    exact le_add_of_nonneg_right pos.le
  · have halves : (m : ℚ) ≤ 2 * (m / 2 : Int) + 1 := by exact_mod_cast (by omega : m ≤ 2 * (m / 2) + 1)
    rw [normMan_carry carry, ← add_one_mul]
    exact mul_le_mul_of_nonneg_right halves pos.le

/-- Settles O33: the exponent and the mantissa of the normalised number, read as its value. -/
theorem normalisationValue : Obligations.NormalisationValue := by
  intro m e
  refine ⟨fnorm_ovf_iff_value m e, fnorm_unf_iff_value m e, fnorm_negFlag m e, fnorm_zeroFlag m e, fun h => ?_, fun h => ?_,
    fun hm ho hu => ?_⟩
  · simp [fnorm_val_of_ovf h, fmost]
  · obtain rfl | h := h
    · rw [fnorm_zero]; rfl
    · exact fnorm_val_of_unf h
  · obtain ⟨exponent, nonzero⟩ := expOf_fnorm hm ho hu
    rw [exponent, fval_fnorm ho hu]
    exact ⟨nonzero, normMan_le m e, lt_normMan_add_unit m e,
      fun lo hi => normMan_exact (significant_le_iff.mpr ⟨lo, hi⟩) e⟩

end Sys2Proof.Machine
end

section
/-! PROOFS. The family of 40_float_formats.md: multiplication (O36), addition, negation and absolute value (O35). -/
namespace Sys2Proof.Machine

/-! ## Single precision (R202, R209) -/

theorem expOf_single (a : Ext) : expOf (single a) = expOf a := by
  rw [expOf, expOf, single]
  congr 1
  grind

theorem isZero_single (a : Ext) : isZero (single a) = isZero a := by
  rw [Bool.eq_iff_iff, isZero_iff, isZero_iff, expOf_single]

/-- The eight low bits of the mantissa are cut toward minus infinity. -/
theorem mant33_single (a : Ext) : mant33 (manOf (single a)) = mant33 (manOf a) / 256 * 256 := by
  obtain ⟨x, f, l, rfl⟩ : ∃ (x : BitVec 8) (f : BitVec 24) (l : BitVec 8), a = x ++ f ++ l :=
    ⟨a.extractLsb' 32 8, a.extractLsb' 8 24, a.extractLsb' 0 8, by grind⟩
  have whole : manOf (x ++ f ++ l) = f ++ l := by rw [manOf]; grind
  have cut : manOf (single (x ++ f ++ l)) = f ++ 0#8 := by rw [manOf, single]; grind
  have low : l.toNat < 256 := l.isLt
  rw [whole, cut, mant33_eq, mant33_eq, toInt_append_of_ne (by decide), toInt_append_of_ne (by decide),
    BitVec.toNat_zero]
  split <;> split <;> omega

/-- The unit of the last place in single precision. -/
theorem unit_single (e : Int) : (2 : ℚ) ^ (e - 23) = 256 * 2 ^ (e - 31) := by
  rw [show e - 23 = 8 + (e - 31) by ring, zpow_add₀ two_ne_zero]
  norm_num

theorem fval_single {a : Ext} (h : isZero a = false) :
    fval (single a) = (mant33 (manOf a) / 256 : Int) * 2 ^ (expOf a - 23) := by
  rw [fval_of_ne_zero ((isZero_single a).trans h), expOf_single, mant33_single, unit_single]
  push_cast
  ring

/-! ## Multiplication (R202) -/

theorem fmul_of_ne_zero {a b : Ext} (ha : isZero a = false) (hb : isZero b = false) :
    fmul a b = fnorm (mant33 (manOf a) / 256 * (mant33 (manOf b) / 256)) (expOf a + expOf b - 15) := by
  rw [fmul, ha, hb]
  rfl

/-- The product that multiplication normalises stands for the product of the operands' values. -/
theorem fval_single_mul {a b : Ext} (ha : isZero a = false) (hb : isZero b = false) :
    fval (single a) * fval (single b) =
      (mant33 (manOf a) / 256 * (mant33 (manOf b) / 256) : Int) * 2 ^ (expOf a + expOf b - 15 - 31) := by
  rw [fval_single ha, fval_single hb, show expOf a + expOf b - 15 - 31 = (expOf a - 23) + (expOf b - 23) by ring,
    zpow_add₀ two_ne_zero]
  push_cast
  ring

theorem IsMant.div_ne_zero {m : Int} (h : IsMant m) : m / 256 ≠ 0 := by
  rw [IsMant] at h
  omega

/-- The sign of a mantissa is that of the value. -/
theorem value_neg_iff (m e : Int) : (m : ℚ) * 2 ^ e < 0 ↔ m < 0 := by
  have pos : (0 : ℚ) < 2 ^ e := by positivity
  rw [← not_le, mul_nonneg_iff_of_pos_right pos, not_le, Int.cast_lt_zero]

/-- Settles O36: the product of the mantissas is the exact one, and normalisation gives the rest (O33). -/
theorem multiplicationValue : Obligations.MultiplicationValue := by
  intro a b
  refine ⟨fun h => ?_, fun ha hb => ?_⟩
  · rw [fmul, if_pos (by simpa using h)]
    rfl
  · rw [fval_single_mul ha hb, fmul_of_ne_zero ha hb]
    have hm := mul_ne_zero (mant33_isMant (manOf a)).div_ne_zero (mant33_isMant (manOf b)).div_ne_zero
    generalize mant33 (manOf a) / 256 * (mant33 (manOf b) / 256) = m at hm ⊢
    generalize expOf a + expOf b - 15 = e
    obtain ⟨ovf, unf, neg, zero, ovfVal, unfVal, inRange⟩ := normalisationValue m e
    simp only [value_neg_iff]
    refine ⟨ovf, unf.trans (and_iff_right hm), neg, zero.trans (decide_eq_false hm), ovfVal, fun h => unfVal (.inr h),
      fun ho hu => ?_⟩
    obtain ⟨-, lower, upper, -⟩ := inRange hm ho hu
    exact ⟨lower, upper⟩

/-! ## Operands by their value (R196, R203) -/

theorem addend_of_ne_zero {a : Ext} (h : isZero a = false) : addend a = mant33 (manOf a) := by
  rw [addend, h]
  rfl

theorem addend_eq_zero_iff (a : Ext) : addend a = 0 ↔ isZero a = true := by
  rw [addend]
  split
  · next h => exact iff_of_true rfl h
  · next h => exact iff_of_false (mant33_isMant _).ne_zero h

theorem fval_eq_addend (a : Ext) : fval a = addend a * 2 ^ (expOf a - 31) := by
  rw [fval, addend]
  split
  · simp
  · rfl

theorem addend_range (a : Ext) : -2 ^ 32 ≤ addend a ∧ addend a < 2 ^ 32 := by
  have range := mant33_isMant (manOf a)
  rw [IsMant] at range
  rw [addend]
  split <;> omega

theorem fval_neg_iff (a : Ext) : fval a < 0 ↔ addend a < 0 := by
  rw [fval_eq_addend, value_neg_iff]

theorem IsMant.normExp {m : Int} (h : IsMant m) (e : Int) : Machine.normExp m e = e := by
  rw [IsMant] at h
  have upper := (significant_le_iff (m := m) (k := 32)).mpr (by omega)
  have lower := (significant_le_iff (m := m) (k := 31)).not.mpr (by omega)
  rw [Machine.normExp]
  omega

theorem fval_range (a : Ext) : -2 ^ (128 : Int) ≤ fval a ∧ fval a < 2 ^ (128 : Int) := by
  cases h : isZero a
  · have mant := mant33_isMant (manOf a)
    rw [fval_of_ne_zero h]
    exact (normExp_le_iff mant.ne_zero (expOf a) 127).mp ((mant.normExp _).trans_le (expOf_range a).2)
  · rw [fval_of_isZero h]
    norm_num

/-- Between the numbers nearest to 0 there is only 0. -/
theorem fval_eq_zero_of_small {a : Ext} (lo : -2 ^ (-127 : Int) ≤ fval a) (hi : fval a < 2 ^ (-127 : Int)) :
    isZero a = true := by
  by_contra h
  have nonzero : isZero a = false := by simpa using h
  have mant := mant33_isMant (manOf a)
  rw [fval_of_ne_zero nonzero, show (-127 : Int) = -128 + 1 from rfl] at lo hi
  have small := (normExp_le_iff mant.ne_zero (expOf a) (-128)).mpr ⟨lo, hi⟩
  rw [mant.normExp] at small
  have := (isZero_eq_false_iff a).mp nonzero
  have := expOf_range a
  omega

/-! ## Addition and subtraction (R203) -/

/-- An operand in units of the last place at the exponent `e`, the bits below it lost (D20). -/
def aligned (a : Ext) (e : Int) : Int := ⌊fval a / 2 ^ (e - 31)⌋

/-- What the shift of `faddMan` and `fsubMan` makes of the operand. -/
theorem aligned_eq {a : Ext} {e : Int} (h : expOf a ≤ e) : aligned a e = addend a / 2 ^ (e - expOf a).toNat := by
  rw [← floor_mul_zpow_neg, aligned, fval_eq_addend, mul_div_assoc, ← zpow_sub₀ two_ne_zero,
    Int.toNat_of_nonneg (by omega)]
  congr 3
  ring

theorem aligned_self (a : Ext) : aligned a (expOf a) = addend a := by
  rw [aligned_eq le_rfl]
  simp

theorem aligned_range {a : Ext} {e : Int} (h : expOf a ≤ e) : -2 ^ 32 ≤ aligned a e ∧ aligned a e < 2 ^ 32 := by
  obtain ⟨lo, hi⟩ := addend_range a
  have one_le : (1 : Int) ≤ 2 ^ (e - expOf a).toNat := one_le_pow₀ one_le_two
  rw [aligned_eq h, Int.le_ediv_iff_mul_le (by omega), Int.ediv_lt_iff_lt_mul (by omega)]
  constructor <;> nlinarith

theorem aligned_le (a : Ext) (e : Int) : (aligned a e : ℚ) * 2 ^ (e - 31) ≤ fval a := by
  have pos : (0 : ℚ) < 2 ^ (e - 31) := by positivity
  exact (le_div_iff₀ pos).mp (Int.floor_le _)

theorem lt_aligned_add_unit (a : Ext) (e : Int) : fval a < aligned a e * 2 ^ (e - 31) + 2 ^ (e - 31) := by
  have pos : (0 : ℚ) < 2 ^ (e - 31) := by positivity
  rw [← add_one_mul]
  exact (div_lt_iff₀ pos).mp (Int.lt_floor_add_one _)

/-- The operand with the larger exponent loses nothing. -/
theorem aligned_exact (a b : Ext) :
    fval a = aligned a (max (expOf a) (expOf b)) * 2 ^ (max (expOf a) (expOf b) - 31) ∨
    fval b = aligned b (max (expOf a) (expOf b)) * 2 ^ (max (expOf a) (expOf b) - 31) := by
  obtain h | h := le_total (expOf b) (expOf a)
  · exact .inl (by rw [max_eq_left h, aligned_self, fval_eq_addend])
  · exact .inr (by rw [max_eq_right h, aligned_self, fval_eq_addend])

theorem fadd_eq (a b : Ext) : fadd a b =
    fnorm (aligned a (max (expOf a) (expOf b)) + aligned b (max (expOf a) (expOf b))) (max (expOf a) (expOf b)) := by
  rw [fadd, faddMan]
  split
  · next h => rw [max_eq_left h, aligned_self, aligned_eq h]
  · next h => rw [max_eq_right (by omega), aligned_self, aligned_eq (by omega)]

theorem fsub_eq (a b : Ext) : fsub a b =
    fnorm (aligned a (max (expOf a) (expOf b)) - aligned b (max (expOf a) (expOf b))) (max (expOf a) (expOf b)) := by
  rw [fsub, fsubMan]
  split
  · next h => rw [max_eq_left h, aligned_self, aligned_eq h]
  · next h => rw [max_eq_right (by omega), aligned_self, aligned_eq (by omega)]

theorem fadd_value {a b : Ext} (ho : (fadd a b).ovf = false) (hu : (fadd a b).unf = false) :
    fval (fadd a b).val ≤ fval a + fval b ∧
    fval a + fval b < fval (fadd a b).val + 2 * 2 ^ (max (expOf a) (expOf b) - 31) := by
  rw [fadd_eq] at ho hu ⊢
  have whole := aligned_exact a b
  obtain ⟨loA, hiA⟩ := aligned_range (le_max_left (expOf a) (expOf b))
  obtain ⟨loB, hiB⟩ := aligned_range (le_max_right (expOf a) (expOf b))
  generalize max (expOf a) (expOf b) = e at *
  obtain ⟨le, near⟩ := fval_fnorm_near (by omega) (by omega) ho hu
  rw [Int.cast_add, add_mul] at le near
  have leA := aligned_le a e
  have leB := aligned_le b e
  have ltA := lt_aligned_add_unit a e
  have ltB := lt_aligned_add_unit b e
  refine ⟨by linarith, ?_⟩
  obtain h | h := whole <;> linarith

theorem fsub_value {a b : Ext} (ho : (fsub a b).ovf = false) (hu : (fsub a b).unf = false) :
    fval (fsub a b).val < fval a - fval b + 2 ^ (max (expOf a) (expOf b) - 31) ∧
    fval a - fval b < fval (fsub a b).val + 2 * 2 ^ (max (expOf a) (expOf b) - 31) := by
  rw [fsub_eq] at ho hu ⊢
  obtain ⟨loA, hiA⟩ := aligned_range (le_max_left (expOf a) (expOf b))
  obtain ⟨loB, hiB⟩ := aligned_range (le_max_right (expOf a) (expOf b))
  generalize max (expOf a) (expOf b) = e at *
  obtain ⟨le, near⟩ := fval_fnorm_near (by omega) (by omega) ho hu
  rw [Int.cast_sub, sub_mul] at le near
  have leA := aligned_le a e
  have leB := aligned_le b e
  have ltA := lt_aligned_add_unit a e
  have ltB := lt_aligned_add_unit b e
  constructor <;> linarith

/-! ## Negation and absolute value (R204, R334) -/

theorem fneg_eq (a : Ext) : fneg a = fnorm (-addend a) (expOf a) := by
  rw [fneg, addend]
  split <;> rfl

theorem neg_addend_value (a : Ext) : ((-addend a : Int) : ℚ) * 2 ^ (expOf a - 31) = -fval a := by
  rw [fval_eq_addend, Int.cast_neg, neg_mul]

theorem fneg_ovf_iff (a : Ext) : (fneg a).ovf = true ↔ fval a = -2 ^ (128 : Int) := by
  obtain ⟨lo, hi⟩ := fval_range a
  rw [fneg_eq, fnorm_ovf_iff_value, neg_addend_value]
  constructor
  · rintro (h | h) <;> linarith
  · intro h
    exact .inr (by linarith)

theorem fneg_unf_iff (a : Ext) : (fneg a).unf = true ↔ fval a = 2 ^ (-127 : Int) := by
  rw [fneg_eq, fnorm_unf_iff_value, neg_addend_value, neg_ne_zero, Ne, addend_eq_zero_iff]
  constructor
  · rintro ⟨nonzero, lo, hi⟩
    by_contra h
    exact nonzero (fval_eq_zero_of_small (by linarith) (lt_of_le_of_ne (by linarith) h))
  · intro h
    have pos : (0 : ℚ) < 2 ^ (-127 : Int) := by positivity
    refine ⟨fun z => ?_, by linarith, by linarith⟩
    rw [fval_of_isZero z] at h
    exact pos.ne h

theorem fneg_negFlag (a : Ext) : (fneg a).neg = decide (0 < fval a) := by
  rw [fneg_eq, fnorm_negFlag, decide_eq_decide, ← neg_lt_zero (a := fval a), ← neg_addend_value, value_neg_iff]

theorem fneg_zeroFlag (a : Ext) : (fneg a).zero = isZero a := by
  rw [fneg_eq, fnorm_zeroFlag, Bool.eq_iff_iff, decide_eq_true_iff, neg_eq_zero, addend_eq_zero_iff]

theorem fneg_val_of_ovf {a : Ext} (h : (fneg a).ovf = true) : (fneg a).val = 0x7F7FFFFFFF#40 := by
  have low : addend a < 0 := (fval_neg_iff a).mp (by rw [(fneg_ovf_iff a).mp h]; norm_num)
  rw [fneg_eq] at h ⊢
  rw [fnorm_val_of_ovf h, decide_eq_false (by omega)]
  rfl

theorem fneg_val_of_unf {a : Ext} (h : (fneg a).unf = true) : (fneg a).val = 0x8000000000#40 := by
  rw [fneg_eq] at h ⊢
  exact fnorm_val_of_unf h

theorem fval_fneg {a : Ext} (ho : (fneg a).ovf = false) (hu : (fneg a).unf = false) : fval (fneg a).val = -fval a := by
  obtain ⟨lo, hi⟩ := addend_range a
  rw [fneg_eq] at ho hu ⊢
  rw [fval_fnorm_exact (by omega) (by omega) ho hu, neg_addend_value]

theorem addend_neg_iff {a : Ext} (h : isZero a = false) : addend a < 0 ↔ (manOf a).msb = true := by
  rw [addend_of_ne_zero h, BitVec.msb_eq_toInt, decide_eq_true_iff]
  exact mant33_neg_iff _

theorem fabs_of_neg {a : Ext} (h : fval a < 0) : fabs a = { fneg a with neg := false } := by
  have nonzero : isZero a = false := by
    by_contra z
    rw [fval_of_isZero (by simpa using z)] at h
    exact h.false
  rw [fabs, nonzero, (addend_neg_iff nonzero).mp ((fval_neg_iff a).mp h)]
  rfl

theorem fabs_of_nonneg {a : Ext} (h : 0 ≤ fval a) :
    fabs a = { val := if isZero a then fzero else a, ovf := false, unf := false, neg := false, zero := isZero a } := by
  cases z : isZero a
  · have sign : (manOf a).msb = false := by
      rw [← Bool.not_eq_true, ← addend_neg_iff z, ← fval_neg_iff, not_lt]
      exact h
    rw [fabs, z, sign]
    rfl
  · rw [fabs, z]
    rfl

theorem fabs_value (a : Ext) :
    ((fabs a).ovf = true ↔ fval a = -2 ^ (128 : Int)) ∧ (fabs a).unf = false ∧ (fabs a).neg = false ∧
    (fabs a).zero = isZero a ∧ ((fabs a).ovf = true → (fabs a).val = 0x7F7FFFFFFF#40) ∧
    ((fabs a).ovf = false → fval (fabs a).val = |fval a|) := by
  obtain h | h := lt_or_ge (fval a) 0
  · have noUnf : (fneg a).unf = false := by
      rw [← Bool.not_eq_true, fneg_unf_iff]
      intro hv
      have pos : (0 : ℚ) < 2 ^ (-127 : Int) := by positivity
      linarith
    rw [fabs_of_neg h, abs_of_neg h]
    exact ⟨fneg_ovf_iff a, noUnf, rfl, fneg_zeroFlag a, fneg_val_of_ovf, fun ho => fval_fneg ho noUnf⟩
  · rw [fabs_of_nonneg h, abs_of_nonneg h]
    refine ⟨iff_of_false Bool.false_ne_true fun hv => ?_, rfl, rfl, rfl,
      fun ho => absurd ho Bool.false_ne_true, fun _ => ?_⟩
    · rw [hv] at h
      norm_num at h
    · dsimp only
      split
      · next z => rw [fval_of_isZero z]; exact fval_of_isZero rfl
      · rfl

/-- Settles O35: the operands at the larger exponent, then normalisation; negation and absolute value by the value. -/
theorem additionValue : Obligations.AdditionValue :=
  ⟨fun a b => ⟨fadd_eq a b, fsub_eq a b, fadd_value, fsub_value⟩,
    fun a => ⟨fneg_ovf_iff a, fneg_unf_iff a, fneg_negFlag a, fneg_zeroFlag a, fneg_val_of_ovf, fneg_val_of_unf, fval_fneg,
      fabs_value a⟩⟩

end Sys2Proof.Machine
end

section
/-! PROOFS. The family of 40_float_formats.md: FLOAT, FIX, RND and NORM by their exact values (O34). -/
namespace Sys2Proof.Machine

/-! ## FIX (R210, R344) -/

/-- A number that is not 0 fits a 32-bit integer exactly where its exponent is at most 30. -/
theorem expOf_le_30_iff {a : Ext} (h : isZero a = false) :
    expOf a ≤ 30 ↔ -2 ^ 31 ≤ ⌊fval a⌋ ∧ ⌊fval a⌋ < 2 ^ 31 := by
  have mant := mant33_isMant (manOf a)
  have bound := normExp_le_iff mant.ne_zero (expOf a) 30
  rw [mant.normExp, ← fval_of_ne_zero h] at bound
  rw [bound, Int.le_floor, Int.floor_lt]
  norm_num

theorem fix_mantissa {a : Ext} (h : isZero a = false) (he : expOf a ≤ 30) :
    mant33 (manOf a) / 2 ^ (31 - expOf a).toNat = ⌊fval a⌋ := by
  rw [← floor_mul_zpow_neg, Int.toNat_of_nonneg (by omega), fval_of_ne_zero h, neg_sub]

theorem floor_neg_iff (a : Ext) : ⌊fval a⌋ < 0 ↔ fval a < 0 := by
  rw [Int.floor_lt, Int.cast_zero]

theorem ffix_within {a : Ext} (lo : -2 ^ 31 ≤ ⌊fval a⌋) (hi : ⌊fval a⌋ < 2 ^ 31) :
    ffix a = { val := BitVec.ofInt 32 ⌊fval a⌋, ovf := false, neg := decide (fval a < 0) } := by
  cases h : isZero a
  · have he := (expOf_le_30_iff h).mpr ⟨lo, hi⟩
    rw [ffix, h, if_neg Bool.false_ne_true, if_neg he.not_gt]
    dsimp only
    rw [fix_mantissa h he, decide_eq_decide.mpr (floor_neg_iff a)]
  · rw [ffix, h, fval_of_isZero h]
    rfl

/-- Beyond the integers FIX saturates by the sign. -/
theorem ffix_beyond {a : Ext} (h : ⌊fval a⌋ < -2 ^ 31 ∨ 2 ^ 31 ≤ ⌊fval a⌋) :
    ffix a = { val := if fval a < 0 then 0x80000000#32 else 0x7FFFFFFF#32, ovf := true, neg := decide (fval a < 0) } := by
  have nonzero : isZero a = false := by
    by_contra z
    rw [fval_of_isZero (by simpa using z), Int.floor_zero] at h
    omega
  have he : 30 < expOf a := not_le.mp fun le => by
    have := (expOf_le_30_iff nonzero).mp le
    omega
  have sign : (manOf a).msb = decide (fval a < 0) := by
    rw [Bool.eq_iff_iff, decide_eq_true_iff, fval_neg_iff, addend_neg_iff nonzero]
  rw [ffix, nonzero, if_neg Bool.false_ne_true, if_pos he, sign]
  simp only [decide_eq_true_eq]

theorem ffix_value (a : Ext) :
    ((ffix a).ovf = true ↔ ⌊fval a⌋ < -2 ^ 31 ∨ 2 ^ 31 ≤ ⌊fval a⌋) ∧ (ffix a).neg = decide (fval a < 0) ∧
    (ffix a).val = if ⌊fval a⌋ < -2 ^ 31 then 0x80000000#32 else if 2 ^ 31 ≤ ⌊fval a⌋ then 0x7FFFFFFF#32
      else BitVec.ofInt 32 ⌊fval a⌋ := by
  obtain lo | lo := lt_or_ge ⌊fval a⌋ (-2 ^ 31)
  · rw [ffix_beyond (.inl lo), if_pos lo, if_pos ((floor_neg_iff a).mp (by omega))]
    exact ⟨iff_of_true rfl (.inl lo), rfl, rfl⟩
  obtain hi | hi := le_or_gt (2 ^ 31) ⌊fval a⌋
  · rw [ffix_beyond (.inr hi), if_neg lo.not_gt, if_pos hi, if_neg ((floor_neg_iff a).not.mp (by omega))]
    exact ⟨iff_of_true rfl (.inr hi), rfl, rfl⟩
  · rw [ffix_within lo hi, if_neg lo.not_gt, if_neg hi.not_ge]
    exact ⟨iff_of_false Bool.false_ne_true (by omega), rfl, rfl⟩

/-! ## FLOAT (R211) -/

/-- A 32-bit integer has at most 31 significant bits. -/
theorem significant_toInt (w : Word) : significant w.toInt ≤ 31 :=
  significant_le_iff.mpr ⟨w.le_toInt, w.toInt_lt⟩

theorem fnorm_toInt_ovf (w : Word) {e : Int} (he : e ≤ 127) : (fnorm w.toInt e).ovf = false := by
  by_cases hm : w.toInt = 0
  · rw [hm, fnorm_zero]
  · have bits := significant_toInt w
    rw [← Bool.not_eq_true, fnorm_ovf_iff hm, normExp]
    omega

theorem fval_fnorm_toInt (w : Word) {e : Int} (he : e ≤ 127) (hu : (fnorm w.toInt e).unf = false) :
    fval (fnorm w.toInt e).val = w.toInt * 2 ^ (e - 31) := by
  have lo := w.le_toInt
  have hi := w.toInt_lt
  exact fval_fnorm_exact (by omega) (by omega) (fnorm_toInt_ovf w he) hu

theorem fval_ffloat (i : Word) : fval (ffloat i).val = i.toInt := by
  have noUnf : (fnorm i.toInt 31).unf = false := by
    by_cases hm : i.toInt = 0
    · rw [hm, fnorm_zero]
    · rw [← Bool.not_eq_true, fnorm_unf_iff hm, normExp]
      omega
  rw [ffloat, fval_fnorm_toInt i (by decide) noUnf]
  simp

theorem ffloat_value (i : Word) :
    fval (ffloat i).val = i.toInt ∧ (ffix (ffloat i).val).val = i ∧ (ffix (ffloat i).val).ovf = false := by
  have value := fval_ffloat i
  have whole : ⌊fval (ffloat i).val⌋ = i.toInt := by rw [value, Int.floor_intCast]
  rw [ffix_within (whole ▸ i.le_toInt) (whole ▸ i.toInt_lt), whole]
  exact ⟨value, BitVec.ofInt_toInt, rfl⟩

/-! ## RND (R209, R355) -/

theorem single_low (a : Ext) : (single a).extractLsb' 0 8 = 0#8 := BitVec.extractLsb'_append_eq_right

/-- A normalised number in range, cut to single precision. -/
theorem fval_single_fnorm {m e : Int} (hm : m ≠ 0) (ho : (fnorm m e).ovf = false) (hu : (fnorm m e).unf = false) :
    fval (single (fnorm m e).val) = (normMan m / 256 : Int) * 2 ^ (normExp m e - 23) := by
  obtain ⟨val, lo, hi⟩ := fnorm_val hm ho hu
  have mant := normMan_isMant hm
  rw [val, fval_single (fval_pack lo hi mant).1, expOf_pack lo.le hi, mant33_pack mant]

theorem cut_le (m e : Int) : ((m / 256 : Int) : ℚ) * 2 ^ (e - 23) ≤ m * 2 ^ (e - 31) := by
  have cut : ((m / 256 : Int) : ℚ) * 256 ≤ m := by exact_mod_cast (by omega : m / 256 * 256 ≤ m)
  rw [unit_single, ← mul_assoc]
  exact mul_le_mul_of_nonneg_right cut (by positivity)

theorem lt_cut_add_unit (m e : Int) :
    (m : ℚ) * 2 ^ (e - 31) < (m / 256 : Int) * 2 ^ (e - 23) + 2 ^ (e - 23) := by
  have cut : (m : ℚ) < ((m / 256 : Int) + 1) * 256 := by exact_mod_cast (by omega : m < (m / 256 + 1) * 256)
  rw [unit_single, ← add_one_mul, ← mul_assoc]
  exact mul_lt_mul_of_pos_right cut (by positivity)

/-- Where at most the half unit that rounding adds carries, cutting to 24 bits loses less than a unit of 24 bits at the
exponent before it: a carry leaves a mantissa whose cut bits are the added ones. -/
theorem lt_rounded_add_unit {m e : Int} (lo : -2 ^ 32 ≤ m) (hi : m < 2 ^ 32 + 128) :
    (m : ℚ) * 2 ^ (e - 31) < (normMan m / 256 : Int) * 2 ^ (normExp m e - 23) + 2 ^ (e - 23) := by
  obtain fits | carry := lt_or_ge m (2 ^ 32)
  · have bits := significant_le_iff.mpr ⟨lo, fits⟩
    have smaller : (2 : ℚ) ^ (normExp m e - 23) ≤ 2 ^ (e - 23) :=
      zpow_le_zpow_right₀ one_le_two (by rw [normExp]; omega)
    rw [← normMan_exact bits]
    exact (lt_cut_add_unit _ _).trans_le (by linarith)
  · have bits : significant m = 33 := le_antisymm (significant_le_iff.mpr (by omega))
      (Nat.lt_of_not_le (significant_le_iff.not.mpr (by omega)))
    have scale : (2 : ℚ) ^ (normExp m e - 23) = 2 * 2 ^ (e - 23) := by
      rw [normExp, bits, show (e - 32 + (33 : Nat) - 23 : Int) = 1 + (e - 23) by push_cast; ring, zpow_add₀ two_ne_zero]
      rfl
    have added : (m : ℚ) < 2 ^ 32 + 128 := by exact_mod_cast hi
    have pos : (0 : ℚ) < 2 ^ (e - 31) := by positivity
    rw [normMan_of_carry bits, show m / 2 / 256 = 2 ^ 23 by omega, scale, unit_single]
    push_cast
    nlinarith

/-- The mantissa that rounding normalises: half a unit of 24 bits is added (R209). -/
def roundMan (a : Ext) : Int := aligned a (expOf a) + 128

theorem roundMan_range (a : Ext) : -2 ^ 32 ≤ roundMan a ∧ roundMan a < 2 ^ 32 + 128 := by
  have range := addend_range a
  rw [roundMan, aligned_self]
  omega

theorem roundMan_value (a : Ext) : (roundMan a : ℚ) * 2 ^ (expOf a - 31) = fval a + 2 ^ (expOf a - 24) := by
  rw [roundMan, aligned_self, fval_eq_addend, show expOf a - 24 = 7 + (expOf a - 31) by ring, zpow_add₀ two_ne_zero]
  push_cast
  ring

theorem roundMan_ne_zero {a : Ext} (h : isZero a = false) : roundMan a ≠ 0 := by
  have range := mant33_isMant (manOf a)
  rw [IsMant] at range
  rw [roundMan, aligned_self, addend_of_ne_zero h]
  omega

theorem fround_of_ne_zero {a : Ext} (h : isZero a = false) : fround a =
    if (fnorm (roundMan a) (expOf a)).ovf then fnorm (roundMan a) (expOf a)
    else { fnorm (roundMan a) (expOf a) with val := single (fnorm (roundMan a) (expOf a)).val } := by
  rw [fround, h, roundMan, aligned_self, addend_of_ne_zero h]
  rfl

/-- Only a positive number can overflow when it is rounded. -/
theorem roundMan_pos_of_ovf {a : Ext} (h : isZero a = false) (ho : (fnorm (roundMan a) (expOf a)).ovf = true) :
    0 ≤ roundMan a := by
  have above := (fnorm_ovf_iff (roundMan_ne_zero h) _).mp ho
  have exponent := expOf_range a
  have bits := significant_le_iff (m := roundMan a) (k := 32)
  have range := roundMan_range a
  rw [normExp] at above
  omega

/-- Rounding is normalisation of the mantissa with half a unit added, then cut to 24 bits. -/
theorem fround_value {a : Ext} (h : isZero a = false) :
    let r := fnorm (roundMan a) (expOf a)
    (fround a).ovf = r.ovf ∧ (fround a).unf = r.unf ∧ (fround a).neg = r.neg ∧ (fround a).zero = r.zero ∧
    (r.ovf = true → (fround a).val = 0x7F7FFFFFFF#40) ∧ (r.unf = true → (fround a).val = 0x8000000000#40) ∧
    (r.ovf = false → r.unf = false → (fround a).val.extractLsb' 0 8 = 0#8 ∧
      fval (fround a).val ≤ fval a + 2 ^ (expOf a - 24) ∧ fval a < fval (fround a).val + 2 ^ (expOf a - 24)) := by
  intro r
  cases ho : r.ovf
  · rw [fround_of_ne_zero h, if_neg (by rw [ho]; exact Bool.false_ne_true)]
    refine ⟨ho, rfl, rfl, rfl, fun h => absurd h Bool.false_ne_true, fun hu => ?_, fun _ hu => ?_⟩
    · exact congrArg single (fnorm_val_of_unf hu)
    · have hm := roundMan_ne_zero h
      obtain ⟨lo, hi⟩ := roundMan_range a
      have value := roundMan_value a
      have lower := (cut_le (normMan (roundMan a)) _).trans (normMan_le (roundMan a) (expOf a))
      have upper := lt_rounded_add_unit (e := expOf a) lo hi
      have unit : (2 : ℚ) ^ (expOf a - 23) = 2 * 2 ^ (expOf a - 24) := by
        rw [show expOf a - 23 = 1 + (expOf a - 24) by ring, zpow_add₀ two_ne_zero]
        rfl
      dsimp only
      rw [fval_single_fnorm hm ho hu]
      exact ⟨single_low _, by linarith, by linarith⟩
  · rw [fround_of_ne_zero h, if_pos ho]
    refine ⟨ho, rfl, rfl, rfl, fun _ => ?_, fun hu => ?_, fun h => absurd h Bool.false_ne_true.symm⟩
    · rw [fnorm_val_of_ovf ho, decide_eq_false (roundMan_pos_of_ovf h ho).not_gt]
      rfl
    · rw [fnorm_not_ovf_of_unf hu] at ho
      cases ho

/-! ## NORM (R208) -/

theorem fnormalize_of_isZero {a : Ext} (h : isZero a = true) : fnormalize a =
    { val := 0x8000000000#40, ovf := false, unf := decide (manOf a ≠ 0#32), neg := (manOf a).msb
      zero := decide (manOf a = 0#32) } := by
  rw [fnormalize, if_pos h]
  split
  · next hm => rw [hm]; rfl
  · next hm => rw [decide_eq_true hm, decide_eq_false hm]; rfl

theorem fnormalize_of_ne_zero {a : Ext} (h : isZero a = false) :
    fnormalize a = fnorm (manOf a).toInt (expOf a) := by
  have ho := fnorm_toInt_ovf (manOf a) (expOf_range a).2
  rw [fnormalize, h, if_neg Bool.false_ne_true]
  generalize fnorm (manOf a).toInt (expOf a) = r at ho ⊢
  cases r
  cases ho
  rfl

theorem toInt_eq_zero_iff (w : Word) : w.toInt = 0 ↔ w = 0#32 := by
  rw [← BitVec.toInt_inj]
  rfl

theorem fnormalize_value {a : Ext} (h : isZero a = false) :
    let v : ℚ := (manOf a).toInt * 2 ^ (expOf a - 31)
    (fnormalize a).ovf = false ∧ (fnormalize a).neg = (manOf a).msb ∧ (fnormalize a).zero = decide (manOf a = 0#32) ∧
    ((fnormalize a).unf = true ↔ manOf a ≠ 0#32 ∧ -2 ^ (-127 : Int) ≤ v ∧ v < 2 ^ (-127 : Int)) ∧
    ((fnormalize a).unf = false → fval (fnormalize a).val = v) ∧
    ((fnormalize a).unf = true → (fnormalize a).val = 0x8000000000#40) := by
  have exponent := (expOf_range a).2
  have mantissa := toInt_eq_zero_iff (manOf a)
  rw [fnormalize_of_ne_zero h, BitVec.msb_eq_toInt]
  exact ⟨fnorm_toInt_ovf _ exponent, fnorm_negFlag _ _, (fnorm_zeroFlag _ _).trans (decide_eq_decide.mpr mantissa),
    (fnorm_unf_iff_value _ _).trans (and_congr_left' (not_congr mantissa)), fval_fnorm_toInt _ exponent, fnorm_val_of_unf⟩

/-- Settles O34: each conversion by the value it gives. -/
theorem conversionValue : Obligations.ConversionValue :=
  ⟨ffloat_value, ffix_value, fun _ h => if_pos h, fun _ h => fround_value h, fun _ h => fnormalize_of_isZero h,
    fun _ h => fnormalize_value h⟩

end Sys2Proof.Machine
end

section
/-! PROOFS. The family of 41_addressing.md: the direct address (O19), and the indirect modes that are not circular (O20,
O21). -/
namespace Sys2Proof.Machine

/-! ## The direct address (R244) -/

theorem directAddr_toNat (a : BitVec 16) (s : State) : (directAddr a s).toNat = s.dp.toNat % 256 * 65536 + a.toNat := by
  rw [directAddr, BitVec.toNat_append, BitVec.extractLsb'_toNat, ← Nat.shiftLeft_add_eq_or_of_lt a.isLt, Nat.shiftLeft_eq]
  rfl

/-- Settles O19. -/
theorem directAddress : Obligations.DirectAddress := fun a s => ⟨rfl, directAddr_toNat a s⟩

/-! ## An indirect address and its update (R250, R263) -/

/-- The address of an indirect operand and the machine after its update, for a displacement field of either form. -/
def addressed {δ : Type} (disp : δ → Addr) (i : Ind δ) (s : State) : Except Stop (Addr × State) :=
  (generate disp i s).map fun g => (g.1, updateAr i g.2 s)

theorem indirect_eq_addressed : indirect = addressed disp8 := rfl

theorem indirect3_eq_addressed : indirect3 = addressed disp1 := rfl

section
variable {δ ε : Type} {disp : δ → Addr} {disp' : ε → Addr} {s : State} {n : BitVec 3}

theorem addressed_of_generate {i : Ind δ} {a : Addr} {u : Option Addr} (h : generate disp i s = .ok (a, u)) :
    addressed disp i s = .ok (a, updateAr i u s) := by rw [addressed, h]; rfl

/-- An indexed mode sees its step only by its value, wherever that comes from (R250, R265). -/
theorem addressed_idx_congr {op : IndOp} {x : Step δ} {y : Step ε} (h : stepValue disp s x = stepValue disp' s y) :
    addressed disp (.idx op x n) s = addressed disp' (.idx op y n) s := by
  simp only [addressed, generate, h]
  rfl

/-- The six indexed modes that are not circular, by the value `d` of their step (R251 to R256). -/
theorem addressed_linear {x : Step δ} {d : Addr} (h : stepValue disp s x = d) :
    addressed disp (.idx .preAdd x n) s = .ok (arAddr n s + d, s) ∧
    addressed disp (.idx .preSub x n) s = .ok (arAddr n s - d, s) ∧
    addressed disp (.idx .preAddMod x n) s = .ok (arAddr n s + d, writeArAddr n (arAddr n s + d) s) ∧
    addressed disp (.idx .preSubMod x n) s = .ok (arAddr n s - d, writeArAddr n (arAddr n s - d) s) ∧
    addressed disp (.idx .postAdd x n) s = .ok (arAddr n s, writeArAddr n (arAddr n s + d) s) ∧
    addressed disp (.idx .postSub x n) s = .ok (arAddr n s, writeArAddr n (arAddr n s - d) s) := by
  subst h
  exact ⟨rfl, rfl, rfl, rfl, rfl, rfl⟩

end

/-! ## The updated register (R24, R250) -/

theorem arAddr_eq_setWidth (n : BitVec 3) (s : State) : arAddr n s = (s.ar[n.toNat]).setWidth 24 := extractLsb'_24 _

theorem writeArAddr_ar_self (n : BitVec 3) (a : Addr) (s : State) :
    (writeArAddr n a s).ar[n.toNat] = (s.ar[n.toNat]).extractLsb' 24 8 ++ a := Vector.getElem_set_self n.isLt

@[simp] theorem arAddr_writeArAddr (n : BitVec 3) (a : Addr) (s : State) : arAddr n (writeArAddr n a s) = a := by
  rw [arAddr, writeArAddr_ar_self, BitVec.extractLsb'_append_eq_right]

/-- Bits 31-24 stay. -/
theorem writeArAddr_high (n : BitVec 3) (a : Addr) (s : State) :
    ((writeArAddr n a s).ar[n.toNat]).extractLsb' 24 8 = (s.ar[n.toNat]).extractLsb' 24 8 := by
  rw [writeArAddr_ar_self, BitVec.extractLsb'_append_eq_left]

theorem writeArAddr_keepsRegs (n : BitVec 3) (a : Addr) (s : State) : KeepsRegs [.ar n] s (writeArAddr n a s) :=
  writeAr_keepsRegs n _ s

theorem updateAr_keepsRegs {δ : Type} (i : Ind δ) (u : Option Addr) (s : State) :
    KeepsRegs [.ar i.arCode] s (updateAr i u s) := by
  cases u with
  | none => exact fun _ _ => rfl
  | some a => exact writeArAddr_keepsRegs _ a s

theorem arAddr_updateAr {δ : Type} (i : Ind δ) (u : Option Addr) (s : State) :
    arAddr i.arCode (updateAr i u s) = u.getD (arAddr i.arCode s) := by
  cases u with
  | none => rfl
  | some a => exact arAddr_writeArAddr _ a s

/-! ## The modes with a displacement (R250 to R256, R261) -/

/-- Settles O20: the displacement is the value of the step. -/
theorem displacementModes : Obligations.DisplacementModes := by
  intro n d s low moved
  have atLow : low = arAddr n s := (arAddr_eq_setWidth n s).symm
  rw [atLow, indirect_eq_addressed]
  obtain ⟨preAdd, preSub, preAddMod, preSubMod, postAdd, postSub⟩ :=
    addressed_linear (disp := disp8) (x := .disp d) (s := s) (n := n) rfl
  exact ⟨preAdd, preSub, preAddMod, preSubMod, postAdd, postSub, rfl⟩

/-! ## The bit-reversed mode (R262, R270) -/

theorem getLsbD_reverse_of_lt (a : Addr) {k : Nat} (h : k < 24) : a.reverse.getLsbD k = a.getLsbD (23 - k) := by
  rw [BitVec.getLsbD_reverse, BitVec.getMsbD_eq_getLsbD, decide_eq_true h, Bool.true_and]

/-- The bit-reversed sum, bit by bit: that of the mirrored addresses, read from the other end. -/
theorem bitRevAdd_getLsbD (a b : Addr) {k : Nat} (h : k < 24) :
    (bitRevAdd a b).getLsbD k = (a.reverse + b.reverse).getLsbD (23 - k) := getLsbD_reverse_of_lt _ h

/-- The bit-reversed mode gives ARn and adds IR0 to it with the carry reversed. -/
theorem indirect_bitrev (n : BitVec 3) (s : State) : indirect (.bitrev n) s =
    .ok (arAddr n s, writeArAddr n (bitRevAdd (arAddr n s) (s.ir0.extractLsb' 0 24)) s) := rfl

/-! ## The modes with an index register (R259, R260), the short form (R265) -/

theorem stepValue_of_index {δ : Type} {disp : δ → Addr} {s : State} {x : Step δ} {d : Addr}
    (h : x = .ir0 ∧ d = s.ir0.setWidth 24 ∨ x = .ir1 ∧ d = s.ir1.setWidth 24) : stepValue disp s x = d := by
  obtain ⟨rfl, rfl⟩ | ⟨rfl, rfl⟩ := h
  · exact extractLsb'_24 s.ir0
  · exact extractLsb'_24 s.ir1

/-- What a field of the short form gives alone: its address, and its register with the update. -/
theorem indirect3_of_generate {i : Ind Unit} {s : State} {a : Addr} {u : Option Addr} (h : generate disp1 i s = .ok (a, u)) :
    ∃ t, indirect3 i s = .ok (a, t) ∧ KeepsRegs [.ar i.arCode] s t ∧ arAddr i.arCode t = u.getD (arAddr i.arCode s) :=
  ⟨_, addressed_of_generate h, updateAr_keepsRegs i u s, arAddr_updateAr i u s⟩

/-- Settles O21: an index register is a step by its low 24 bits, the short form a displacement of 1. -/
theorem indexModes : Obligations.IndexModes := by
  intro n s low moved
  have atLow : low = arAddr n s := (arAddr_eq_setWidth n s).symm
  rw [atLow, indirect_eq_addressed, indirect3_eq_addressed]
  refine ⟨fun x d hx => addressed_linear (stepValue_of_index hx),
    fun op => ⟨addressed_idx_congr rfl, addressed_idx_congr rfl, addressed_idx_congr rfl⟩, rfl, rfl,
    fun i a u => indirect3_of_generate, _, indirect_bitrev n s, writeArAddr_keepsRegs _ _ _, writeArAddr_high _ _ _, ?_⟩
  intro k hk
  rw [arAddr_writeArAddr, bitRevAdd_getLsbD _ _ hk, extractLsb'_24]

end Sys2Proof.Machine
end

section
/-! PROOFS. The family of 41_addressing.md: circular addressing (O22). -/
namespace Sys2Proof.Machine

/-! ## The move of an index (R266) -/

section
variable {size index step : Nat} {forward : Bool}

theorem circMove_lt (hi : index < size) (hs : step ≤ size) : circMove size index step forward < size := by
  unfold circMove
  split <;> split <;> omega

/-- The move is the step, forward or back, and at most one turn of the buffer. -/
theorem circMove_emod (hs : step ≤ size) :
    (circMove size index step forward : Int) % size = (index + (if forward then (step : Int) else -step)) % size := by
  cases forward with
  | true =>
    by_cases h : index + step < size
    · simp [circMove, h]
    · have turn : ((index + step - size : Nat) : Int) = index + step - size := by omega
      simp only [circMove, h, if_true, if_false, turn, Int.sub_emod_right]
  | false =>
    by_cases h : step ≤ index
    · have back : ((index - step : Nat) : Int) = index + -step := by omega
      simp [circMove, h, back]
    · have turn : ((index + size - step : Nat) : Int) = index + -step + size := by omega
      simp only [circMove, h, Bool.false_eq_true, if_false, turn, Int.add_emod_right]

end

/-! ## The block of an address (R258, R266) -/

section
variable {bk : Word} {a : Addr} {step : Nat} {forward : Bool}

theorem circOk_iff : circOk bk a step = true ↔
    0 < bk.toNat ∧ bk.toNat < 2 ^ 16 ∧ step ≤ bk.toNat ∧ circIndex bk a < bk.toNat := by
  simp only [circOk, Bool.and_eq_true, decide_eq_true_eq, bne_iff_ne, Nat.pos_iff_ne_zero, and_assoc]

/-- A block divides the address space. -/
theorem block_dvd (h0 : 0 < bk.toNat) (h16 : bk.toNat < 2 ^ 16) : 2 ^ (blockBit bk + 1) ∣ 2 ^ 24 := by
  have bit : blockBit bk < 16 := (Nat.log2_lt h0.ne').mpr h16
  exact pow_dvd_pow 2 (by omega)

/-- An address with its index in its block replaced: no carry leaves the block. -/
theorem toNat_replaceIndex {block m : Nat} (hb : block ∣ 2 ^ 24) (hm : m < block) :
    (BitVec.ofNat 24 (a.toNat - a.toNat % block + m)).toNat = block * (a.toNat / block) + m := by
  have base : a.toNat - a.toNat % block = block * (a.toNat / block) := by
    have := Nat.div_add_mod a.toNat block
    omega
  have next : block * (a.toNat / block + 1) ≤ 2 ^ 24 := by
    obtain ⟨count, total⟩ := hb
    have inside : a.toNat / block < count := Nat.div_lt_of_lt_mul (total ▸ a.isLt)
    exact total ▸ Nat.mul_le_mul_left block inside
  rw [base, BitVec.toNat_ofNat, Nat.mod_eq_of_lt (by rw [Nat.mul_add_one] at next; omega)]

/-- Within its conditions the circular update stays in the block and has the moved index. -/
theorem circ_of_circOk (h : circOk bk a step = true) : ∃ b, circ bk a step forward = .ok b ∧
    b.toNat / 2 ^ (blockBit bk + 1) = a.toNat / 2 ^ (blockBit bk + 1) ∧
    circIndex bk b = circMove bk.toNat (circIndex bk a) step forward := by
  obtain ⟨h0, h16, hs, hi⟩ := circOk_iff.mp h
  have inBlock : circMove bk.toNat (circIndex bk a) step forward < 2 ^ (blockBit bk + 1) :=
    (circMove_lt hi hs).trans Nat.lt_log2_self
  have value : (BitVec.ofNat 24 (a.toNat - circIndex bk a + circMove bk.toNat (circIndex bk a) step forward)).toNat =
      2 ^ (blockBit bk + 1) * (a.toNat / 2 ^ (blockBit bk + 1)) + circMove bk.toNat (circIndex bk a) step forward :=
    toNat_replaceIndex (block_dvd h0 h16) inBlock
  refine ⟨_, if_pos h, ?_, ?_⟩
  · rw [value, Nat.mul_add_div (Nat.two_pow_pos _), Nat.div_eq_of_lt inBlock, Nat.add_zero]
  · change BitVec.toNat _ % _ = _
    rw [value, Nat.mul_add_mod, Nat.mod_eq_of_lt inBlock]

theorem circ_of_not_circOk (h : circOk bk a step = false) :
    circ bk a step forward = .error (.refuse .circularConditions) := by
  rw [circ, if_neg (Bool.not_eq_true _ ▸ h)]

end

/-! ## Circular operands (R257, R258) -/

/-- A circular mode gives ARn, and its update is that of `circ`. -/
theorem addressed_circular {δ : Type} {disp : δ → Addr} {x : Step δ} {n : BitVec 3} {s : State} (forward : Bool)
    {step : Nat} (h : (stepValue disp s x).toNat = step) :
    addressed disp (.idx (if forward then .postAddCirc else .postSubCirc) x n) s =
      (circ s.bk (arAddr n s) step forward).map fun b => (arAddr n s, writeArAddr n b s) := by
  subst h
  have once (y : Except Stop Addr) : (y.map fun b => (arAddr n s, some b)).map
      (fun g => (g.1, updateAr (.idx (if forward then .postAddCirc else .postSubCirc) x n) g.2 s)) =
      y.map fun b => (arAddr n s, writeArAddr n b s) := by cases y <;> rfl
  cases forward <;> exact once _

/-- A mapped computation, by what the computation gives. -/
theorem map_by_outcome {α β : Type} {x : Except Stop α} {y : Except Stop β} {f : α → β} (h : y = x.map f) :
    (∀ b, x = .ok b → y = .ok (f b)) ∧ ∀ e, x = .error e → y = .error e := by
  subst h
  exact ⟨fun b hb => by rw [hb]; rfl, fun e he => by rw [he]; rfl⟩

/-- Within the conditions: the block stays, and the index is the old one and the step, modulo the block size (R266). -/
theorem circ_within {bk : Word} {a : Addr} {step : Nat} (forward : Bool) (h : circOk bk a step = true) :
    ∃ b, circ bk a step forward = .ok b ∧ b.toNat / 2 ^ (blockBit bk + 1) = a.toNat / 2 ^ (blockBit bk + 1) ∧
      circIndex bk b < bk.toNat ∧
      (circIndex bk b : Int) % bk.toNat = (circIndex bk a + (if forward then (step : Int) else -step)) % bk.toNat := by
  obtain ⟨b, hb, high, index⟩ := circ_of_circOk (forward := forward) h
  obtain ⟨-, -, hs, hi⟩ := circOk_iff.mp h
  refine ⟨b, hb, high, ?_⟩
  rw [index]
  exact ⟨circMove_lt hi hs, circMove_emod hs⟩

/-- Each condition alone is enough for the refusal (R267, U17). -/
theorem circOk_eq_false {bk : Word} {a : Addr} {step : Nat}
    (h : bk.toNat = 0 ∨ 2 ^ 16 ≤ bk.toNat ∨ bk.toNat < step ∨ bk.toNat ≤ circIndex bk a) : circOk bk a step = false := by
  rw [← Bool.not_eq_true, circOk_iff]
  omega

/-- Settles O22: the conditions are those of `circOk`, and every form of the operand goes through `circ`. -/
theorem circularAddressing : Obligations.CircularAddressing := by
  refine ⟨fun bk a step forward => ⟨fun h0 h16 hs hi => circ_within forward (circOk_iff.mpr ⟨h0, h16, hs, hi⟩),
    fun outside => circ_of_not_circOk (circOk_eq_false outside)⟩, fun forward d n s => ?_⟩
  intro op low gives
  have atLow : low = arAddr n s := (arAddr_eq_setWidth n s).symm
  simp only [gives, atLow]
  exact ⟨map_by_outcome (addressed_circular forward (BitVec.toNat_setWidth_of_le (by decide))),
    map_by_outcome (addressed_circular forward (congrArg BitVec.toNat (extractLsb'_24 s.ir0))),
    map_by_outcome (addressed_circular forward (congrArg BitVec.toNat (extractLsb'_24 s.ir1))),
    map_by_outcome (addressed_circular forward rfl)⟩

end Sys2Proof.Machine
end

section
/-! PROOFS. The family of 41_addressing.md: stores and the stack instructions (O37). -/
namespace Sys2Proof.Machine

/-! ## Stores (R313, R314) -/

section
variable {m : MemOp} {a : Addr} {w : Word} {s s₁ s₂ : State}

/-- STI and the address of its operand: the register is stored as it stands after the update (D9). -/
theorem exec_sti {r : Reg} (ha : memAddr m s = .ok (a, s₁)) (hs : store a (readReg r s₁) s₁ = .ok s₂) :
    exec (.sti r m) s = .next (advance s₂) := by
  change execSti r m s = _
  simp only [execSti, ha, hs, ok_bind, pure_eq_ok, outcome_ok]

theorem exec_stf {f : FReg} (ha : memAddr m s = .ok (a, s₁)) (hs : store a (fstore (readExt f s₁)) s₁ = .ok s₂) :
    exec (.stf f m) s = .next (advance s₂) := by
  change execStf f m s = _
  simp only [execStf, ha, hs, ok_bind, pure_eq_ok, outcome_ok]

/-! ## Pushes (R290, R311, R312) -/

/-- A free number depends on the state's counter of free values only. -/
theorem freeUpTo_congr {s t : State} (h : s.freeCount = t.freeCount) (k n : Nat) : freeUpTo s k n = freeUpTo t k n := by
  induction n with
  | zero => rfl
  | succ n ih => rw [freeUpTo, freeUpTo, ih, freeBit, freeBit, h]

theorem rcRead_incrementedSp (s : State) : rcRead { s with sp := s.sp + 1 } = rcRead s := by
  have ahead : freeUpTo { s with sp := s.sp + 1 } 33 (fetchedEnds { s with sp := s.sp + 1 }) =
      freeUpTo s 33 (fetchedEnds s) := freeUpTo_congr (t := s) (by rfl) 33 (fetchedEnds s)
  rw [rcRead, ahead]
  rfl

/-- A push sees SP incremented and every other register as it was (D17). -/
theorem readReg_incrementedSp (r : Reg) (s : State) :
    readReg r { s with sp := s.sp + 1 } = if r = .sp then s.sp + 1 else readReg r s := by
  by_cases h : r = .sp
  · subst h
    rfl
  · rw [if_neg h]
    cases r with
    | sp => exact absurd rfl h
    | rc => exact rcRead_incrementedSp s
    | _ => rfl

theorem exec_push {r : Reg} (h : push (readReg r { s with sp := s.sp + 1 }) s = .ok s₂) :
    exec (.push r) s = .next (advance s₂) := by
  change execPush r s = _
  simp only [execPush, h, ok_bind, pure_eq_ok, outcome_ok]

theorem exec_pushf {f : FReg} (h : push (fstore (readExt f s)) s = .ok s₂) : exec (.pushf f) s = .next (advance s₂) := by
  change execPushf f s = _
  simp only [execPushf, h, ok_bind, pure_eq_ok, outcome_ok]

/-! ## Pops (R290, R309, R310) -/

theorem pop_of_load (h : load (s.sp.extractLsb' 0 24) s = .ok (w, s₁)) :
    pop s = .ok (w, { s₁ with sp := s₁.sp - 1 }) := by simp only [pop, h, ok_bind, pure_eq_ok]

theorem load_pc (h : load a s = .ok (w, s₁)) : s₁.pc = s.pc := (Fetched.load (.refl s) h).pc

/-- The flags of a loaded floating-point value: N is the sign of its mantissa (R302). -/
theorem flagsAre_load (v : Ext) (st : Word) : FlagsAre (loadIs v) st ((ldfEffect v).flags st) := by
  have sign : v.getLsbD 31 = (manOf v).msb := by
    rw [manOf, BitVec.msb_eq_getLsbD_last, BitVec.getLsbD_extractLsb']
    rfl
  rw [loadIs, sign]
  exact flagsAre_opFlags _ _ _ _ _ _

/-- POP delivers the word on top by the rule of its register, after the decrement of SP (D9). -/
theorem pop_gives (r : Reg) (h : load (s.sp.extractLsb' 0 24) s = .ok (w, s₁)) :
    GivesInt (.pop r) s { s₁ with sp := s₁.sp - 1 } r (logicIs w) := by
  have pc : s₁.pc = s.pc := load_pc h
  refine givesInt_of_deliver (e := logicEffect w) ?_ pc rfl (flagsAre_logic w)
  change execPop r s = _
  simp only [execPop, pop_of_load h, ok_bind]
  cases deliver r (logicEffect w) { s₁ with sp := s₁.sp - 1 } <;> rfl

theorem popf_gives (f : FReg) (h : load (s.sp.extractLsb' 0 24) s = .ok (w, s₁)) :
    GivesFlt (.popf f) s { s₁ with sp := s₁.sp - 1 } f (loadIs (fload w)) := by
  have pc : s₁.pc = s.pc := load_pc h
  refine givesFlt_of_deliver (e := ldfEffect (fload w)) ?_ pc rfl (flagsAre_load _)
  change execPopf f s = _
  simp only [execPopf, pop_of_load h, ok_bind, pure_eq_ok, outcome_ok]

end

/-- Settles O37. -/
theorem storeAndStackResults : Obligations.StoreAndStackResults := by
  intro r f m a w s s₁ s₂
  refine ⟨fun ha => ⟨exec_sti ha, exec_stf ha⟩, fun hs => ?_, exec_pushf, fun h => ⟨pop_gives r h, popf_gives f h⟩⟩
  rw [← readReg_incrementedSp] at hs
  exact exec_push hs

end Sys2Proof.Machine
end

section
/-! PROOFS. The family of 42_load_store.md: loads of a part of a register and loads on a condition (O31). -/
namespace Sys2Proof.Machine

section
variable {s s₁ : State} {b : Ext} {w : Word}

/-- LDE: an exponent of -128 loads the whole of the number 0 (R301). -/
theorem withExponent_eq (e old : Ext) : withExponent e old =
    if e.extractLsb' 32 8 = 0x80#8 then 0x8000000000#40 else e.extractLsb' 32 8 ++ old.extractLsb' 0 32 := by
  simp only [withExponent, isZero, decide_eq_true_eq, fzero]

theorem exec_lde {src : Src FReg} {dst : FReg} (h : srcFlt src s = .ok (b, s₁)) :
    exec (.lde src dst) s = .next (advance (writeExt dst (withExponent b (readExt dst s₁)) s₁)) := by
  change execLde src dst s = _
  simp only [execLde, h, ok_bind, pure_eq_ok, outcome_ok]

theorem exec_ldm {src : Src FReg} {dst : FReg} (h : srcMan src s = .ok (b, s₁)) :
    exec (.ldm src dst) s = .next (advance (writeInt dst (manOf b) s₁)) := by
  change execLdm src dst s = _
  simp only [execLdm, h, ok_bind, pure_eq_ok, outcome_ok]

/-- LDFcond reads its source in any case (R304). -/
theorem exec_ldfCond {c : Cond} {src : Src FReg} {dst : FReg} (h : srcFlt src s = .ok (b, s₁)) :
    exec (.ldfCond c src dst) s = .next (advance (if condHolds s.st c then writeExt dst b s₁ else s₁)) := by
  change execLdfCond c src dst s = _
  simp only [execLdfCond, h, ok_bind, pure_eq_ok, outcome_ok]

section
variable {c : Cond} {src : Src Reg} {dst : Reg} {s₂ : State} (h : srcInt src s = .ok (w, s₁))
include h

/-- LDIcond whose condition fails: its source has been read, and nothing is written (R306). -/
theorem exec_ldiCond_of_not (hc : condHolds s.st c = false) : exec (.ldiCond c src dst) s = .next (advance s₁) := by
  change execLdiCond c src dst s = _
  simp only [execLdiCond, h, hc, ok_bind, pure_eq_ok, outcome_ok, Bool.false_eq_true, if_false]

theorem exec_ldiCond_of_holds (hc : condHolds s.st c = true) (hw : writeReg dst w s₁ = .ok s₂) :
    exec (.ldiCond c src dst) s = .next (advance s₂) := by
  change execLdiCond c src dst s = _
  simp only [execLdiCond, h, hc, hw, ok_bind, pure_eq_ok, outcome_ok, if_true]

end

/-- The PC after a load on a condition is that after its operand was read. -/
theorem advance_writeExt_if (p : Bool) (dst : FReg) (b : Ext) (s : State) :
    advance (if p then writeExt dst b s else s) = { (if p then writeExt dst b s else s) with pc := s.pc + 1 } := by
  cases p <;> rfl

end

/-- Settles O31: each load by what it writes once its operand has been read. -/
theorem partialAndConditionalLoads : Obligations.PartialAndConditionalLoads := by
  intro src dst isrc idst c s s₁ b w
  refine ⟨fun h => ⟨?lde, ?ldfCond⟩, exec_ldm, fun h => ⟨exec_ldiCond_of_not h, fun hc s₂ => exec_ldiCond_of_holds h hc⟩⟩
  case lde => rw [exec_lde h, withExponent_eq]; rfl
  case ldfCond => rw [exec_ldfCond h, advance_writeExt_if]

end Sys2Proof.Machine
end

section
/-! PROOFS. The family of 42_load_store.md: the frame of an instruction that stores, and of the accesses it is made of. -/
namespace Sys2Proof.Machine

/-! ## What stays of the units and the mode -/

theorem KeepsMode.trans {s t u : State} (h : KeepsMode s t) (k : KeepsMode t u) : KeepsMode s u := by
  obtain ⟨idle, clock, delay, single⟩ := h
  obtain ⟨idle', clock', delay', single'⟩ := k
  exact ⟨idle'.trans idle, clock'.trans clock, delay'.trans delay, single'.trans single⟩

theorem KeepsUnits.trans {s t u : State} (h : KeepsUnits s t) (k : KeepsUnits t u) : KeepsUnits s u := by
  obtain ⟨device, rom, pins, timer0, timer1, dma, primary, expansion⟩ := h
  obtain ⟨device', rom', pins', timer0', timer1', dma', primary', expansion'⟩ := k
  exact ⟨device'.trans device, rom'.trans rom, pins'.trans pins, timer0'.trans timer0, timer1'.trans timer1, dma'.trans dma,
    primary'.trans primary, expansion'.trans expansion⟩

/-- The routing of an address depends on the device and the pins (R82). -/
theorem KeepsUnits.region {s t : State} (h : KeepsUnits s t) (a : Addr) : region t a = region s a := by
  obtain ⟨device, -, pins, -⟩ := h
  unfold Machine.region
  rw [device, pins]

/-! ## A frame with stores -/

/-- What an instruction keeps that stores at most to the words of a list: registers outside `written`, ST outside `mask`,
the other bytes and the mode; and, where none of the words is on the peripheral bus, the units and IF. -/
structure KeptOutside (written : List Reg) (mask : Word) (stored : List Addr) (s t : State) : Prop where
  regs : KeepsRegs (.st :: .ifr :: written) s t
  st : KeepsSt mask s t
  bytes : KeepsBytes stored s t
  mode : KeepsMode s t
  units : (∀ a ∈ stored, region s a ≠ .peripheral) → KeepsUnits s t ∧ (.ifr ∉ written → t.ifr = s.ifr)

theorem Kept.outside {written : List Reg} {mask : Word} {s t : State} (h : Kept written mask s t) (stored : List Addr) :
    KeptOutside written mask stored s t where
  regs := h.regs
  st := h.st
  bytes k _ := by rw [h.mem]
  mode := h.mode
  units _ := ⟨h.units, h.ifr⟩

/-- One step after another; the routing is the same before and after the first (R82). -/
theorem KeptOutside.trans {written : List Reg} {mask : Word} {stored : List Addr} {s t u : State}
    (h : KeptOutside written mask stored s t) (k : KeptOutside written mask stored t u) :
    KeptOutside written mask stored s u where
  regs q hq := (k.regs q hq).trans (h.regs q hq)
  st := k.st.trans h.st
  bytes b hb := (k.bytes b hb).trans (h.bytes b hb)
  mode := h.mode.trans k.mode
  units off := by
    obtain ⟨first, ifr⟩ := h.units off
    obtain ⟨second, ifr'⟩ := k.units fun a ha => first.region a ▸ off a ha
    exact ⟨first.trans second, fun hq => (ifr' hq).trans (ifr hq)⟩

/-- A step that stores nothing, after others. -/
theorem KeptOutside.trans_kept {written : List Reg} {mask : Word} {stored : List Addr} {s t u : State}
    (h : KeptOutside written mask stored s t) (k : Kept written mask t u) : KeptOutside written mask stored s u :=
  h.trans (k.outside _)

/-- A step that stores, after others that do not. -/
theorem Kept.trans_outside {written : List Reg} {mask : Word} {stored : List Addr} {s t u : State}
    (h : Kept written mask s t) (k : KeptOutside written mask stored t u) : KeptOutside written mask stored s u :=
  (h.outside _).trans k

/-- More words may be stored to. -/
theorem KeptOutside.widen {written : List Reg} {mask : Word} {stored stored' : List Addr} {s t : State}
    (h : KeptOutside written mask stored s t) (hl : ∀ a ∈ stored, a ∈ stored') : KeptOutside written mask stored' s t where
  regs := h.regs
  st := h.st
  bytes k hk := h.bytes k fun a ha => hk a (hl a ha)
  mode := h.mode
  units off := h.units fun a ha => off a (hl a ha)

/-- The frame of an instruction from what its completed computation keeps; one that waits keeps everything. -/
theorem frame_of_keptOutside {i : Instr} {run : State → Except Stop State} {written : List Reg} {mask : Word}
    {stored : State → List Addr} (hexec : ∀ s, exec i s = outcome s (run s))
    (hrun : ∀ {s t}, s.env.dmaWithin = [] → run s = .ok t → KeptOutside written mask (stored s) s t) :
    Frame i written mask stored := by
  intro s t hd h
  have kept : KeptOutside written mask (stored s) s t := by
    obtain done | ⟨e, -, waits⟩ := outcome_eq_next.mp (hexec s ▸ h)
    · exact hrun hd done
    · exact (stop_kept waits).outside _
  exact ⟨kept.regs, kept.st, kept.bytes, kept.mode, kept.units⟩

/-! ## Changes of one field -/

section
variable {written : List Reg} {mask : Word}

/-- What a frame speaks of: of what a load leaves alone all but the PC, the output pins, the marks of an interlocked access
and that of an interrupt that waits. -/
def framePart (s : State) : State :=
  { loadPart s with
    pc := 0#24, iack := none, xf0Next := [], lockWait := 0, lockReady := false, stalled := none, windowGie := false }

theorem held_framePart (q : Reg) (s : State) : held q (framePart s) = held q s := by cases q <;> rfl

theorem kept_of_framePart {s t : State} (h : framePart t = framePart s) : Kept written mask s t where
  regs q _ := (held_framePart q t).symm.trans ((congrArg (held q) h).trans (held_framePart q s))
  st := (congrArg (fun x => x.st &&& ~~~mask) h :)
  mem := (congrArg State.mem h :)
  mode := ⟨(congrArg State.idle h :), (congrArg State.lowPower h :), (congrArg State.delay h :), (congrArg State.repS h :)⟩
  units := ⟨(congrArg State.device h :), (congrArg State.rom h :), (congrArg State.pins h :), (congrArg State.timer0 h :),
    (congrArg State.timer1 h :), (congrArg State.dma h :), (congrArg State.primaryCtl h :),
    (congrArg State.expansionCtl h :)⟩
  ifr _ := (congrArg State.ifr h :)

/-- A step that changes nothing a frame speaks of, such as the advance of the PC. -/
theorem Kept.same {s t u : State} (h : Kept written mask s t) (e : framePart u = framePart t) : Kept written mask s u :=
  h.trans (kept_of_framePart e)

theorem KeptOutside.same {stored : List Addr} {s t u : State} (h : KeptOutside written mask stored s t)
    (e : framePart u = framePart t) : KeptOutside written mask stored s u := h.trans_kept (kept_of_framePart e)

/-- A register of the list is written, and no field that a frame speaks of but that register. -/
theorem kept_of_keepsRegs {q : Reg} {s t : State} (hq : q ∈ written) (h : KeepsRegs [q] s t) (st : t.st = s.st)
    (ifr : t.ifr = s.ifr) (mem : t.mem = s.mem) (mode : KeepsMode s t) (units : KeepsUnits s t) : Kept written mask s t where
  regs p hp := h p fun hp' => hp (List.mem_cons_of_mem _ (List.mem_cons_of_mem _ (List.mem_singleton.mp hp' ▸ hq)))
  st := by rw [KeepsSt, st]
  mem := mem
  mode := mode
  units := units
  ifr _ := ifr

theorem writeExt_kept {n : FReg} (hn : .r n ∈ written) (v : Ext) (s : State) : Kept written mask s (writeExt n v s) :=
  kept_of_keepsRegs hn (writeExt_keepsRegs n v s) rfl rfl rfl ⟨rfl, rfl, rfl, rfl⟩ ⟨rfl, rfl, rfl, rfl, rfl, rfl, rfl, rfl⟩

theorem sp_kept (hsp : .sp ∈ written) (v : Word) (s : State) : Kept written mask s { s with sp := v } :=
  kept_of_keepsRegs hsp (writeReg_keepsRegs (q := .sp) rfl) rfl rfl rfl ⟨rfl, rfl, rfl, rfl⟩
    ⟨rfl, rfl, rfl, rfl, rfl, rfl, rfl, rfl⟩

/-- XF0's latch is a bit of IOF (R52, R507). -/
theorem latchXf0_kept (hiof : .iof ∈ written) (b : Bool) (s : State) : Kept written mask s (latchXf0 b s) :=
  kept_of_keepsRegs hiof (fun q hq => by cases q with
    | iof => exact absurd (List.mem_singleton.mpr rfl) hq
    | _ => rfl) rfl rfl rfl ⟨rfl, rfl, rfl, rfl⟩ ⟨rfl, rfl, rfl, rfl, rfl, rfl, rfl, rfl⟩

theorem setXf0_kept (hiof : .iof ∈ written) (b : Bool) (s : State) : Kept written mask s (setXf0 b s) :=
  (latchXf0_kept hiof b s).same rfl

/-- GIE is bit 13 of ST (R38). -/
theorem setGie_kept (b : Bool) (s : State) : Kept written 0x2000#32 s (setGie b s) where
  regs q hq := by
    cases q with
    | st => exact absurd List.mem_cons_self hq
    | _ => rfl
  st := setBit_outside (by decide) s.st b
  mem := rfl
  mode := ⟨rfl, rfl, rfl, rfl⟩
  units := ⟨rfl, rfl, rfl, rfl, rfl, rfl, rfl, rfl⟩
  ifr _ := rfl

/-- A floating-point result and its flags. -/
theorem deliverFlt_kept {n : FReg} {e : Effect Ext} (hn : .r n ∈ written) (he : FlagsWithin mask e.flags) (s : State) :
    Kept written mask s (deliverFlt n e s) := (writeExt_kept hn e.out s).trans (applyFlags_kept he _)

/-- An integer result in R0-R7 and its flags. -/
theorem deliverInt_kept {n : FReg} {e : Effect Word} (hn : .r n ∈ written) (he : FlagsWithin mask e.flags) (s : State) :
    Kept written mask s (deliverInt n e s) := (writeExt_kept hn _ s).trans (applyFlags_kept he _)

/-! ## Addresses -/

/-- An auxiliary register is updated at most where the operand's mode updates it. -/
theorem updateAr_kept {δ : Type} {i : Ind δ} {o : Option Addr} (h : o = none ∨ .ar i.arCode ∈ written) (s : State) :
    Kept written mask s (updateAr i o s) := by
  cases o with
  | none => exact .refl ..
  | some a => exact writeAr_kept (h.resolve_left nofun) _ s

theorem memAddr_kept {m : MemOp} {s t : State} {a : Addr} (h : memAddr m s = .ok (a, t)) :
    Kept m.updated mask s t := by
  cases m with
  | dir d => cases h; exact .refl ..
  | ind i => exact (indirect_kept h).mono (fun _ hq => hq) BitVec.zero_and

theorem indirectPair_kept {hi lo : Ind Unit} {s t : State} {a b : Addr} (h : indirectPair hi lo s = .ok (a, b, t)) :
    Kept (hi.updated ++ lo.updated) mask s t := by
  obtain ⟨g, hg, h⟩ := bind_eq_ok.mp h
  obtain ⟨g', hg', h⟩ := bind_eq_ok.mp h
  cases h
  have atHi := (generate_updates hg).imp_right (List.mem_append_left lo.updated)
  have atLo := (generate_updates hg').imp_right (List.mem_append_right hi.updated)
  split
  · exact updateAr_kept atHi s
  · exact (updateAr_kept atLo s).trans (updateAr_kept atHi _)

theorem memTarget_of_memAddr {m : MemOp} {s t : State} {a : Addr} (h : memAddr m s = .ok (a, t)) : memTarget m s = [a] := by
  rw [memTarget, h]

theorem pairTargets_of_indirectPair {hi lo : Ind Unit} {s t : State} {a b : Addr}
    (h : indirectPair hi lo s = .ok (a, b, t)) : pairTargets hi lo s = [a, b] := by rw [pairTargets, h]

theorem hiTarget_of_indirectPair {hi lo : Ind Unit} {s t : State} {a b : Addr} (h : indirectPair hi lo s = .ok (a, b, t)) :
    hiTarget hi lo s = [a] := by rw [hiTarget, pairTargets_of_indirectPair h]; rfl

theorem memAddr_env {m : MemOp} {s t : State} {a : Addr} (h : memAddr m s = .ok (a, t)) : t.env = s.env := by
  obtain ⟨v, rfl⟩ := memAddr_cases h
  rfl

theorem indirectPair_env {hi lo : Ind Unit} {s t : State} {a b : Addr} (h : indirectPair hi lo s = .ok (a, b, t)) :
    t.env = s.env := by
  obtain ⟨v, rfl⟩ := indirectPair_cases h
  rfl

/-! ## Stores -/

theorem held_storePart {q : Reg} (hq : q ≠ .ifr) (s : State) : held q (storePart s) = held q s := by
  cases q with
  | ifr => exact absurd rfl hq
  | _ => rfl

/-- A store keeps all but its word, and on the peripheral bus the units and IF. -/
theorem storeAfter_keptOutside {l : Nat} {d : Bool} {a : Addr} {v : Word} {s t : State}
    (h : storeAfter l d a v s = .ok t) : KeptOutside written mask [a] s t := by
  have part := storeAfter_keeps h
  refine ⟨fun q hq => ?regs, (congrArg (fun x => x.st &&& ~~~mask) part :), storeAfter_bytes h, ?mode, fun off => ?units⟩
  case regs =>
    have notIf : q ≠ .ifr := fun e => hq (e ▸ List.mem_cons_of_mem _ List.mem_cons_self)
    exact (held_storePart notIf t).symm.trans ((congrArg (held q) part).trans (held_storePart notIf s))
  case mode =>
    exact ⟨(congrArg State.idle part :), (congrArg State.lowPower part :), (congrArg State.delay part :),
      (congrArg State.repS part :)⟩
  case units =>
    obtain ⟨-, -, -, ifr, primary, expansion, dma, timer0, timer1⟩ | ⟨peripheral, -⟩ := storeAfter_cases h
    · exact ⟨⟨(congrArg State.device part :), (congrArg State.rom part :), (congrArg State.pins part :), timer0, timer1, dma,
        primary, expansion⟩, fun _ => ifr⟩
    · exact absurd peripheral (off a (List.mem_singleton.mpr rfl))

section
variable {l : List Addr} {a f : Addr} {v : Word} {s t : State} (hd : s.env.dmaWithin = [])
include hd

theorem storeWith_keptOutside (h : storeWith l a v s = .ok t) : KeptOutside written mask [a] s t :=
  storeAfter_keptOutside (storeWith_eq hd ▸ h)

theorem store_keptOutside (h : store a v s = .ok t) : KeptOutside written mask [a] s t := storeWith_keptOutside hd h

theorem storeSecond_keptOutside (h : storeSecond f a v s = .ok t) : KeptOutside written mask [a] s t :=
  storeAfter_keptOutside (storeSecond_eq hd ▸ h)

/-- A parallel store, which is made two cycles later (R850 (c)). -/
theorem storeLater_keptOutside (h : storeLater a v s = .ok t) : KeptOutside written mask [a] s t := by
  obtain ⟨u, w, hu, hw, rfl⟩ := storeLater_cases h
  rw [dmaWithin_none hd] at hu
  cases hu
  have later : Kept written mask s { s with elapsed := s.elapsed + storeDelay } := kept_of_framePart rfl
  exact (later.trans_outside (storeAfter_keptOutside hw)).same rfl

/-- A push: SP, and the word at the new top (R290). -/
theorem push_keptOutside (hsp : .sp ∈ written) (h : push v s = .ok t) : KeptOutside written mask (pushTarget s) s t :=
  (sp_kept hsp _ s).trans_outside (store_keptOutside (s := { s with sp := s.sp + 1 }) hd h)

/-- A pop: SP alone (R290). -/
theorem pop_kept (hsp : .sp ∈ written) (h : pop s = .ok (v, t)) : Kept written mask s t := by
  obtain ⟨u, hu, rfl⟩ := pop_cases h
  exact (load_kept (load_keeps hd hu)).trans (sp_kept hsp _ u)

end

end

end Sys2Proof.Machine
end

section
/-! PROOFS. The family of 42_load_store.md: what the storing instructions leave unchanged (O51). -/
namespace Sys2Proof.Machine

/-! ## Single stores -/

/-- STI and STF, by the word they store, read once the address is updated (D9). -/
theorem store_frame {i : Instr} {m : MemOp} {word : State → Word} (hexec : ∀ s, exec i s = outcome s do
      let (a, s1) ← memAddr m s
      let s2 ← store a (word s1) s1
      pure (advance s2)) : Frame i m.updated 0#32 (memTarget m) :=
  frame_of_keptOutside hexec fun hd h => by
    obtain ⟨⟨a, s1⟩, ha, h⟩ := bind_eq_ok.mp h
    obtain ⟨s2, hs2, h⟩ := bind_eq_ok.mp h
    cases h
    rw [memTarget_of_memAddr ha]
    have hd1 : s1.env.dmaWithin = [] := by rw [memAddr_env ha, hd]
    exact ((memAddr_kept ha).trans_outside (store_keptOutside hd1 hs2)).same rfl

/-- An interlocked store: XF0 is a bit of IOF, and the store is as any other (R504, R506). -/
theorem interlockedStore_frame {i : Instr} {m : MemOp} {word : State → Word}
    (hexec : ∀ s, exec i s = outcome s (interlockedStore m word s)) : Frame i (.iof :: m.updated) 0#32 (memTarget m) :=
  frame_of_keptOutside hexec fun {s t} hd h => by
    obtain ⟨⟨a, s1⟩, ha, h⟩ := bind_eq_ok.mp h
    rw [memTarget_of_memAddr ha]
    have hd1 : s1.env.dmaWithin = [] := by rw [memAddr_env ha, hd]
    have addressed : Kept (.iof :: m.updated) 0#32 s s1 :=
      (memAddr_kept ha).mono (fun _ => List.mem_cons_of_mem _) BitVec.zero_and
    dsimp only at h
    split at h
    · split at h
      · cases h
      · split at h
        · next s2 hs2 =>
          cases h
          have latched := addressed.trans (latchXf0_kept List.mem_cons_self true s1)
          exact (latched.trans_outside (store_keptOutside (s := latchXf0 true s1) hd1 hs2)).same rfl
        · cases h
        · cases h
    · obtain ⟨s2, hs2, h⟩ := bind_eq_ok.mp h
      cases h
      exact (addressed.trans_outside (store_keptOutside hd1 hs2)).same rfl

/-- PUSH and PUSHF, by the word they push. -/
theorem push_frame {i : Instr} {word : State → Word} (hexec : ∀ s, exec i s = outcome s do
      let s1 ← push (word s) s
      pure (advance s1)) : Frame i [.sp] 0#32 pushTarget :=
  frame_of_keptOutside hexec fun hd h => by
    obtain ⟨s1, hs1, h⟩ := bind_eq_ok.mp h
    cases h
    exact (push_keptOutside hd List.mem_cons_self hs1).same rfl

/-! ## Parallel stores -/

/-- Two stores, the second to the machine that the first leaves (R553, R554). -/
theorem twoStores_frame {i : Instr} {v1 v2 : State → Word} {hi lo : Ind Unit}
    (hexec : ∀ s, exec i s = outcome s (twoStores (v1 s) (v2 s) hi lo s)) :
    Frame i (hi.updated ++ lo.updated) 0#32 (pairTargets hi lo) :=
  frame_of_keptOutside hexec fun hd h => by
    obtain ⟨⟨a1, a2, s1⟩, ha, h⟩ := bind_eq_ok.mp h
    obtain ⟨s2, hs2, h⟩ := bind_eq_ok.mp h
    obtain ⟨s3, hs3, h⟩ := bind_eq_ok.mp h
    cases h
    rw [pairTargets_of_indirectPair ha]
    have hd1 : s1.env.dmaWithin = [] := by rw [indirectPair_env ha, hd]
    have part : storePart s2 = storePart s1 := storeAfter_keeps (storeWith_eq hd1 ▸ hs2)
    have hd2 : s2.env.dmaWithin = [] := (congrArg (fun x : State => x.env.dmaWithin) part :).trans hd1
    have addressed := (indirectPair_kept (mask := 0#32) ha).outside [a1, a2]
    have first := addressed.trans ((storeWith_keptOutside hd1 hs2).widen (by simp))
    have second := first.trans ((storeSecond_keptOutside hd2 hs3).widen (by simp))
    exact second.same rfl

/-- An operation with a parallel store: its result is in one register and in the flags of `mask` (R520). -/
theorem withStore_frame {i : Instr} {op : Word → State → Word × (State → State)} {hi lo : Ind Unit} {dst : FReg}
    {mask : Word} (hexec : ∀ s, exec i s = outcome s (withStore op hi lo s))
    (hop : ∀ {written} (m t u), .r dst ∈ written → Kept written mask u ((op m t).2 u)) :
    Frame i (.r dst :: (hi.updated ++ lo.updated)) mask (hiTarget hi lo) :=
  frame_of_keptOutside hexec fun hd h => by
    obtain ⟨⟨a1, a2, s1⟩, ha, h⟩ := bind_eq_ok.mp h
    obtain ⟨⟨m, s2⟩, hs2, h⟩ := bind_eq_ok.mp h
    obtain ⟨s3, hs3, h⟩ := bind_eq_ok.mp h
    cases h
    rw [hiTarget_of_indirectPair ha]
    have hd1 : s1.env.dmaWithin = [] := by rw [indirectPair_env ha, hd]
    have part : loadPart s2 = loadPart s1 := readOperand_keeps hd1 hs2
    have hd2 : s2.env.dmaWithin = [] := (congrArg (fun x : State => x.env.dmaWithin) part :).trans hd1
    have addressed := (indirectPair_kept (mask := mask) ha).mono (fun _ => List.mem_cons_of_mem (Reg.r dst))
      (BitVec.and_not_self mask)
    have stored := (addressed.trans (load_kept part)).trans_outside (storeLater_keptOutside hd2 hs3)
    exact (stored.trans_kept (hop m s2 s3 List.mem_cons_self)).same rfl

/-- An integer operation with STI (R531). -/
theorem intSti_frame {i : Instr} {op : Word → State → Effect Word} {dst src3 : FReg} {hi lo : Ind Unit} {mask : Word}
    (hexec : ∀ s, exec i s = outcome s (intSti op dst src3 hi lo s)) (hop : ∀ m t, FlagsWithin mask (op m t).flags) :
    Frame i (.r dst :: (hi.updated ++ lo.updated)) mask (hiTarget hi lo) :=
  withStore_frame hexec fun m t u hdst => deliverInt_kept hdst (hop m t) u

/-- A floating-point operation with STF (R530). -/
theorem fltStf_frame {i : Instr} {op : Ext → State → Effect Ext} {dst src3 : FReg} {hi lo : Ind Unit} {mask : Word}
    (hexec : ∀ s, exec i s = outcome s (fltStf op dst src3 hi lo s)) (hop : ∀ v t, FlagsWithin mask (op v t).flags) :
    Frame i (.r dst :: (hi.updated ++ lo.updated)) mask (hiTarget hi lo) :=
  withStore_frame hexec fun _ t u hdst => deliverFlt_kept hdst (hop _ t) u

/-! ## The flags of FLOAT (R345) -/

theorem ffloat_ovf (i : Word) : (ffloat i).ovf = false := fnorm_toInt_ovf i (by decide)

/-- A number other than 0 is at least 1 in magnitude. -/
theorem ffloat_unf (i : Word) : (ffloat i).unf = false := by
  rw [ffloat]
  by_cases hm : i.toInt = 0
  · rw [hm, fnorm_zero]
  · rw [← Bool.not_eq_true, fnorm_unf_iff hm, normExp]
    omega

/-- A 32-bit number is in the range of the floating-point numbers, so FLOAT raises neither LV nor LUF. -/
theorem flagsWithin_ffloat {i : Word} : FlagsWithin flagsLogic (floatEffect (ffloat i)).flags :=
  flagsWithin_opFlags_of _ _ (by decide) (fun h => absurd h (by rw [ffloat_ovf]; decide))
    (fun h => absurd h (by rw [ffloat_unf]; decide))

/-- Settles O51: each instruction by its shape, and the flags its operation writes. -/
theorem storeFrame : Obligations.StoreFrame := by
  intro r f a b c m hi lo
  simp only [List.forall_mem_cons, List.not_mem_nil, false_implies, implies_true, and_true]
  refine ⟨⟨?sti, ?stf⟩, ⟨?stii, ?stfi⟩, ⟨?push, ?pushf⟩, ⟨?stf_stf, ?sti_sti⟩, ⟨?ldf_stf, ?ldi_sti⟩,
    ⟨?addf3, ?mpyf3, ?negf, ?subf3⟩, ⟨?absf, ?absi, ?fix, ?mpyi3⟩, ⟨?addi3, ?ash3, ?negi, ?subi3⟩,
    ⟨?and3, ?not, ?or3, ?xor3, ?float⟩, ?lsh3⟩
  case sti => exact store_frame (word := readReg r) fun _ => rfl
  case stf => exact store_frame (word := fun t => fstore (readExt f t)) fun _ => rfl
  case stii | stfi => exact interlockedStore_frame fun _ => rfl
  case push => exact push_frame (word := fun s => readReg r { s with sp := s.sp + 1 }) fun _ => rfl
  case pushf => exact push_frame (word := fun s => fstore (readExt f s)) fun _ => rfl
  case stf_stf =>
    exact twoStores_frame (v1 := fun s => fstore (readExt c s)) (v2 := fun s => fstore (readExt a s)) fun _ => rfl
  case sti_sti => exact twoStores_frame (v1 := readInt c) (v2 := readInt a) fun _ => rfl
  case ldf_stf | ldi_sti => exact withStore_frame (fun _ => rfl) fun _ _ u ha => writeExt_kept ha _ u
  case addf3 | mpyf3 | negf | subf3 => exact fltStf_frame (fun _ => rfl) fun _ _ => flagsWithin_float
  case absf => exact fltStf_frame (fun _ => rfl) fun _ _ => flagsWithin_absf
  case absi => exact intSti_frame (fun _ => rfl) fun _ _ => flagsWithin_abs
  case fix => exact intSti_frame (fun _ => rfl) fun _ _ => flagsWithin_fix
  case mpyi3 => exact intSti_frame (fun _ => rfl) fun _ _ => flagsWithin_mpy
  case addi3 => exact intSti_frame (fun _ => rfl) fun _ _ => flagsWithin_add
  case ash3 => exact intSti_frame (fun _ => rfl) fun _ _ => flagsWithin_ash
  case negi | subi3 => exact intSti_frame (fun _ => rfl) fun _ _ => flagsWithin_sub
  case and3 | not | or3 | xor3 => exact intSti_frame (fun _ => rfl) fun _ _ => flagsWithin_logic
  case float => exact withStore_frame (fun _ => rfl) fun _ _ u ha => deliverFlt_kept ha flagsWithin_ffloat u
  case lsh3 => exact intSti_frame (fun _ => rfl) fun _ _ => flagsWithin_lsh

end Sys2Proof.Machine
end

section
/-! PROOFS. The family of 42_load_store.md: what the instructions of program control leave unchanged (O52). -/
namespace Sys2Proof.Machine

/-- The frame of an instruction that stores nothing and is no single computation, from what its next state keeps. -/
theorem frame_of_next_kept {i : Instr} {written : List Reg} {mask : Word}
    (h : ∀ {s t}, s.env.dmaWithin = [] → exec i s = .next t → Kept written mask s t) : Frame i written mask nowhere := by
  intro s t hd ht
  have kept := (h hd ht).outside (nowhere s)
  exact ⟨kept.regs, kept.st, kept.bytes, kept.mode, kept.units⟩

/-! ## Branches, calls and returns -/

section
variable {written : List Reg} {mask : Word} {s t : State}

theorem branchIf_kept (taken : Bool) (target : Addr) : Kept written mask s (branchIf taken target s) := by
  cases taken <;> exact kept_of_framePart rfl

theorem callTo_keptOutside {target : State → Addr} (hd : s.env.dmaWithin = []) (hsp : .sp ∈ written)
    (h : callTo target s = .ok t) : KeptOutside written mask (pushTarget s) s t := by
  obtain ⟨s1, hs1, h⟩ := bind_eq_ok.mp h
  cases h
  exact (push_keptOutside hd hsp hs1).same rfl

theorem popPc_kept (hd : s.env.dmaWithin = []) (hsp : .sp ∈ written) (h : popPc s = .ok t) : Kept written mask s t := by
  obtain ⟨⟨w, s1⟩, hs1, h⟩ := bind_eq_ok.mp h
  cases h
  exact (pop_kept hd hsp hs1).same rfl

/-- A return from an exception changes GIE of ST (R468). -/
theorem returnFromException_kept (hd : s.env.dmaWithin = []) (hsp : .sp ∈ written) (h : returnFromException s = .ok t) :
    Kept written 0x2000#32 s t := by
  obtain ⟨s1, hs1, h⟩ := bind_eq_ok.mp h
  cases h
  exact ((popPc_kept hd hsp hs1).trans (setGie_kept true s1)).same rfl

theorem falseTrap_kept : Kept written 0x2000#32 s (falseTrap s) := by
  unfold falseTrap
  split
  · exact setGie_kept _ s
  · exact .refl ..

/-- An exception changes GIE of ST and pushes the PC; the vector is read (R620, R632). -/
theorem enterException_keptOutside {v ret : Addr} (hd : s.env.dmaWithin = []) (hsp : .sp ∈ written)
    (h : enterException v ret s = .ok t) : KeptOutside written 0x2000#32 (pushTarget s) s t := by
  obtain ⟨s1, w, s2, hs1, hs2, rfl⟩ := enterException_cases h
  have pushed := push_keptOutside (s := setGie false s) (mask := 0x2000#32) hd hsp hs1
  exact (((setGie_kept false s).trans_outside pushed).trans_kept (load_kept (loadFor_keeps hs2))).same rfl

end

/-- A decrementing branch (R451). -/
theorem dbCond_frame (n : BitVec 3) (c : Cond) (t : Target) : Frame (.dbCond n c t) [.ar n] 0#32 nowhere :=
  frame_of_next_kept fun _ h => by
    cases h
    exact (writeAr_kept List.mem_cons_self _ _).trans (branchIf_kept _ _)

theorem callCond_frame (c : Cond) (t : Target) : Frame (.callCond c t) [.sp] 0#32 pushTarget :=
  frame_of_keptOutside (fun _ => rfl) fun hd h => by
    split at h
    · exact callTo_keptOutside hd List.mem_cons_self h
    · cases h
      exact (advance_kept _).outside _

theorem retsCond_frame (c : Cond) : Frame (.retsCond c) [.sp] 0#32 nowhere :=
  frame_of_kept (fun _ => rfl) fun hd h => by
    split at h
    · exact popPc_kept hd List.mem_cons_self h
    · cases h
      exact advance_kept _

theorem retiCond_frame (c : Cond) : Frame (.retiCond c) [.sp] 0x2000#32 nowhere :=
  frame_of_kept (fun _ => rfl) fun hd h => by
    split at h
    · exact returnFromException_kept hd List.mem_cons_self h
    · cases h
      exact advance_kept _

theorem trapCond_frame (c : Cond) (k : BitVec 5) : Frame (.trapCond c k) [.sp] 0x2000#32 pushTarget :=
  frame_of_keptOutside (fun _ => rfl) fun hd h => by
    split at h
    · exact enterException_keptOutside hd List.mem_cons_self h
    · cases h
      exact (falseTrap_kept.trans (advance_kept _)).outside _

/-! ## Pops -/

/-- POP to a register of its own rule, also to SP or ST (R309). -/
theorem pop_frame (r : Reg) : Frame (.pop r) [r, .sp] (stBits r flagsLogic) nowhere :=
  frame_of_kept (fun _ => rfl) fun hd h => by
    obtain ⟨⟨v, s1⟩, hs1, h⟩ := bind_eq_ok.mp h
    obtain ⟨s2, hs2, h⟩ := bind_eq_ok.mp h
    cases h
    have popped := pop_kept (written := [.sp]) (mask := 0#32) hd List.mem_cons_self hs1
    exact (popped.source_then_dst (deliver_kept flagsWithin_logic hs2)).same rfl

theorem popf_frame (f : FReg) : Frame (.popf f) [.r f, .sp] flagsLogic nowhere :=
  frame_of_kept (fun _ => rfl) fun hd h => by
    obtain ⟨⟨v, s1⟩, hs1, h⟩ := bind_eq_ok.mp h
    cases h
    have popped := pop_kept (written := [.sp]) (mask := 0#32) hd List.mem_cons_self hs1
    exact (popped.source_then_dst (deliverFlt_kept List.mem_cons_self flagsWithin_ldf s1)).same rfl

/-! ## Reads that are discarded -/

/-- NOP reads its indirect operand (R454). -/
theorem nop_frame (o : NopOp) : Frame (.nop o) o.updated 0#32 nowhere := by
  cases o with
  | none => exact frame_of_kept (run := fun s => .ok (advance s)) (fun _ => rfl) fun _ h => by cases h; exact advance_kept _
  | ind i =>
    exact frame_of_kept (fun _ => rfl) fun hd h => by
      obtain ⟨⟨w, s1⟩, hs1, h⟩ := bind_eq_ok.mp h
      cases h
      exact (memSrc_kept hd hs1).same rfl

/-- IACK, also where its read waits or never ends (R453). -/
theorem iack_frame (m : MemOp) : Frame (.iack m) m.updated 0#32 nowhere :=
  frame_of_next_kept fun {s t} hd h => by
    change execIack m s = .next t at h
    unfold execIack at h
    split at h
    · exact stop_kept h
    · next a s1 ha =>
      have addressed : Kept m.updated 0#32 s s1 := memAddr_kept ha
      have hd1 : s1.env.dmaWithin = [] := by rw [memAddr_env ha, hd]
      have pulsed (x : Option TimedAddr) : Kept m.updated 0#32 s { s with iack := x } := kept_of_framePart rfl
      split at h
      · next hload =>
        cases h
        exact (addressed.trans (load_kept (load_keeps hd1 hload))).same rfl
      · exact (pulsed _).trans (stop_kept h)
      · exact stop_kept h
      · exact stop_kept h

/-! ## Interlocked reads (R501 to R503) -/

section
variable {written : List Reg} {mask : Word} {s t : State} (hiof : .iof ∈ written)

theorem framePart_closeRead (p : PortName) (n : Nat) (s : State) : framePart (closeRead p n s) = framePart s := by
  cases p <;> rfl

include hiof

theorem waitForXf1_kept (s : State) : Kept written mask s (waitForXf1 s) := (setXf0_kept hiof false s).same rfl

/-- A cycle of an interlocked read: XF0, and the account of its wait. -/
theorem lockedCycle_kept {p : PortName} {a : Addr} {age : Nat} {o : Option Word} (h : lockedCycle p a age s = (o, t)) :
    Kept written mask s t := by
  unfold lockedCycle at h
  dsimp only at h
  split at h
  · cases h
    exact ((latchXf0_kept hiof false s).same (framePart_closeRead p _ _)).same rfl
  · cases h
    exact (setXf0_kept hiof false s).same rfl

theorem lockedRead_kept {p : PortName} {a : Addr} {o : Option Word} (h : lockedRead p a s = .ok (o, t)) :
    Kept written mask s t := by
  unfold lockedRead at h
  split at h
  · exact lockedCycle_kept hiof (Except.ok.inj h)
  · obtain ⟨n, -, h⟩ := bind_eq_ok.mp h
    split at h
    · cases h
    · have begun (c : BusCycle) : Kept written mask s { beginRead p c s with lockReady := false } :=
        (load_kept (loadPart_beginRead p c s)).same rfl
      dsimp only [pure_eq_ok] at h
      split at h
      · exact (begun _).trans (lockedCycle_kept hiof (Except.ok.inj h))
      · cases h
        exact (begun _).same rfl

theorem lockedPeripheral_kept {a : Addr} {o : Option Word} (h : lockedPeripheral a s = .ok (o, t)) :
    Kept written mask s t := by
  obtain ⟨n, -, h⟩ := bind_eq_ok.mp h
  split at h
  · cases h
  split at h
  · obtain ⟨⟨w, s1⟩, hload, h⟩ := bind_eq_ok.mp h
    cases h
    exact ((latchXf0_kept hiof false s).trans (load_kept (loadFor_keeps hload))).same rfl
  · cases h
    exact (waitForXf1_kept hiof s).trans (load_kept (loadPart_noteOnChip ..))

theorem lockedLoad_kept {a : Addr} {o : Option Word} (h : lockedLoad a s = .ok (o, t)) : Kept written mask s t := by
  unfold lockedLoad at h
  split at h
  · exact lockedRead_kept hiof h
  · exact lockedPeripheral_kept hiof h

end

/-- The auxiliary registers of another state that keeps the same. -/
theorem Kept.withAr {written : List Reg} {mask : Word} {s t u : State} (h : Kept written mask s t)
    (k : Kept written mask s u) : Kept written mask s { t with ar := u.ar } where
  regs q hq := by
    cases q with
    | ar n => exact k.regs (.ar n) hq
    | _ => exact h.regs _ hq
  st := h.st
  mem := h.mem
  mode := h.mode
  units := h.units
  ifr := h.ifr

/-- An interlocked load, by what its destination changes. -/
theorem interlockedLoad_frame {i : Instr} {m : MemOp} {fin : Word → State → Except Stop State} {dst : Reg} {mask : Word}
    (hexec : ∀ s, exec i s = outcome s (interlockedLoad m fin s))
    (hfin : ∀ {w t u}, fin w t = .ok u → Kept [dst] mask t u) : Frame i (dst :: .iof :: m.updated) mask nowhere :=
  frame_of_kept hexec fun {s t} hd h => by
    obtain ⟨⟨a, s1⟩, ha, h⟩ := bind_eq_ok.mp h
    have addressed : Kept (.iof :: m.updated) 0#32 s s1 :=
      (memAddr_kept ha).mono (fun _ => List.mem_cons_of_mem _) BitVec.zero_and
    have hd1 : s1.env.dmaWithin = [] := by rw [memAddr_env ha, hd]
    dsimp only at h
    split at h
    · split at h
      · cases h
      · obtain ⟨⟨o, s2⟩, hs2, h⟩ := bind_eq_ok.mp h
        have read : Kept (.iof :: m.updated) 0#32 s s2 := lockedLoad_kept List.mem_cons_self hs2
        cases o with
        | none =>
          cases h
          exact read.source_then_dst (.refl ..)
        | some w =>
          obtain ⟨s3, hs3, rfl⟩ := map_eq_ok.mp h
          exact ((read.withAr addressed).source_then_dst (hfin hs3)).same rfl
    · obtain ⟨⟨w, s2⟩, hs2, h⟩ := bind_eq_ok.mp h
      obtain ⟨s3, hs3, h⟩ := bind_eq_ok.mp h
      cases h
      have read := addressed.trans (load_kept (load_keeps hd1 hs2))
      exact (read.source_then_dst (hfin hs3)).same rfl

/-- SIGI, whether it waits, completes or is abandoned (R503). -/
theorem sigi_frame : Frame .sigi [.iof] 0#32 nowhere :=
  frame_of_next_kept fun {s t} _ h => by
    change execSigi s = .next t at h
    have driven (b : Bool) : Kept [.iof] 0#32 s (setXf0 b s) := setXf0_kept List.mem_cons_self b s
    unfold execSigi at h
    split at h
    · cases h
    split at h
    · cases h
      exact (driven true).same rfl
    split at h
    · cases h
      exact (driven false).same rfl
    · cases h
      exact (driven false).same rfl

/-- Settles O52: each instruction by the steps it is made of. -/
theorem controlFrame : Obligations.ControlFrame := by
  intro c t a n k r f m o
  simp only [List.forall_mem_cons, List.not_mem_nil, false_implies, implies_true, and_true]
  refine ⟨⟨?br, ?bCond⟩, dbCond_frame n c t, ⟨?call, callCond_frame c t⟩, retsCond_frame c, retiCond_frame c,
    trapCond_frame c k, pop_frame r, popf_frame f, nop_frame o, iack_frame m, ?ldii, ?ldfi, sigi_frame⟩
  case br => exact frame_of_next_kept fun _ h => by cases h; exact kept_of_framePart rfl
  case bCond => exact frame_of_next_kept fun _ h => by cases h; exact branchIf_kept _ _
  case call => exact frame_of_keptOutside (fun _ => rfl) fun hd h => callTo_keptOutside hd List.mem_cons_self h
  case ldii => exact interlockedLoad_frame (fun _ => rfl) fun h => deliver_kept flagsWithin_logic h
  case ldfi =>
    exact interlockedLoad_frame (fun _ => rfl) fun h => by
      cases h
      exact deliverFlt_kept List.mem_cons_self flagsWithin_ldf _

end Sys2Proof.Machine
end

section
/-! PROOFS. The family of 43_two_operand.md: the effect of each operation against what its rule says, and how an instruction of
each shape completes with it. -/
namespace Sys2Proof.Machine

/-! ## An effect and its rule -/

/-- An effect gives the output and the flags that a rule says. -/
structure Meets {α : Type} (e : Effect α) (x : Expected α) : Prop where
  out : e.out = x.out
  flags : ∀ st, FlagsAre x st (e.flags st)

section
variable {st a b : Word}

/-! ## Sums and differences (R332, R336, R338, R349, R351, R360, R363) -/

theorem intEffect_meets (x : Int) (c : Bool) : Meets (intEffect st x c) (sumIs st x c) :=
  ⟨intEffect_out st x c, fun now => flagsAre_intEffect st now x c⟩

theorem addc_meets (c : Bool) :
    Meets (addEffect st a b c) (sumIs st (a.toInt + b.toInt + c.toNat) (2 ^ 32 ≤ a.toNat + b.toNat + c.toNat)) := by
  rw [addEffect_eq]
  exact intEffect_meets _ _

theorem add_meets : Meets (addEffect st a b false) (sumIs st (a.toInt + b.toInt) (2 ^ 32 ≤ a.toNat + b.toNat)) := by
  simpa using addc_meets (st := st) (a := a) (b := b) false

theorem subb_meets (c : Bool) :
    Meets (subEffect st a b c) (sumIs st (a.toInt - b.toInt - c.toNat) (a.toNat < b.toNat + c.toNat)) := by
  rw [subEffect_eq]
  exact intEffect_meets _ _

theorem sub_meets : Meets (subEffect st a b false) (sumIs st (a.toInt - b.toInt) (a.toNat < b.toNat)) := by
  simpa using subb_meets (st := st) (a := a) (b := b) false

/-- A negation is a difference from 0. -/
theorem negb_meets (c : Bool) :
    Meets (subEffect st 0#32 b c) (sumIs st (-b.toInt - c.toNat) (0 < b.toNat + c.toNat)) := by
  simpa using subb_meets (st := st) (a := 0#32) (b := b) c

/-- Every number but 0 borrows from 0. -/
theorem neg_meets : Meets (subEffect st 0#32 b false) (sumIs st (-b.toInt) (b ≠ 0#32)) := by
  have borrow : (0 < b.toNat) = (b ≠ 0#32) := propext (Nat.pos_iff_ne_zero.trans (BitVec.toNat_ne (y := 0#32)).symm)
  simpa [← borrow] using sub_meets (st := st) (a := 0#32) (b := b)

theorem abs_meets : Meets (absEffect st b) (absIs st |b.toInt|) := ⟨absEffect_out st b, (flagsAre_abs st · b)⟩

theorem mpy_meets : Meets (mpyEffect st a b) (productIs st (product24 a b)) :=
  ⟨mpyEffect_out st a b, (flagsAre_mpy st · a b)⟩

/-! ## Logic, shifts and rotates (R332, R341, R346, R356 to R359) -/

theorem logic_meets (r : Word) : Meets (logicEffect r) (logicIs r) := ⟨rfl, flagsAre_logic r⟩

theorem logicC_meets (r : Word) (c : Bool) : Meets (logicEffectC r c) (shiftIs r c false) := ⟨rfl, (flagsAre_shift r · c false)⟩

theorem ash_meets : Meets (ashEffect a b) (ashIs a b) := ⟨(ashEffect_eq a b).1, (ashEffect_eq a b).2⟩

theorem lsh_meets : Meets (lshEffect a b) (lshIs a b) := ⟨(lshEffect_eq a b).1, (lshEffect_eq a b).2⟩

theorem rol_meets : Meets (rolEffect b) (shiftIs (b.rotateLeft 1) (b.getLsbD 31) false) := by
  rw [rolEffect_eq]
  exact logicC_meets _ _

theorem ror_meets : Meets (rorEffect b) (shiftIs (b.rotateRight 1) (b.getLsbD 0) false) := by
  rw [rorEffect_eq]
  exact logicC_meets _ _

/-- A rotation left through C doubles the number and puts C at the lowest place; bit 31 is lost (R357). -/
theorem rolc_out (c : Bool) (x : Word) :
    (x.extractLsb' 0 31 ++ BitVec.ofBool c : Word) = BitVec.ofNat 32 (2 * x.toNat + c.toNat) := by
  apply BitVec.eq_of_toNat_eq
  have carry : c.toNat < 2 ^ 1 := c.toNat_lt
  rw [BitVec.toNat_append, BitVec.extractLsb'_toNat, BitVec.toNat_ofBool, ← Nat.shiftLeft_add_eq_or_of_lt carry,
    Nat.shiftLeft_eq, Nat.shiftRight_zero, BitVec.toNat_ofNat]
  omega

/-- A rotation right through C halves the number and puts C at the highest place; bit 0 is lost (R359). -/
theorem rorc_out (c : Bool) (x : Word) :
    (BitVec.ofBool c ++ x.extractLsb' 1 31 : Word) = BitVec.ofNat 32 (x.toNat / 2 + 2 ^ 31 * c.toNat) := by
  apply BitVec.eq_of_toNat_eq
  have low : (x.extractLsb' 1 31).toNat < 2 ^ 31 := (x.extractLsb' 1 31).isLt
  have carry := c.toNat_lt
  rw [BitVec.toNat_append, BitVec.toNat_ofBool, ← Nat.shiftLeft_add_eq_or_of_lt low, BitVec.extractLsb'_toNat,
    Nat.shiftLeft_eq, Nat.shiftRight_eq_div_pow, BitVec.toNat_ofNat]
  omega

theorem rolc_meets (c : Bool) :
    Meets (rolcEffect c b) (shiftIs (BitVec.ofNat 32 (2 * b.toNat + c.toNat)) (b.getLsbD 31) false) := by
  rw [rolcEffect, rolc_out]
  exact logicC_meets _ _

theorem rorc_meets (c : Bool) :
    Meets (rorcEffect c b) (shiftIs (BitVec.ofNat 32 (b.toNat / 2 + 2 ^ 31 * c.toNat)) (b.getLsbD 0) false) := by
  rw [rorcEffect, rorc_out]
  exact logicC_meets _ _

end

/-! ## Floating point (R302, R333, R334, R344, R355) -/

theorem float_meets (r : FResult) : Meets (floatEffect r) (floatIs r) := ⟨rfl, flagsAre_float r⟩

theorem ldf_meets (v : Ext) : Meets (ldfEffect v) (loadIs v) := ⟨rfl, flagsAre_load v⟩

theorem absf_meets (v : Ext) : Meets (absfEffect v) (absfIs (fabs v)) := ⟨rfl, flagsAre_opFlags _ _ _ _ _⟩

theorem rnd_meets (v : Ext) : Meets (rndEffect v) (roundIs (fround v)) := ⟨rfl, flagsAre_rnd v⟩

theorem fix_meets (v : Ext) : Meets (fixEffect v) (fixIs v) := ⟨rfl, flagsAre_opFlags _ _ _ _ _⟩

/-! ## Comparisons (R343) -/

/-- The exact difference decides N and Z, whatever its low 32 bits are. -/
theorem flagsAre_cmp (a b st : Word) : FlagsAre (compareIs a b) st (cmpFlags a b st) := by
  have sign : (a.toInt < b.toInt) = (a.toInt - b.toInt < 0) := by rw [sub_neg]
  have zero : (a = b) = (a - b = 0#32) := propext sub_eq_zero.symm
  simp only [compareIs, sign, zero, ← not_fits]
  exact flagsAre_opFlagsC _ _ _ _ _ _ _

/-! ## How an instruction of each shape completes -/

section
variable {i : Instr} {s s₁ : State}

theorem twoInt_gives {ext : BitVec 16 → Word} {op : Word → Word → Word → Effect Word} {src : Src Reg} {dst : Reg} {b : Word}
    {x : Expected Word} (h : srcWord ext src s = .ok (b, s₁)) (hexec : exec i s = outcome s (twoInt (srcWord ext) op src dst s))
    (hop : Meets (op s₁.st b (readReg dst s₁)) x) : GivesInt i s s₁ dst x :=
  givesInt_of_deliver (by rw [hexec, twoInt_of_src h]) (srcWord_pc h) hop.out hop.flags

theorem oneInt_gives {op : Word → Word → Effect Word} {dst : Reg} {x : Expected Word}
    (hexec : exec i s = outcome s (oneInt op dst s)) (hop : Meets (op s.st (readReg dst s)) x) : GivesInt i s s dst x :=
  givesInt_of_deliver (by rw [hexec, oneInt_eq]) rfl hop.out hop.flags

theorem twoFlt_gives {op : Ext → Ext → Effect Ext} {src : Src FReg} {dst : FReg} {b : Ext} {x : Expected Ext}
    (h : srcFlt src s = .ok (b, s₁)) (hexec : exec i s = outcome s (twoFlt op src dst s))
    (hop : Meets (op b (readExt dst s₁)) x) : GivesFlt i s s₁ dst x :=
  givesFlt_of_deliver (by rw [hexec, twoFlt_of_src h, outcome_ok]) (srcExt_pc h) hop.out hop.flags

end

end Sys2Proof.Machine
end

section
/-! PROOFS. The family of 43_two_operand.md: results of the integer, logical and shift instructions (O24 to O27). -/
namespace Sys2Proof.Machine

/-- Settles O24: each instruction by its operation, and each operation by its exact result. -/
theorem integerArithmeticResults : Obligations.IntegerArithmeticResults := by
  intro src dst s s₁ b h d c
  refine ⟨?absi, ?addi, ?addc, ?negi, ?negb, ?subi, ?subb, ?subri, ?subrb, ?mpyi⟩
  case absi => exact twoInt_gives h rfl abs_meets
  case addi => exact twoInt_gives h rfl add_meets
  case addc => exact twoInt_gives h rfl (addc_meets _)
  case negi => exact twoInt_gives h rfl neg_meets
  case negb => exact twoInt_gives h rfl (negb_meets _)
  case subi | subri => exact twoInt_gives h rfl sub_meets
  case subb | subrb => exact twoInt_gives h rfl (subb_meets _)
  case mpyi => exact twoInt_gives h rfl mpy_meets

/-- SUBC, once its source has been read: the step of the division, and no flags (R361). -/
theorem exec_subc {src : Src Reg} {dst : Reg} {s s₁ s₂ : State} {b : Word} (h : srcUns src s = .ok (b, s₁))
    (hw : writeReg dst (subcOut (readReg dst s₁) b) s₁ = .ok s₂) : exec (.subc src dst) s = .next (advance s₂) := by
  change execSubc src dst s = _
  simp only [execSubc, h, hw, ok_bind, pure_eq_ok, outcome_ok]

/-- LDP delivers its immediate. -/
theorem ldp_gives (dst : Reg) (imm : BitVec 16) (s : State) :
    GivesInt (.ldp dst imm) s s dst (logicIs (imm.signExtend 32)) := by
  have delivers : exec (.ldp dst imm) s = outcome s ((deliver dst (logicEffect (imm.signExtend 32)) s).map advance) := by
    change execLdp dst imm s = _
    unfold execLdp
    cases deliver dst (logicEffect (imm.signExtend 32)) s <;> rfl
  exact givesInt_of_deliver delivers rfl rfl (flagsAre_logic _)

/-- Settles O25: the logical instructions by their output, SUBC by the numbers of its step, LDP as a load. -/
theorem logicAndLoadResults : Obligations.LogicAndLoadResults := by
  intro src dst s s₁ b imm
  refine ⟨fun h => ?uns, fun h => twoInt_gives h rfl (logic_meets _), ldp_gives dst imm s⟩
  intro d
  refine ⟨?and, ?andn, ?or, ?xor, ?not, fun s₂ hw => ?subc⟩
  case and | andn | or | xor | not => exact twoInt_gives h rfl (logic_meets _)
  case subc =>
    rw [← subcOut_eq] at hw
    rw [exec_subc h hw, advance, writeReg_pc hw, srcWord_pc h]

/-- Settles O26: the shifts by the arithmetic of their rules, the rotates by the word they give. -/
theorem shiftAndRotateResults : Obligations.ShiftAndRotateResults := by
  intro src dst s s₁ b
  refine ⟨fun h => ⟨twoInt_gives h rfl ash_meets, twoInt_gives h rfl lsh_meets⟩, ?rol, ?ror, ?rolc, ?rorc⟩
  case rol => exact oneInt_gives rfl rol_meets
  case ror => exact oneInt_gives rfl ror_meets
  case rolc => exact oneInt_gives rfl (rolc_meets _)
  case rorc => exact oneInt_gives rfl (rorc_meets _)

section
variable {s s₁ : State} {a b : Word}

theorem exec_cmpi {src : Src Reg} {dst : Reg} (h : srcInt src s = .ok (b, s₁)) :
    exec (.cmpi src dst) s = .next (advance (applyFlags (cmpFlags (readReg dst s₁) b) s₁)) := by
  change execCmpi src dst s = _
  simp only [execCmpi, h, ok_bind, pure_eq_ok, outcome_ok]

theorem exec_tstb {src : Src Reg} {dst : Reg} (h : srcUns src s = .ok (b, s₁)) :
    exec (.tstb src dst) s = .next (advance (applyFlags (logicFlags (readReg dst s₁ &&& b)) s₁)) := by
  change execTstb src dst s = _
  simp only [execTstb, h, ok_bind, pure_eq_ok, outcome_ok]

section
variable {x y : Src3 Reg} (h : srcPairInt x y s = .ok (a, b, s₁))
include h

theorem exec_cmpi3 : exec (.cmpi3 x y) s = .next (advance (applyFlags (cmpFlags a b) s₁)) := by
  change execCmpi3 x y s = _
  simp only [execCmpi3, h, ok_bind, pure_eq_ok, outcome_ok]

theorem exec_tstb3 : exec (.tstb3 x y) s = .next (advance (applyFlags (logicFlags (a &&& b)) s₁)) := by
  change execTstb3 x y s = _
  simp only [execTstb3, h, ok_bind, pure_eq_ok, outcome_ok]

end

end

/-- Settles O27: the flags of a comparison and of a test, and nothing else. -/
theorem integerCompareResults : Obligations.IntegerCompareResults := by
  intro src dst x y s s₁ a b
  refine ⟨fun h => ?cmpi, fun h => ?tstb, fun h => ⟨?cmpi3, ?tstb3⟩⟩
  case cmpi => exact givesFlags_of_apply (exec_cmpi h) (srcWord_pc h) (flagsAre_cmp _ b)
  case tstb => exact givesFlags_of_apply (exec_tstb h) (srcWord_pc h) (flagsAre_logic _)
  case cmpi3 => exact givesFlags_of_apply (exec_cmpi3 h) (srcPair_pc h) (flagsAre_cmp a b)
  case tstb3 => exact givesFlags_of_apply (exec_tstb3 h) (srcPair_pc h) (flagsAre_logic _)

end Sys2Proof.Machine
end

section
/-! PROOFS. The family of 43_two_operand.md: results of the floating-point and conversion instructions (O29). -/
namespace Sys2Proof.Machine

section
variable {s s₁ : State} {b : Ext}

theorem exec_float {src : Src Reg} {dst : FReg} {w : Word} (h : srcInt src s = .ok (w, s₁)) :
    exec (.float src dst) s = .next (advance (deliverFlt dst (floatEffect (ffloat w)) s₁)) := by
  change execFloat src dst s = _
  simp only [execFloat, h, ok_bind, pure_eq_ok, outcome_ok]

section
variable {src : Src FReg} (h : srcFlt src s = .ok (b, s₁))
include h

/-- FIX delivers an integer to any register (R344). -/
theorem exec_fix (dst : Reg) : exec (.fix src dst) s = outcome s ((deliver dst (fixEffect b) s₁).map advance) := by
  change execFix src dst s = _
  simp only [execFix, h, ok_bind]
  cases deliver dst (fixEffect b) s₁ <;> rfl

theorem exec_cmpf (dst : FReg) :
    exec (.cmpf src dst) s = .next (advance (applyFlags (floatFlags (fsub (readExt dst s₁) b)) s₁)) := by
  change execCmpf src dst s = _
  simp only [execCmpf, h, ok_bind, pure_eq_ok, outcome_ok]

end

end

/-- Settles O29: each instruction by its operation, which its rule names. -/
theorem floatResults : Obligations.FloatResults := by
  refine ⟨fun src dst s s₁ i h => ?float, fun src dst s s₁ b h => ?rest⟩
  case float =>
    exact givesFlt_of_deliver (exec_float h) (srcWord_pc h) (float_meets _).out (float_meets _).flags
  intro d
  refine ⟨fun idst => ?fix, ?ldf, ?absf, ?addf, ?subf, ?subrf, ?mpyf, ?negf, ?norm, ?rnd, ?cmpf⟩
  case fix => exact givesInt_of_deliver (exec_fix h idst) (srcExt_pc h) (fix_meets b).out (fix_meets b).flags
  case ldf => exact twoFlt_gives h rfl (ldf_meets b)
  case absf => exact twoFlt_gives h rfl (absf_meets b)
  case addf | subf | subrf | mpyf | negf | norm => exact twoFlt_gives h rfl (float_meets _)
  case rnd => exact twoFlt_gives h rfl (rnd_meets b)
  case cmpf => exact givesFlags_of_apply (exec_cmpf h dst) (srcExt_pc h) (flagsAre_float _)

end Sys2Proof.Machine
end

section
/-! PROOFS. The family of 43_two_operand.md: what the floating-point instructions leave unchanged (O49). -/
namespace Sys2Proof.Machine

/-! ## The flags of NORM and RND (R352, R355) -/

/-- NORM never reports an overflow (R208, R352). -/
theorem fnormalize_ovf (a : Ext) : (fnormalize a).ovf = false := by
  unfold fnormalize
  split
  · split <;> rfl
  · rfl

theorem flagsWithin_norm {a : Ext} : FlagsWithin flagsNorm (floatEffect (fnormalize a)).flags :=
  flagsWithin_opFlags_of _ _ (by decide) (fun h => absurd h (by rw [fnormalize_ovf]; decide)) (fun _ => by decide)

/-- RND leaves Z as it was, which is bit 2 (R355). -/
theorem flagsWithin_rnd_notZ {a : Ext} : FlagsWithin (flagsNotC &&& ~~~4#32) (rndEffect a).flags := fun st =>
  outside_eq_iff.mpr fun k hk outside => by
    by_cases isZ : k = 2
    · subst isZ
      exact flagsAre_rnd a st 2 hk
    · have notZ : (4#32).getLsbD k = false := (getLsbD_one_shiftLeft 2 k hk).trans (decide_eq_false isZ)
      have other : flagsNotC.getLsbD k = false := by
        simpa only [BitVec.getLsbD_and, BitVec.getLsbD_not, hk, notZ, decide_true, Bool.not_false, Bool.and_true] using outside
      exact outside_eq_iff.mp (flagsWithin_rnd st) k hk other

/-! ## Shapes of instructions -/

/-- An instruction that reads a floating-point source and then writes at most one of R0-R7 and the flags of `mask`. -/
theorem srcExt_then_frame {i : Instr} {mem : Word → Ext} {imm : BitVec 16 → Ext} {src : Src FReg} {dst : FReg} {mask : Word}
    {fin : Ext → State → State → State} (hexec : ∀ s, exec i s = outcome s do
      let (b, s1) ← srcExt mem imm src s
      pure (advance (fin b s s1)))
    (hfin : ∀ b s u, Kept [.r dst] mask u (fin b s u)) : Frame i (.r dst :: src.updated) mask nowhere :=
  frame_of_kept hexec fun {s _} hd h => by
    obtain ⟨⟨b, s1⟩, hb, h⟩ := bind_eq_ok.mp h
    cases h
    exact ((srcExt_kept hd hb).source_then_dst (hfin b s s1)).trans (advance_kept _)

/-- The general form on a floating-point destination. -/
theorem twoFlt_frame {i : Instr} {op : Ext → Ext → Effect Ext} {src : Src FReg} {dst : FReg} {mask : Word}
    (hexec : ∀ s, exec i s = outcome s (twoFlt op src dst s)) (hop : ∀ b d, FlagsWithin mask (op b d).flags) :
    Frame i (.r dst :: src.updated) mask nowhere :=
  srcExt_then_frame (fin := fun b _ u => deliverFlt dst (op b (readExt dst u)) u) hexec fun _ _ u =>
    deliverFlt_kept List.mem_cons_self (hop _ _) u

/-- LDFcond writes its register where its condition holds (R304). -/
theorem ldfCond_frame (c : Cond) (src : Src FReg) (dst : FReg) :
    Frame (.ldfCond c src dst) (.r dst :: src.updated) 0#32 nowhere :=
  srcExt_then_frame (fin := fun b s u => if condHolds s.st c then writeExt dst b u else u) (fun _ => rfl) fun b s u => by
    by_cases holds : condHolds s.st c = true
    · rw [if_pos holds]
      exact writeExt_kept List.mem_cons_self b u
    · rw [if_neg holds]
      exact .refl ..

/-- FLOAT reads a source of the integer kind (R345). -/
theorem float_frame (src : Src Reg) (dst : FReg) : Frame (.float src dst) (.r dst :: src.updated) flagsLogic nowhere :=
  frame_of_kept (fun _ => rfl) fun hd h => by
    obtain ⟨⟨b, s1⟩, hb, h⟩ := bind_eq_ok.mp h
    cases h
    have delivered := deliverFlt_kept (written := [.r dst]) List.mem_cons_self (flagsWithin_ffloat (i := b)) s1
    exact ((srcWord_kept hd hb).source_then_dst delivered).trans (advance_kept _)

theorem cmpf_frame (src : Src FReg) (dst : FReg) : Frame (.cmpf src dst) src.updated flagsNotC nowhere :=
  frame_of_kept (fun _ => rfl) fun hd h => by
    obtain ⟨⟨b, s1⟩, hb, h⟩ := bind_eq_ok.mp h
    cases h
    have read := (srcExt_kept hd hb).mono (mask' := flagsNotC) (fun _ hq => hq) BitVec.zero_and
    exact (read.trans (applyFlags_kept flagsWithin_floatFlags s1)).trans (advance_kept _)

/-- Settles O49: each instruction by its shape and the flags its operation writes. -/
theorem floatFrame : Obligations.FloatFrame := by
  intro src isrc dst c
  simp only [List.forall_mem_cons, List.not_mem_nil, false_implies, implies_true, and_true]
  refine ⟨⟨?addf, ?mpyf, ?negf, ?subf, ?subrf⟩, ?norm, ⟨?lde, ?ldm, ldfCond_frame c src dst⟩, ?absf, ?rnd, ?ldf,
    float_frame isrc dst, cmpf_frame src dst⟩
  case addf | mpyf | negf | subf | subrf => exact twoFlt_frame (fun _ => rfl) fun _ _ => flagsWithin_float
  case norm => exact twoFlt_frame (fun _ => rfl) fun _ _ => flagsWithin_norm
  case lde =>
    exact srcExt_then_frame (fin := fun b _ u => writeExt dst (withExponent b (readExt dst u)) u) (fun _ => rfl) fun _ _ u =>
      writeExt_kept List.mem_cons_self _ u
  case ldm =>
    exact srcExt_then_frame (fin := fun b _ u => writeInt dst (manOf b) u) (fun _ => rfl) fun _ _ u =>
      writeExt_kept List.mem_cons_self _ u
  case absf => exact twoFlt_frame (fun _ => rfl) fun _ _ => flagsWithin_absf
  case rnd => exact twoFlt_frame (fun _ => rfl) fun _ _ => flagsWithin_rnd_notZ
  case ldf => exact twoFlt_frame (fun _ => rfl) fun _ _ => flagsWithin_ldf

end Sys2Proof.Machine
end

section
/-! PROOFS. The family of 43_two_operand.md: the sources of the general, three-operand and parallel forms (O23). -/
namespace Sys2Proof.Machine

/-! ## The floating-point immediate (R198) -/

/-- The exponent -8 is that of 0, whatever the mantissa (D18). -/
theorem fshort_zero {v : BitVec 16} (h : v.extractLsb' 12 4 = 8#4) : fshort v = 0x8000000000#40 := if_pos h

section
variable {v : BitVec 16} (h : v.extractLsb' 12 4 ≠ 8#4)
include h

theorem fshort_fields : fshort v = (v.extractLsb' 12 4).signExtend 8 ++ (v.extractLsb' 0 12 ++ 0#20) := by
  rw [fshort, if_neg h, BitVec.append_assoc, BitVec.cast_eq]

theorem expOf_fshort : expOf (fshort v) = (v.extractLsb' 12 4).toInt := by
  rw [fshort_fields h, expOf, BitVec.extractLsb'_append_eq_left]
  exact BitVec.toInt_signExtend_of_le (by decide)

theorem manOf_fshort : manOf (fshort v) = v.extractLsb' 0 12 ++ 0#20 := by
  rw [fshort_fields h, manOf, BitVec.extractLsb'_append_eq_right]

end

/-! ## Words of memory (R330, R307) -/

/-- On-chip RAM gives its word and keeps the registers and memory. -/
theorem load_ram {a : Addr} {s : State} (ha : region s a = .ram) (hd : s.env.dmaWithin = []) :
    ∃ t, load a s = .ok (memWord s.mem a, t) ∧ KeepsRegs [] s t ∧ t.mem = s.mem := by
  have read : load a s = .ok (memWord s.mem a, noteOnChip .data a s) := by rw [load_eq hd, loadFor_ram ha]
  have part := load_keeps hd read
  exact ⟨_, read, keepsRegs_of_load part, (congrArg State.mem part :)⟩

section
variable {s s₁ s₂ : State} {a : Addr} {w : Word}

theorem srcWord_dir {ext : BitVec 16 → Word} {d : BitVec 16} (h : load (directAddr d s) s = .ok (w, s₁)) :
    srcWord ext (.dir d) s = .ok (w, s₁) := h

theorem srcExt_dir {mem : Word → Ext} {imm : BitVec 16 → Ext} {d : BitVec 16} (h : load (directAddr d s) s = .ok (w, s₁)) :
    srcExt mem imm (.dir d) s = .ok (mem w, s₁) := by rw [srcExt, h]; rfl

section
variable {i : Ind (BitVec 8)} (ha : indirect i s = .ok (a, s₁)) (h : load a s₁ = .ok (w, s₂))
include ha h

theorem memSrc_ind : memSrc (.ind i) s = .ok (w, s₂) := by simp only [memSrc, memAddr, ha, h, ok_bind]

theorem srcWord_ind {ext : BitVec 16 → Word} : srcWord ext (.ind i) s = .ok (w, s₂) := memSrc_ind ha h

theorem srcExt_ind {mem : Word → Ext} {imm : BitVec 16 → Ext} : srcExt mem imm (.ind i) s = .ok (mem w, s₂) := by
  rw [srcExt, memSrc_ind ha h]; rfl

end

end

/-! ## Three-operand and parallel sources (R400, R521, R850, R852) -/

section
variable {ρ α : Type} {reg : ρ → State → α} {mem : Word → α} {i j : Ind Unit} {r : ρ} {s s₁ s₂ s₃ : State} {a b : Addr}
  {x y : Word}

/-- On-chip, or not directly after a single external store, an operand is read as any other (R852). -/
theorem readOperand_eq_load {l : List Addr} (hd : s.env.dmaWithin = []) (h : (offChip s a && s.outBefore == 1) = false) :
    readOperand l a s = load a s := by rw [readOperand_eq hd h, load_eq hd]

/-- The read of the first operand takes one cycle more where the second has to follow it (R850). -/
theorem readFirst_of_readOperand {apart : Bool} (h : readOperand (if apart then [] else [b]) a s = .ok (x, s₁)) :
    readFirst apart b a s = .ok (x, if apart then { s₁ with elapsed := s₁.elapsed + 1 } else s₁) := by
  simp only [readFirst, h, ok_bind, pure_eq_ok]

section
variable (ha : indirect3 i s = .ok (a, s₁)) (h : readOperand [] a s₁ = .ok (x, s₂))
include ha h

/-- One source in memory: the register is read after the update and the read (D9). -/
theorem srcPair_ind_reg : srcPair reg mem (.ind i) (.reg r) s = .ok (mem x, reg r s₂, s₂) := by
  simp only [srcPair, ha, h, ok_bind, pure_eq_ok]

theorem srcPair_reg_ind : srcPair reg mem (.reg r) (.ind i) s = .ok (reg r s₂, mem x, s₂) := by
  simp only [srcPair, ha, h, ok_bind, pure_eq_ok]

end

/-- Both sources in memory: the addresses first, then the reads, src1 before src2 (R850). -/
theorem srcPair_ind_ind (ha : indirectPair i j s = .ok (a, b, s₁)) (hx : readFirst (offChip s₁ a) b a s₁ = .ok (x, s₂))
    (hy : readOperand [] b s₂ = .ok (y, s₃)) : srcPair reg mem (.ind i) (.ind j) s = .ok (mem x, mem y, s₃) := by
  simp only [srcPair, loadPair, ha, hx, hy, ok_bind, pure_eq_ok]

end

/-! ## Two updates of auxiliary registers (R263, R523, D11) -/

theorem updateAr_mem {δ : Type} (i : Ind δ) (u : Option Addr) (s : State) : (updateAr i u s).mem = s.mem := by
  obtain ⟨v, h⟩ := updateAr_eq i u s
  rw [h]

/-- A register outside the list of those written is as it was. -/
theorem KeepsRegs.ar {l : List Reg} {s t : State} (h : KeepsRegs l s t) {n : BitVec 3} (hn : .ar n ∉ l) :
    t.ar[n.toNat] = s.ar[n.toNat] := by
  have same : held (.ar n) t = held (.ar n) s := h (.ar n) hn
  simpa [held] using congrArg (·.setWidth 32) same

/-- No update touches bits 31-24 of any auxiliary register (R24). -/
theorem updateAr_high {δ : Type} (i : Ind δ) (u : Option Addr) (s : State) (n : BitVec 3) :
    ((updateAr i u s).ar[n.toNat]).extractLsb' 24 8 = (s.ar[n.toNat]).extractLsb' 24 8 := by
  by_cases hn : n = i.arCode
  · subst hn
    cases u with
    | none => rfl
    | some a => exact writeArAddr_high i.arCode a s
  · rw [(updateAr_keepsRegs i u s).ar fun h => hn (Reg.ar.inj (List.mem_singleton.mp h))]

/-- The machine after the updates of two operands: where they name one register, that of `hi` alone is made (D11). -/
def pairUpdated (hi lo : Ind Unit) (u v : Option Addr) (s : State) : State :=
  updateAr hi u (if hi.arCode = lo.arCode then s else updateAr lo v s)

theorem indirectPair_of_generate {hi lo : Ind Unit} {s : State} {a b : Addr} {u v : Option Addr}
    (ha : generate disp1 hi s = .ok (a, u)) (hb : generate disp1 lo s = .ok (b, v)) :
    indirectPair hi lo s = .ok (a, b, pairUpdated hi lo u v s) := by
  simp only [indirectPair, ha, hb, ok_bind, pure_eq_ok, pairUpdated]

section
variable (hi lo : Ind Unit) (u v : Option Addr) (s : State)

theorem pairUpdated_mem : (pairUpdated hi lo u v s).mem = s.mem := by
  rw [pairUpdated, updateAr_mem]
  split
  · rfl
  · exact updateAr_mem lo v s

theorem pairUpdated_high (n : BitVec 3) :
    ((pairUpdated hi lo u v s).ar[n.toNat]).extractLsb' 24 8 = (s.ar[n.toNat]).extractLsb' 24 8 := by
  rw [pairUpdated, updateAr_high]
  split
  · rfl
  · exact updateAr_high lo v s n

theorem pairUpdated_keepsRegs : KeepsRegs [.ar hi.arCode, .ar lo.arCode] s (pairUpdated hi lo u v s) := by
  intro q hq
  obtain ⟨notHi, notLo⟩ : q ≠ .ar hi.arCode ∧ q ≠ .ar lo.arCode := by simpa using hq
  have first : held q (if hi.arCode = lo.arCode then s else updateAr lo v s) = held q s := by
    split
    · rfl
    · exact updateAr_keepsRegs lo v s q (by simpa using notLo)
  exact (updateAr_keepsRegs hi u _ q (by simpa using notHi)).trans first

theorem pairUpdated_hi : arAddr hi.arCode (pairUpdated hi lo u v s) = u.getD (arAddr hi.arCode s) := by
  rw [pairUpdated, arAddr_updateAr]
  split
  · rfl
  · next apart =>
    have kept := (updateAr_keepsRegs lo v s).ar fun h => apart (Reg.ar.inj (List.mem_singleton.mp h))
    rw [arAddr, kept, arAddr]

theorem pairUpdated_lo (h : lo.arCode ≠ hi.arCode) :
    arAddr lo.arCode (pairUpdated hi lo u v s) = v.getD (arAddr lo.arCode s) := by
  have kept := (updateAr_keepsRegs hi u (updateAr lo v s)).ar fun e => h (Reg.ar.inj (List.mem_singleton.mp e))
  rw [pairUpdated, if_neg h.symm, arAddr, kept]
  exact arAddr_updateAr lo v s

end

/-- Settles O23: the sources of each form, then the two updates of a pair. -/
theorem operandFetch : Obligations.OperandFetch := by
  refine ⟨fun s s₁ s₂ r f d v i a w => ?general, fun s s₁ s₂ s₃ q r f g i j a b x y => ?pairs,
    fun s hi lo a b u v ha hb => ?updates⟩
  case general =>
    have unsigned : v.setWidth 32 = BitVec.ofNat 32 v.toNat := (BitVec.ofNat_toNat 32 v).symm
    exact ⟨rfl, rfl, rfl, congrArg (fun z => Except.ok (z, s)) unsigned, rfl, rfl, rfl,
      ⟨fshort v, rfl, fshort_zero, fun h => ⟨expOf_fshort h, manOf_fshort h⟩⟩, load_ram,
      fun h => ⟨srcWord_dir h, srcWord_dir h, srcExt_dir h, srcExt_dir h⟩,
      fun ha h => ⟨srcWord_ind ha h, srcWord_ind ha h, srcExt_ind ha h, srcExt_ind ha h⟩⟩
  case pairs =>
    exact ⟨rfl, rfl, fun hd h => ⟨readOperand_eq_load hd h, readOperand_eq_load hd h⟩,
      fun ha h => ⟨srcPair_ind_reg ha h, srcPair_reg_ind ha h, srcPair_ind_reg ha h, srcPair_reg_ind ha h⟩,
      fun _ => readFirst_of_readOperand,
      fun ha hx hy => ⟨srcPair_ind_ind ha hx hy, srcPair_ind_ind ha hx hy⟩⟩
  case updates =>
    exact ⟨_, indirectPair_of_generate ha hb, pairUpdated_keepsRegs hi lo u v s, pairUpdated_mem hi lo u v s,
      pairUpdated_hi hi lo u v s, pairUpdated_lo hi lo u v s, pairUpdated_high hi lo u v s⟩

end Sys2Proof.Machine
end

section
/-! PROOFS. The family of 44_three_operand.md: results of the three-operand instructions (O28, O30). -/
namespace Sys2Proof.Machine

section
variable {i : Instr} {s s₁ : State}

/-- A three-operand instruction on an integer destination completes as its operation's rule says. -/
theorem threeInt_gives {op : Word → Word → Word → Effect Word} {x y : Src3 Reg} {dst : Reg} {a b : Word}
    {e : Expected Word} (h : srcPairInt x y s = .ok (a, b, s₁)) (hexec : exec i s = outcome s (threeInt op x y dst s))
    (hop : Meets (op s₁.st a b) e) : GivesInt i s s₁ dst e :=
  givesInt_of_deliver (by rw [hexec, threeInt_of_src h]) (srcPair_pc h) hop.out hop.flags

/-- A three-operand instruction on a floating-point destination completes as its operation's rule says. -/
theorem threeFlt_gives {op : Ext → Ext → Effect Ext} {x y : Src3 FReg} {dst : FReg} {a b : Ext} {e : Expected Ext}
    (h : srcPairFlt x y s = .ok (a, b, s₁)) (hexec : exec i s = outcome s (threeFlt op x y dst s))
    (hop : Meets (op a b) e) : GivesFlt i s s₁ dst e :=
  givesFlt_of_deliver (by rw [hexec, threeFlt_of_src h, outcome_ok]) (srcPair_pc h) hop.out hop.flags

theorem exec_cmpf3 {x y : Src3 FReg} {a b : Ext} (h : srcPairFlt x y s = .ok (a, b, s₁)) :
    exec (.cmpf3 x y) s = .next (advance (applyFlags (floatFlags (fsub a b)) s₁)) := by
  change execCmpf3 x y s = _
  simp only [execCmpf3, h, ok_bind, pure_eq_ok, outcome_ok]

end

/-- Settles O28: each instruction by its operation, with src1 first in a difference and the count in src2. -/
theorem threeOperandResults : Obligations.ThreeOperandResults := by
  intro x y dst s s₁ a b h c
  refine ⟨?addi3, ?addc3, ?subi3, ?subb3, ?mpyi3, ?and3, ?andn3, ?or3, ?xor3, ?ash3, ?lsh3⟩
  case addi3 => exact threeInt_gives h rfl add_meets
  case addc3 => exact threeInt_gives h rfl (addc_meets _)
  case subi3 => exact threeInt_gives h rfl sub_meets
  case subb3 => exact threeInt_gives h rfl (subb_meets _)
  case mpyi3 => exact threeInt_gives h rfl mpy_meets
  case and3 | andn3 | or3 | xor3 => exact threeInt_gives h rfl (logic_meets _)
  case ash3 => exact threeInt_gives h rfl ash_meets
  case lsh3 => exact threeInt_gives h rfl lsh_meets

/-- Settles O30: each instruction by its operation; CMPF3 writes the flags of the difference alone. -/
theorem threeOperandFloat : Obligations.ThreeOperandFloat := by
  intro x y dst s s₁ a b h
  refine ⟨?addf3, ?subf3, ?mpyf3, ?cmpf3⟩
  case addf3 | subf3 | mpyf3 => exact threeFlt_gives h rfl (float_meets _)
  case cmpf3 => exact givesFlags_of_apply (exec_cmpf3 h) (srcPair_pc h) (flagsAre_float _)

end Sys2Proof.Machine
end

section
/-! PROOFS. The family of 44_three_operand.md: what the three-operand instructions and the parallel ones without a store leave
unchanged (O50). -/
namespace Sys2Proof.Machine

/-! ## Two reads -/

section
variable {s t : State} {a b : Addr} {x y : Word} (hd : s.env.dmaWithin = [])
include hd

/-- A second read, in the same cycle as the first or in the one after it, keeps what the first keeps. -/
theorem readTwo_keeps {apart : Bool} {other : Addr} {l : List Addr} {u : State}
    (hx : readFirst apart other a s = .ok (x, u)) (hy : readOperand l b u = .ok (y, t)) : loadPart t = loadPart s := by
  have first : loadPart u = loadPart s := readFirst_keeps hd hx
  have quiet : u.env.dmaWithin = [] := (congrArg (fun r : State => r.env.dmaWithin) first :).trans hd
  exact (readOperand_keeps quiet hy).trans first

theorem loadPair_keeps (h : loadPair a b s = .ok (x, y, t)) : loadPart t = loadPart s := by
  obtain ⟨⟨_, u⟩, hx, h⟩ := bind_eq_ok.mp h
  obtain ⟨⟨_, v⟩, hy, h⟩ := bind_eq_ok.mp h
  cases h
  exact readTwo_keeps hd hx hy

/-- The two loads of a parallel multiply, in either order (R850). -/
theorem loadMul_keeps (h : loadMul a b s = .ok (x, y, t)) : loadPart t = loadPart s := by
  unfold loadMul at h
  split at h
  · obtain ⟨⟨_, u⟩, hy, h⟩ := bind_eq_ok.mp h
    obtain ⟨⟨_, v⟩, hx, h⟩ := bind_eq_ok.mp h
    cases h
    exact readTwo_keeps hd hy hx
  · exact loadPair_keeps hd h

end

/-! ## Sources -/

section
variable {mask : Word}

/-- A three-operand address: its auxiliary register is written where the mode updates it (R265). -/
theorem indirect3_kept {i : Ind Unit} {s t : State} {a : Addr} (h : indirect3 i s = .ok (a, t)) :
    Kept i.updated mask s t := by
  obtain ⟨g, hg, he⟩ := map_eq_ok.mp h
  cases he
  exact updateAr_kept (generate_updates hg) s

theorem indirect3_env {i : Ind Unit} {s t : State} {a : Addr} (h : indirect3 i s = .ok (a, t)) : t.env = s.env := by
  obtain ⟨v, rfl⟩ := indirect3_cases h
  rfl

/-- One operand in memory: the address, then the word. -/
theorem indirect3_then_read_kept {i : Ind Unit} {l : List Addr} {s t u : State} {a : Addr} {w : Word}
    (hd : s.env.dmaWithin = []) (ha : indirect3 i s = .ok (a, t)) (hw : readOperand l a t = .ok (w, u)) :
    Kept i.updated mask s u := by
  have quiet : t.env.dmaWithin = [] := by rw [indirect3_env ha, hd]
  exact (indirect3_kept ha).trans (load_kept (readOperand_keeps quiet hw))

/-- Two operands in memory: both addresses, then both words, by the way `read` that the instruction reads two words. -/
theorem indirectPair_then_read_kept {read : Addr → Addr → State → Except Stop (Word × Word × State)} {hi lo : Ind Unit}
    {s t u : State} {a b : Addr} {x y : Word}
    (hread : ∀ {a b x y s t}, s.env.dmaWithin = [] → read a b s = .ok (x, y, t) → loadPart t = loadPart s)
    (hd : s.env.dmaWithin = []) (ha : indirectPair hi lo s = .ok (a, b, t)) (hr : read a b t = .ok (x, y, u)) :
    Kept (hi.updated ++ lo.updated) mask s u := by
  have quiet : t.env.dmaWithin = [] := by rw [indirectPair_env ha, hd]
  exact (indirectPair_kept ha).trans (load_kept (hread quiet hr))

/-- Both sources of a three-operand instruction: the auxiliary registers of those in memory (R263, R400). -/
theorem srcPair_kept {ρ α : Type} {reg : ρ → State → α} {mem : Word → α} {p q : Src3 ρ} {s t : State} {x y : α}
    (hd : s.env.dmaWithin = []) (h : srcPair reg mem p q s = .ok (x, y, t)) :
    Kept (p.updated ++ q.updated) mask s t := by
  cases p with
  | reg r =>
    cases q with
    | reg r' => cases h; exact .refl ..
    | ind j =>
      obtain ⟨⟨b, s1⟩, hb, h⟩ := bind_eq_ok.mp h
      obtain ⟨⟨w, s2⟩, hw, h⟩ := bind_eq_ok.mp h
      cases h
      exact indirect3_then_read_kept hd hb hw
  | ind i =>
    cases q with
    | reg r =>
      obtain ⟨⟨a, s1⟩, ha, h⟩ := bind_eq_ok.mp h
      obtain ⟨⟨w, s2⟩, hw, h⟩ := bind_eq_ok.mp h
      cases h
      exact (indirect3_then_read_kept hd ha hw).mono (fun _ => List.mem_append_left _) (BitVec.and_not_self mask)
    | ind j =>
      obtain ⟨⟨a, b, s1⟩, ha, h⟩ := bind_eq_ok.mp h
      obtain ⟨⟨v, w, s2⟩, hr, h⟩ := bind_eq_ok.mp h
      cases h
      exact indirectPair_then_read_kept loadPair_keeps hd ha hr

end

/-! ## Shapes of instructions -/

/-- The three-operand form on an integer destination. -/
theorem threeInt_frame {i : Instr} {op : Word → Word → Word → Effect Word} {x y : Src3 Reg} {dst : Reg} {m : Word}
    (hexec : ∀ s, exec i s = outcome s (threeInt op x y dst s)) (hop : ∀ st a b, FlagsWithin m (op st a b).flags) :
    Frame i (dst :: x.updated ++ y.updated) (stBits dst m) nowhere :=
  frame_of_kept hexec fun hd h => by
    obtain ⟨⟨a, b, s1⟩, hab, h⟩ := bind_eq_ok.mp h
    obtain ⟨s2, hs2, h⟩ := bind_eq_ok.mp h
    cases h
    exact ((srcPair_kept hd hab).source_then_dst (deliver_kept (hop _ _ _) hs2)).trans (advance_kept s2)

/-- The three-operand form on a floating-point destination. -/
theorem threeFlt_frame {i : Instr} {op : Ext → Ext → Effect Ext} {x y : Src3 FReg} {dst : FReg} {mask : Word}
    (hexec : ∀ s, exec i s = outcome s (threeFlt op x y dst s)) (hop : ∀ a b, FlagsWithin mask (op a b).flags) :
    Frame i (.r dst :: x.updated ++ y.updated) mask nowhere :=
  frame_of_kept hexec fun hd h => by
    obtain ⟨⟨a, b, s1⟩, hab, h⟩ := bind_eq_ok.mp h
    cases h
    have delivered := deliverFlt_kept (written := [.r dst]) List.mem_cons_self (hop a b) s1
    exact ((srcPair_kept hd hab).source_then_dst delivered).trans (advance_kept _)

/-- A comparison or a test of two three-operand sources, by the flags it writes (R407, R408, R416). -/
theorem compare3_frame {ρ α : Type} {i : Instr} {reg : ρ → State → α} {mem : Word → α} {x y : Src3 ρ}
    {flags : α → α → Word → Word} {mask : Word} (hexec : ∀ s, exec i s = outcome s do
      let (a, b, s1) ← srcPair reg mem x y s
      pure (advance (applyFlags (flags a b) s1)))
    (hflags : ∀ a b, FlagsWithin mask (flags a b)) : Frame i (x.updated ++ y.updated) mask nowhere :=
  frame_of_kept hexec fun hd h => by
    obtain ⟨⟨a, b, s1⟩, hab, h⟩ := bind_eq_ok.mp h
    cases h
    exact ((srcPair_kept hd hab).trans (applyFlags_kept (hflags a b) s1)).trans (advance_kept _)

/-- The two words of a parallel instruction have been read; its two registers may be written next. -/
theorem parallelReads_kept {read : Addr → Addr → State → Except Stop (Word × Word × State)} {hi lo : Ind Unit} {p q : FReg}
    {mask : Word} {s t u : State} {a b : Addr} {x y : Word}
    (hread : ∀ {a b x y s t}, s.env.dmaWithin = [] → read a b s = .ok (x, y, t) → loadPart t = loadPart s)
    (hd : s.env.dmaWithin = []) (ha : indirectPair hi lo s = .ok (a, b, t)) (hr : read a b t = .ok (x, y, u)) :
    Kept (.r p :: .r q :: (hi.updated ++ lo.updated)) mask s u :=
  (indirectPair_then_read_kept hread hd ha hr).mono (fun _ hq => List.mem_cons_of_mem _ (List.mem_cons_of_mem _ hq))
    (BitVec.and_not_self mask)

/-- Two loads: `put` writes a word to a register, first that of bits 15-8 (R538, R540). -/
theorem twoLoads_frame {i : Instr} {hi lo : Ind Unit} {f g : FReg} {put : FReg → Word → State → State}
    (hexec : ∀ s, exec i s = outcome s do
      let (a, b, s1) ← indirectPair hi lo s
      let (x, y, s2) ← loadPair a b s1
      pure (advance (put f y (put g x s2))))
    (hput : ∀ {written n} (w u), .r n ∈ written → Kept written 0#32 u (put n w u)) :
    Frame i (.r f :: .r g :: (hi.updated ++ lo.updated)) 0#32 nowhere :=
  frame_of_kept hexec fun hd h => by
    obtain ⟨⟨a, b, s1⟩, ha, h⟩ := bind_eq_ok.mp h
    obtain ⟨⟨x, y, s2⟩, hr, h⟩ := bind_eq_ok.mp h
    cases h
    have fetched := parallelReads_kept (p := f) (q := g) (mask := 0#32) loadPair_keeps hd ha hr
    have first := fetched.trans (hput x s2 (List.mem_cons_of_mem _ List.mem_cons_self))
    exact (first.trans (hput y _ List.mem_cons_self)).trans (advance_kept _)

/-! ## Parallel multiplies (R523) -/

/-- R0 or R1 takes the product. -/
theorem mulDst_eq (d : BitVec 1) : mulDst d = if d = 0#1 then 0#3 else 1#3 := by revert d; decide

/-- R2 or R3 takes the sum or the difference. -/
theorem addDst_eq (d : BitVec 1) : addDst d = if d = 0#1 then 2#3 else 3#3 := by revert d; decide

section
variable {i : Instr} {p : BitVec 2} {d1 d2 : BitVec 1} {src1 src2 : FReg} {src3 src4 : Ind Unit}

/-- The product and the sum are written, then the flags. -/
theorem parallelResults_kept {l : List Reg} {mask : Word} {flags : Word → Word} (hflags : FlagsWithin mask flags)
    (prod sum : Ext) (s : State) :
    Kept (.r (mulDst d1) :: .r (addDst d2) :: l) mask s
      (advance (applyFlags flags (writeExt (addDst d2) sum (writeExt (mulDst d1) prod s)))) :=
  have wrote := (writeExt_kept List.mem_cons_self prod s).trans
    (writeExt_kept (List.mem_cons_of_mem _ List.mem_cons_self) sum _)
  (wrote.trans (applyFlags_kept hflags _)).trans (advance_kept _)

theorem parallelFlt_frame {add : Ext → Ext → FResult}
    (hexec : ∀ s, exec i s = outcome s (parallelFlt add p d1 d2 src1 src2 src3 src4 s)) :
    Frame i (.r (mulDst d1) :: .r (addDst d2) :: (src3.updated ++ src4.updated)) flagsNotC nowhere :=
  frame_of_kept hexec fun hd h => by
    obtain ⟨⟨a3, a4, s1⟩, ha, h⟩ := bind_eq_ok.mp h
    obtain ⟨⟨m3, m4, s2⟩, hm, h⟩ := bind_eq_ok.mp h
    cases h
    exact (parallelReads_kept loadMul_keeps hd ha hm).trans (parallelResults_kept flagsWithin_opFlags _ _ s2)

theorem parallelInt_frame {add : Int → Int → Int}
    (hexec : ∀ s, exec i s = outcome s (parallelInt add p d1 d2 src1 src2 src3 src4 s)) :
    Frame i (.r (mulDst d1) :: .r (addDst d2) :: (src3.updated ++ src4.updated)) flagsNotCLuf nowhere :=
  frame_of_kept hexec fun hd h => by
    obtain ⟨⟨a3, a4, s1⟩, ha, h⟩ := bind_eq_ok.mp h
    obtain ⟨⟨m3, m4, s2⟩, hm, h⟩ := bind_eq_ok.mp h
    cases h
    exact (parallelReads_kept loadMul_keeps hd ha hm).trans (parallelResults_kept flagsWithin_opFlags_noUf _ _ s2)

end

/-- Settles O50: each instruction by its shape and the flags its operation writes. -/
theorem threeOperandFrame : Obligations.ThreeOperandFrame := by
  intro x y fx fy dst f g p d1 d2 hi lo
  simp only [List.forall_mem_cons, List.not_mem_nil, false_implies, implies_true, and_true, ← mulDst_eq, ← addDst_eq]
  refine ⟨⟨?addc3, ?addi3, ?ash3, ?subb3, ?subi3⟩, ⟨?and3, ?andn3, ?or3, ?xor3⟩, ?lsh3, ?mpyi3, ⟨?addf3, ?mpyf3, ?subf3⟩,
    ?cmpi3, ?tstb3, ?cmpf3, ⟨?mpyf3_addf3, ?mpyf3_subf3⟩, ⟨?mpyi3_addi3, ?mpyi3_subi3⟩, ⟨?ldf_ldf, ?ldi_ldi⟩⟩
  case addc3 | addi3 => exact threeInt_frame (fun _ => rfl) fun _ _ _ => flagsWithin_add
  case ash3 => exact threeInt_frame (fun _ => rfl) fun _ _ _ => flagsWithin_ash
  case subb3 | subi3 => exact threeInt_frame (fun _ => rfl) fun _ _ _ => flagsWithin_sub
  case and3 | andn3 | or3 | xor3 => exact threeInt_frame (fun _ => rfl) fun _ _ _ => flagsWithin_logic
  case lsh3 => exact threeInt_frame (fun _ => rfl) fun _ _ _ => flagsWithin_lsh
  case mpyi3 => exact threeInt_frame (fun _ => rfl) fun _ _ _ => flagsWithin_mpy
  case addf3 | mpyf3 | subf3 => exact threeFlt_frame (fun _ => rfl) fun _ _ => flagsWithin_float
  case cmpi3 => exact compare3_frame (fun _ => rfl) fun _ _ => flagsWithin_cmp
  case tstb3 => exact compare3_frame (flags := fun a b => logicFlags (a &&& b)) (fun _ => rfl) fun _ _ =>
    flagsWithin_logicFlags
  case cmpf3 => exact compare3_frame (flags := fun a b => floatFlags (fsub a b)) (fun _ => rfl) fun _ _ =>
    flagsWithin_floatFlags
  case mpyf3_addf3 | mpyf3_subf3 => exact parallelFlt_frame fun _ => rfl
  case mpyi3_addi3 | mpyi3_subi3 => exact parallelInt_frame fun _ => rfl
  case ldf_ldf =>
    exact twoLoads_frame (put := fun n w => writeExt n (fload w)) (fun _ => rfl) fun _ u hn => writeExt_kept hn _ u
  case ldi_ldi => exact twoLoads_frame (put := writeInt) (fun _ => rfl) fun _ u hn => writeExt_kept hn _ u

end Sys2Proof.Machine
end

section
/-! PROOFS. The family of 45_program_control.md: the conditions (O32) and the branches (O43). -/
namespace Sys2Proof

/-! ## Condition codes (R441) -/

/-- The decoder of conditions inverts their code: no other code names one. -/
theorem Cond.ofCode_eq_ok {k : BitVec 5} {x : Cond} : Cond.ofCode k = .ok x ↔ k = x.code := by
  constructor
  · intro h
    have inverts : ∀ k : BitVec 5, ∀ y ∈ (Cond.ofCode k).toOption, k = y.code := by decide
    exact inverts k x (by rw [h]; rfl)
  · rintro rfl
    exact Cond.ofCode_code x

/-- The codes of conditions: 0 to 20 without 11 (U6). -/
theorem Cond.exists_code_iff {k : BitVec 5} : (∃ x : Cond, k = x.code) ↔ k.toNat ≠ 11 ∧ k.toNat ≤ 20 := by
  constructor
  · rintro ⟨x, rfl⟩
    cases x <;> decide
  · have named : ∀ k : BitVec 5, k.toNat ≠ 11 ∧ k.toNat ≤ 20 → (Cond.ofCode k).toOption.isSome = true := by decide
    intro h
    cases hk : Cond.ofCode k with
    | ok x => exact ⟨x, Cond.ofCode_eq_ok.mp hk⟩
    | error e =>
      have named_k := named k h
      rw [hk] at named_k
      cases named_k

end Sys2Proof

namespace Sys2Proof.Machine

/-- Settles O32: a code is that of its condition, and each condition's row is its case of `condHolds`. -/
theorem conditionTable : Obligations.ConditionTable := by
  refine fun st => ⟨fun k x h => ?_, fun k => ?_⟩
  · obtain rfl := Cond.ofCode_eq_ok.mp h
    cases x <;> rfl
  · simp only [Cond.ofCode_eq_ok, Cond.exists_code_iff]

/-! ## Branches (R443 to R447, R451, R452) -/

section
variable (c : Cond) (n : BitVec 3) (t : Target) (s : State)

theorem branchIf_eq (taken : Bool) (target : Addr) :
    branchIf taken target s = { s with pc := if taken then target else s.pc + 1 } := by
  cases taken <;> rfl

/-- The count of a decrementing branch goes on while it is not negative as a 24-bit number (R451). -/
theorem dbTaken_eq : dbTaken n c s = (condHolds s.st c && decide (0 ≤ (arAddr n s - 1).toInt)) := by
  have sign : (!(decremented n s).msb) = decide (0 ≤ (arAddr n s - 1).toInt) := by
    rw [BitVec.msb_eq_toInt, ← decide_not, decremented]
    simp only [not_lt]
  rw [dbTaken, sign]

theorem exec_bCond : exec (.bCond c t) s =
    .next { s with pc := if condHolds s.st c then branchTarget t (s.pc + 1) s else s.pc + 1 } :=
  congrArg Host.Outcome.next (branchIf_eq s _ _)

/-- The register is decremented whether or not the branch is taken, and before the target is read (D9). -/
theorem exec_dbCond : exec (.dbCond n c t) s = .next { writeArAddr n (arAddr n s - 1) s with
    pc := if condHolds s.st c && decide (0 ≤ (arAddr n s - 1).toInt)
      then branchTarget t (s.pc + 1) (writeArAddr n (arAddr n s - 1) s) else s.pc + 1 } := by
  rw [← dbTaken_eq]
  exact congrArg Host.Outcome.next (branchIf_eq ..)

theorem exec_dbCondD : exec (.dbCondD n c t) s =
    .next (delayBranch (condHolds s.st c && decide (0 ≤ (arAddr n s - 1).toInt))
      (branchTarget t (s.pc + 3) (writeArAddr n (arAddr n s - 1) s)) (writeArAddr n (arAddr n s - 1) s)) := by
  rw [← dbTaken_eq]
  rfl

end

/-- Settles O43: each branch by what it does, with its target in a register or at a displacement. -/
theorem branchResults : Obligations.BranchResults := by
  intro c n r d a s
  refine ⟨rfl, rfl, fun t ht => ?_⟩
  rcases ht with rfl | rfl <;> exact ⟨exec_bCond c _ s, rfl, exec_dbCond c n _ s, exec_dbCondD c n _ s⟩

end Sys2Proof.Machine
end

section
/-! PROOFS. The family of 45_program_control.md: calls and returns (O44), traps (O45). -/
namespace Sys2Proof.Machine

variable {c : Cond} {s s₁ s₂ : State} {w : Word}

/-! ## Calls (R448, R449) -/

/-- A call whose push is made: the target is read after it (D9). -/
theorem callTo_of_store {target : State → Addr}
    (h : store ((s.sp + 1).extractLsb' 0 24) ((s.pc + 1).setWidth 32) { s with sp := s.sp + 1 } = .ok s₁) :
    callTo target s = .ok { s₁ with pc := target s₁ } := by
  simp only [callTo, nextPc, push_eq, h, ok_bind, pure_eq_ok]

/-- What runs on a condition, where it holds. -/
theorem outcome_of_holds {x y : Except Stop State} (hc : condHolds s.st c = true) :
    outcome s (if condHolds s.st c then x else y) = outcome s x := by rw [if_pos hc]

/-- The same, where it does not hold. -/
theorem outcome_of_not {x y : Except Stop State} (hc : condHolds s.st c = false) :
    outcome s (if condHolds s.st c then x else y) = outcome s y := by rw [hc, if_neg Bool.false_ne_true]

/-! ## Returns (R468, R469) -/

/-- A load leaves every register of the CPU but IF, whatever the DMA controller does before it. -/
theorem load_cpuPart {a : Addr} (h : load a s = .ok (w, s₁)) : cpuPart s₁ = cpuPart s := (load_work h).1

theorem popPc_of_load (h : load (s.sp.extractLsb' 0 24) s = .ok (w, s₁)) :
    popPc s = .ok { s₁ with sp := s.sp - 1, pc := w.extractLsb' 0 24 } := by
  have sp : s₁.sp = s.sp := (congrArg State.sp (load_cpuPart h) :)
  simp only [popPc, pop_of_load h, ok_bind, pure_eq_ok, sp]

/-- A return from an exception sets GIE in ST as it was (R468). -/
theorem returnFromException_of_load (h : load (s.sp.extractLsb' 0 24) s = .ok (w, s₁)) :
    returnFromException s = .ok { s₁ with
      sp := s.sp - 1, pc := w.extractLsb' 0 24, st := s.st ||| 0x2000#32
      windowGie := s.windowGie || s.intWindow.isSome } := by
  have part := load_cpuPart h
  have st : s₁.st = s.st := (congrArg State.st part :)
  have gie : s₁.windowGie = s.windowGie := (congrArg State.windowGie part :)
  have window : s₁.intWindow = s.intWindow := (congrArg State.intWindow part :)
  rw [← st, ← gie, ← window]
  simp only [returnFromException, popPc_of_load h, ok_bind, pure_eq_ok]
  rfl

/-- Settles O44: the push and the pop of the PC, each where its condition holds; else the next instruction. -/
theorem callAndReturnResults : Obligations.CallAndReturnResults := by
  intro c t a w s s₁
  refine ⟨fun h => ⟨?call, fun hc => ?callCond⟩, fun hc h => ⟨?retsCond, ?retiCond⟩, fun hc => ?notTaken⟩
  case call =>
    change outcome s (callTo (fun _ => a) s) = _
    rw [callTo_of_store h, outcome_ok]
  case callCond =>
    refine (outcome_of_holds hc).trans ?_
    rw [callTo_of_store h, outcome_ok]
    cases t <;> rfl
  case retsCond =>
    refine (outcome_of_holds hc).trans ?_
    rw [popPc_of_load h, outcome_ok]
  case retiCond =>
    refine (outcome_of_holds hc).trans ?_
    rw [returnFromException_of_load h, outcome_ok]
  case notTaken => exact ⟨outcome_of_not hc, outcome_of_not hc, outcome_of_not hc⟩

/-! ## Traps (R462, R632) -/

/-- The machine as a trap's push finds it: SP incremented and GIE 0. -/
def trapping (s : State) : State := { s with sp := s.sp + 1, st := s.st &&& ~~~0x2000#32 }

section
variable {n : BitVec 5}
  (hpush : store ((s.sp + 1).extractLsb' 0 24) ((s.pc + 1).setWidth 32) (trapping s) = .ok s₁)
  (hvector : loadFor .vector (BitVec.ofNat 24 (0x20 + n.toNat)) s₁ = .ok (w, s₂))
include hpush hvector

theorem takeTrap_of_store : takeTrap n s = .ok { s₂ with pc := w.extractLsb' 0 24 } := by
  rw [← trapVector_eq] at hvector
  have pushed : push ((s.pc + 1).setWidth 32) (setGie false s) = .ok s₁ := hpush
  simp only [takeTrap, enterException, pushed, vector, hvector, ok_bind, pure_eq_ok]

/-- The push and the vector's read leave the CPU's registers. -/
theorem trap_cpuPart : cpuPart s₂ = cpuPart (trapping s) :=
  (cpuPart_of_load (loadFor_keeps hvector)).trans (store_work hpush).1

/-- No flag of IF changes where the stack is not on the peripheral bus. -/
theorem trap_ifr (hr : region s ((s.sp + 1).extractLsb' 0 24) ≠ .peripheral) (hd : s.env.dmaWithin = []) :
    s₂.ifr = s.ifr := by
  have pushed : KeptOutside [] 0#32 [(s.sp + 1).extractLsb' 0 24] (trapping s) s₁ := store_keptOutside hd hpush
  have stored : s₁.ifr = s.ifr := (pushed.units (List.forall_mem_singleton.mpr hr)).2 List.not_mem_nil
  exact (congrArg State.ifr (loadFor_keeps hvector) :).trans stored

end

/-- A false TRAPcond leaves GIE but on a C30 without two NOPs before it (R627). -/
theorem falseTrap_of_safe (h : s.device ≠ .c30 ∨ 2 ≤ s.nopRun) : falseTrap s = s :=
  if_neg fun ⟨hd, hn, _⟩ => h.elim (· hd) fun h2 => absurd hn (Nat.not_lt.mpr h2)

/-- Settles O45: the trap taken by its push and its vector, the false one by what it leaves. -/
theorem trapResults : Obligations.TrapResults := by
  intro c n w s s₁ s₂
  refine ⟨fun hc hpush hvector => ⟨?_, ?_⟩, fun hc hsafe => ?_⟩
  · refine (outcome_of_holds hc).trans ?_
    rw [takeTrap_of_store hpush hvector, outcome_ok]
  · have part := trap_cpuPart hpush hvector
    exact ⟨(congrArg State.st part :), (congrArg State.sp part :), (congrArg State.ie part :), trap_ifr hpush hvector⟩
  · refine (outcome_of_not hc).trans ?_
    rw [falseTrap_of_safe hsafe]
    rfl

end Sys2Proof.Machine
end

section
/-! The input pins, kept by an instruction's accesses and by what the DMA controller does before them (R96, R686). -/
namespace Sys2Proof.Machine

variable {s t : State}

/-! ## The DMA controller -/

theorem noteAck_pins (i : Nat) (s : State) : (noteAck i s).pins = s.pins := by
  unfold noteAck
  split_ifs <;> rfl

theorem dmaAcknowledge_pins {l b : Bool} (h : dmaAcknowledge l b s = some t) : t.pins = s.pins := by
  unfold dmaAcknowledge at h
  split_ifs at h
  · cases h; rfl
  · cases h; exact noteAck_pins _ _

theorem dmaFinish_pins (s : State) : (dmaFinish s).pins = s.pins := by
  unfold dmaFinish
  split
  · rfl
  · split <;> rfl

theorem dmaContinue_pins (x : DmaAccess) (s : State) : (dmaContinue x s).pins = s.pins := by
  unfold dmaContinue
  split
  · rfl
  · split
    · exact dmaFinish_pins s
    · rfl

theorem dmaBegun_pins (w : Bool) (l : Option Nat) (s : State) : (dmaBegun w l s).pins = s.pins := by
  unfold dmaBegun
  dsimp only
  split
  · exact dmaFinish_pins _
  · rfl

theorem dmaCountDown_pins (s : State) : (dmaCountDown s).pins = s.pins := by
  unfold dmaCountDown
  dsimp only
  split <;> rfl

theorem loadFor_pins {k : Access} {a : Addr} {w : Word} (h : loadFor k a s = .ok (w, t)) : t.pins = s.pins :=
  (congrArg State.pins (loadFor_keeps h) :)

theorem dmaBeginRead_pins (h : dmaBeginRead s = .ok t) : t.pins = s.pins := by
  unfold dmaBeginRead at h
  split at h
  · cases h
  · obtain ⟨⟨w, u⟩, hu, h⟩ := bind_eq_ok.mp h
    cases h
    exact (dmaBegun_pins ..).trans (loadFor_pins hu :)

theorem dmaBeginWrite_pins (h : dmaBeginWrite s = .ok t) : t.pins = s.pins := by
  unfold dmaBeginWrite at h
  split at h
  · cases h
  · obtain ⟨u, hu, h⟩ := bind_eq_ok.mp h
    cases h
    have stored : u.pins = s.pins := (congrArg State.pins (storeAfter_keeps hu) :)
    exact (dmaBegun_pins ..).trans ((dmaCountDown_pins u).trans stored)

theorem dmaPart_pins {n : List Addr} {w : Bool} (h : dmaPart n w s = .ok t) : t.pins = s.pins := by
  have begins : ∀ {u : State}, (if w then dmaBeginWrite u else dmaBeginRead u) = .ok t → t.pins = u.pins := by
    intro u hu
    cases w with
    | true => exact dmaBeginWrite_pins hu
    | false => exact dmaBeginRead_pins hu
  unfold dmaPart at h
  by_cases hb : (!dmaMayBegin n (if w = true then s.dma.dst else s.dma.src) s) = true
  · rw [if_pos hb] at h
    cases h
    rfl
  · rw [if_neg hb] at h
    split at h
    · cases h; rfl
    · exact (begins h :)
    · exact begins h

theorem dmaStep_pins {n : List Addr} {l : Bool} (h : dmaStep n l s = .ok t) : t.pins = s.pins := by
  have synchronised : ∀ {b w : Bool} {u : State},
      (match dmaAcknowledge l b u with | none => Except.ok u | some v => dmaPart n w v) = .ok t → t.pins = u.pins := by
    intro b w u hu
    split at hu
    · cases hu; rfl
    · next hv => exact (dmaPart_pins hu).trans (dmaAcknowledge_pins hv)
  unfold dmaStep at h
  split at h
  · cases h; exact dmaContinue_pins ..
  split at h
  · cases h; rfl
  split at h
  · unfold dmaMid at h
    split at h
    · cases h; rfl
    · exact (synchronised h :)
  · unfold dmaBetween at h
    split at h
    · cases h; rfl
    split at h
    · cases h; rfl
    · exact (synchronised h :)

theorem dmaSteps_pins {l : List Addr} {k n : Nat} (h : dmaSteps l k n s = .ok t) : t.pins = s.pins := by
  induction n generalizing s with
  | zero => cases h; rfl
  | succ n ih =>
    unfold dmaSteps at h
    split at h
    · next u hu => exact (ih h).trans (dmaStep_pins hu :)
    · cases h

theorem dmaWithin_pins {l : List Addr} (h : dmaWithin l s = .ok t) : t.pins = s.pins := by
  unfold dmaWithin at h
  split at h
  · cases h; rfl
  · obtain ⟨u, hu, h⟩ := bind_eq_ok.mp h
    cases h
    exact (dmaSteps_pins hu :)

/-! ## Loads -/

theorem load_pins {a : Addr} {w : Word} (h : load a s = .ok (w, t)) : t.pins = s.pins := by
  obtain ⟨u, hu, h⟩ := bind_eq_ok.mp h
  exact (loadFor_pins h).trans (dmaWithin_pins hu)

/-- An instruction's load leaves the routing of addresses (R82). -/
theorem load_region {a : Addr} {w : Word} (h : load a s = .ok (w, t)) (b : Addr) : region t b = region s b := by
  have device : t.device = s.device := (congrArg State.device (load_work h).1 :)
  unfold region
  rw [load_pins h, device]

end Sys2Proof.Machine
end

section
/-! PROOFS. The family of 45_program_control.md: repeats, NOP, IACK, the idle and low-power instructions (O46). -/
namespace Sys2Proof.Machine

variable {a : Addr} {v w : Word} {s s₁ s₂ : State}

/-! ## RPTS (R461) -/

/-- Reading operands leaves ST. -/
theorem Fetched.st {s t : State} (h : Fetched s t) : t.st = s.st := by
  obtain ⟨ar, ⟨part, -⟩, -⟩ := h
  exact (congrArg State.st part :)

theorem exec_rpts {src : Src Reg} (h : srcUns src s = .ok (v, s₁)) : exec (.rpts src) s = .next { s₁ with
    rs := (s.pc + 1).setWidth 32, re := (s.pc + 1).setWidth 32, rc := v, st := s.st ||| 0x100#32, repS := true
    pc := s.pc + 1 } := by
  have fetched : Fetched s s₁ := srcWord_fetched h
  rw [← fetched.st, ← fetched.pc]
  change execRpts src s = _
  simp only [execRpts, h, ok_bind, pure_eq_ok, outcome_ok, nextPc, ← fetched.pc]
  rfl

/-! ## Reads that are discarded (R453, R454) -/

/-- The address update and the read of a memory operand leave the PC. -/
theorem memOperand_pc {m : MemOp} (ha : memAddr m s = .ok (a, s₁)) (h : load a s₁ = .ok (v, s₂)) : s₂.pc = s.pc := by
  obtain ⟨ar, rfl⟩ := memAddr_cases ha
  exact (load_pc h :)

theorem exec_nop_ind {i : Ind (BitVec 8)} (ha : memAddr (.ind i) s = .ok (a, s₁)) (h : load a s₁ = .ok (v, s₂)) :
    exec (.nop (.ind i)) s = .next { s₂ with pc := s.pc + 1 } := by
  change execNop (.ind i) s = _
  simp only [execNop, memSrc_ind ha h, ok_bind, pure_eq_ok, outcome_ok, advance, memOperand_pc ha h]

theorem exec_iack {m : MemOp} (ha : memAddr m s = .ok (a, s₁)) (h : load a s₁ = .ok (v, s₂)) :
    exec (.iack m) s = .next { s₂ with
      pc := s.pc + 1
      iack := if offChip s a || freeBit s 25 then some { start := readStart a s₂, addr := a } else none } := by
  change execIack m s = _
  simp only [execIack, ha, h, advance, memOperand_pc ha h]

/-- A read over a port has begun with the latest access there. -/
theorem readStart_of_cycle {n : PortName} {x : BusCycle} {l : List BusCycle} (hn : portOf (region s a) = some n)
    (hx : portCycles s n = x :: l) : readStart a s = x.start := by
  unfold readStart
  rw [hn]
  dsimp only
  rw [hx]
  rfl

/-- The read of a memory operand leaves the routing of addresses. -/
theorem memOperand_region {m : MemOp} (ha : memAddr m s = .ok (a, s₁)) (h : load a s₁ = .ok (v, s₂)) (b : Addr) :
    region s₂ b = region s b := by
  obtain ⟨ar, rfl⟩ := memAddr_cases ha
  exact load_region h b

/-- IACK of an operand that is read; off-chip its pulse comes with the read (R453). -/
theorem exec_iack_pulse {m : MemOp} (ha : memAddr m s = .ok (a, s₁)) (h : load a s₁ = .ok (v, s₂)) :
    ∃ p, exec (.iack m) s = .next { s₂ with pc := s.pc + 1, iack := p } ∧
      (offChip s a = true → ∀ n c l, portOf (region s a) = some n → portCycles s₂ n = c :: l →
        p = some { start := c.start, addr := a }) := by
  refine ⟨_, exec_iack ha h, fun hx n c l hn hc => ?_⟩
  rw [← memOperand_region ha h a] at hn
  rw [hx, Bool.true_or, if_pos rfl, readStart_of_cycle hn hc]

/-- Settles O46: each instruction by its equation; the low-power ones on the LC31. -/
theorem repeatAndIdleResults : Obligations.RepeatAndIdleResults := by
  intro a src m i v s s₁ s₂
  exact ⟨rfl, exec_rpts, rfl, exec_nop_ind, exec_iack_pulse, rfl, fun h => ⟨if_pos h, if_pos h, if_pos h⟩⟩

end Sys2Proof.Machine
end

section
/-! PROOFS. The family of 45_program_control.md: what is refused or runs in delay slots and repeats (O54). -/
namespace Sys2Proof.Machine

/-! ## The instructions of R447 and R645 -/

theorem flowOf_delayed_iff (i : Instr) :
    flowOf i = .delayed ↔ ∃ a c t n, i ∈ [Instr.brd a, .bCondD c t, .dbCondD n c t] := by
  constructor
  · intro h
    cases i with
    | brd a => exact ⟨a, .u, .rel 0, 0, by simp⟩
    | bCondD c t => exact ⟨0, c, t, 0, by simp⟩
    | dbCondD n c t => exact ⟨0, c, t, n, by simp⟩
    | _ => cases h
  · rintro ⟨a, c, t, n, h⟩
    simp only [List.mem_cons, List.not_mem_nil, or_false] at h
    rcases h with rfl | rfl | rfl <;> rfl

theorem transfers_iff (i : Instr) : transfers (flowOf i) = true ↔
    (∃ a c t n, i ∈ [Instr.brd a, .bCondD c t, .dbCondD n c t]) ∨
      ∃ a c t n k src, i ∈ [Instr.br a, .bCond c t, .dbCond n c t, .call a, .callCond c t, .trapCond c k, .retiCond c,
        .retsCond c, .idle, .idle2, .rptb a, .rpts src] := by
  rw [← flowOf_delayed_iff]
  constructor
  · intro h
    cases i with
    | brd | bCondD | dbCondD => exact .inl rfl
    | br a | call a | rptb a => exact .inr ⟨a, .u, .rel 0, 0, 0, .imm 0, by simp⟩
    | bCond c t | callCond c t => exact .inr ⟨0, c, t, 0, 0, .imm 0, by simp⟩
    | dbCond n c t => exact .inr ⟨0, c, t, n, 0, .imm 0, by simp⟩
    | trapCond c k => exact .inr ⟨0, c, .rel 0, 0, k, .imm 0, by simp⟩
    | retiCond c | retsCond c => exact .inr ⟨0, c, .rel 0, 0, 0, .imm 0, by simp⟩
    | idle | idle2 => exact .inr ⟨0, .u, .rel 0, 0, 0, .imm 0, by simp⟩
    | rpts src => exact .inr ⟨0, .u, .rel 0, 0, 0, src, by simp⟩
    | _ => cases h
  · rintro (h | ⟨a, c, t, n, k, src, h⟩)
    · rw [h]; rfl
    · simp only [List.mem_cons, List.not_mem_nil, or_false] at h
      rcases h with rfl | rfl | rfl | rfl | rfl | rfl | rfl | rfl | rfl | rfl | rfl | rfl <;> rfl

/-! ## Hazards, case by case -/

variable {i : Instr} {s : State}

/-- A direct load of RS, RE or RC may not have taken hold yet where a block's end could be (R833). -/
def unflushed (s : State) : Prop := s.loopLoad ≠ 0 ∧ (s.pc = reAddr s ∨ s.pc ∈ s.loopOldRes)

theorem hazard_delaySlot (hd : s.delay ≠ none) (ht : transfers (flowOf i) = true) :
    hazard i s = some .branchInDelaySlot := if_pos (by simp [Option.isSome_iff_ne_none, hd, ht])

section
variable (slot : s.delay = none ∨ transfers (flowOf i) = false)
include slot

/-- No transfer of control stands in a delay slot, so only repeats count. -/
theorem slot_free : ¬(s.delay.isSome && transfers (flowOf i)) = true := by
  rcases slot with h | h <;> simp [h]

theorem hazard_repeatOff (hr : s.st.getLsbD 8 = false) : hazard i s = none := by
  rw [hazard, if_neg (slot_free slot), hr]; rfl

theorem hazard_repeatSingle (hr : s.st.getLsbD 8 = true) (hs : s.repS = true) :
    hazard i s = if transfers (flowOf i) then some .branchAtRepeatEnd else none := by
  rw [hazard, if_neg (slot_free slot), if_pos hr, if_pos hs]

section
variable (hr : s.st.getLsbD 8 = true) (hs : s.repS = false)
include hr hs

theorem hazard_unflushed (hw : unflushed s) : hazard i s = some .repeatRegistersUnflushed := by
  rw [hazard, if_neg (slot_free slot), if_pos hr, hs, if_neg (by decide)]
  exact if_pos hw

variable (hw : ¬unflushed s)
include hw

theorem hazard_block : hazard i s =
    if s.pc = reAddr s ∧ transfers (flowOf i) = true then some .branchAtRepeatEnd
    else if flowOf i = .delayed ∧ (reAddr s - s.pc).toNat ≤ 3 then some .branchAtRepeatEnd
    else none := by
  rw [hazard, if_neg (slot_free slot), if_pos hr, hs, if_neg (by decide)]
  exact if_neg hw

theorem hazard_blockEnd (he : s.pc = reAddr s) (ht : transfers (flowOf i) = true) :
    hazard i s = some .branchAtRepeatEnd := by
  rw [hazard_block slot hr hs hw, if_pos ⟨he, ht⟩]

theorem hazard_delayedNearEnd (hf : flowOf i = .delayed) (he : (reAddr s - s.pc).toNat ≤ 3) :
    hazard i s = some .branchAtRepeatEnd := by
  rw [hazard_block slot hr hs hw, if_pos (c := flowOf i = .delayed ∧ _) ⟨hf, he⟩, ite_self]

theorem hazard_block_none (ht : s.pc = reAddr s → transfers (flowOf i) = false)
    (hf : (reAddr s - s.pc).toNat ≤ 3 → flowOf i ≠ .delayed) : hazard i s = none := by
  rw [hazard_block slot hr hs hw, if_neg fun ⟨he, h⟩ => by simp [ht he] at h, if_neg fun ⟨h, he⟩ => hf he h]

end

end

theorem runInstr_of_hazard {w : Word} {r : Refusal} (h : hazard i s = some r) : runInstr i w s = .refused r := by
  rw [runInstr, h]

theorem runInstr_of_none {w : Word} (h : hazard i s = none) : runInstr i w s = retired (flowOf i) w s (exec i s) := by
  rw [runInstr, h]

/-! ## The distance to the end of a block, and the window of a load -/

theorem reAddr_eq (s : State) : reAddr s = s.re.setWidth 24 := extractLsb'_24 s.re

/-- The end of the block is reached where no word lies before it. -/
theorem toEnd_eq_zero_iff : (reAddr s - s.pc).toNat = 0 ↔ s.pc = reAddr s := by
  have zero : (reAddr s - s.pc).toNat = 0 ↔ reAddr s - s.pc = 0 := BitVec.toNat_inj (y := 0#24)
  rw [zero, sub_eq_zero, eq_comm]

/-- A load of RS, RE or RC opens the window, with the RE it finds and those of a window still open (R833). -/
theorem writeReg_opensWindow {q : Reg} {v : Word} {u : State} (hq : q = .rs ∨ q = .re ∨ q = .rc)
    (h : writeReg q v s = .ok u) : u.loopLoad = 4 ∧ reAddr s ∈ u.loopOldRes ∧
      (s.loopLoad ≠ 0 → ∀ b ∈ s.loopOldRes, b ∈ u.loopOldRes) := by
  have opened : u.loopLoad = 4 ∧ u.loopOldRes = reAddr s :: (if s.loopLoad = 0 then [] else s.loopOldRes) := by
    rcases hq with rfl | rfl | rfl <;> cases h <;> exact ⟨rfl, rfl⟩
  obtain ⟨load, ends⟩ := opened
  rw [ends]
  refine ⟨load, List.mem_cons_self, fun hl b hb => List.mem_cons_of_mem _ ?_⟩
  rwa [if_neg hl]

/-- Settles O54: the cases of `hazard`, in the words of R447, R645 and R833. -/
theorem hazardsRefused : Obligations.HazardsRefused := by
  intro w s i
  dsimp only
  rw [← transfers_iff i, ← flowOf_delayed_iff i]
  simp only [← reAddr_eq, toEnd_eq_zero_iff, Bool.and_eq_true, Bool.not_eq_true', Bool.not_eq_true]
  refine ⟨fun hd ht => runInstr_of_hazard (hazard_delaySlot hd ht), fun hd h ht => ?singleOrEnd,
    fun hd ⟨hr, hs⟩ hw he hf => ?nearEnd, fun slot ⟨⟨hr, hs⟩, hw⟩ => runInstr_of_hazard (hazard_unflushed slot hr hs hw),
    fun slot hw hend hnear => runInstr_of_none ?runs, fun q v u => writeReg_opensWindow⟩
  case singleOrEnd =>
    rcases h with ⟨hr, hs⟩ | ⟨⟨hr, hs⟩, hw, he⟩
    · exact runInstr_of_hazard ((hazard_repeatSingle (.inl hd) hr hs).trans (if_pos ht))
    · exact runInstr_of_hazard (hazard_blockEnd (.inl hd) hr hs (fun h => hw ⟨⟨hr, hs⟩, h⟩) he ht)
  case nearEnd =>
    exact runInstr_of_hazard (hazard_delayedNearEnd (.inl hd) hr hs (fun h => hw ⟨⟨hr, hs⟩, h⟩) hf he)
  case runs =>
    cases hr : s.st.getLsbD 8 with
    | false => exact hazard_repeatOff slot hr
    | true =>
      cases hs : s.repS with
      | true => rw [hazard_repeatSingle slot hr hs, hend hr (.inl hs)]; rfl
      | false =>
        exact hazard_block_none slot hr hs (fun h => hw ⟨⟨hr, hs⟩, h⟩) (fun he => hend hr (.inr he)) (hnear ⟨hr, hs⟩)

end Sys2Proof.Machine
end

section
/-! PROOFS. The family of 45_program_control.md: the idle CPU (O56), and what stops under a name (O47). -/
namespace Sys2Proof.Machine

variable {s t : State}

/-! ## The idle CPU (R602) -/

/-- A step without reset is the CPU's part of it, once the cycles of the step before have passed. -/
theorem step_eq_cpu (hp : s.pins.reset = true) (hl : s.resetLow = 0) (h : passTime s = .ok t)
    (hp' : t.pins.reset = true) (hl' : t.resetLow = 0) (hb : t.booting = false) : step s = cpu t := by
  simp [step, machineStep, hp, hl, h, hp', hl', hb]

/-- A cycle passes and nothing runs while no enabled flag is set, or while the clocks stand still. -/
theorem cpu_idles (hi : t.idle ≠ .running) (h : t.intWindow = none ∧ pendingInts t = 0#11 ∨ t.idle = .stopped) :
    cpu t = .next (idleCycle t) := by
  rw [cpu, if_pos hi, idling]
  rcases h with ⟨hw, hn⟩ | h
  · rw [hw, hn, if_neg (not_not_intro rfl), ite_self]
  · rw [h, if_pos (by decide)]

/-- Settles O56: such a step only lets a cycle pass, and what the machine holds stays. -/
theorem idleWaits : Obligations.IdleWaits := by
  intro s t hp hl h hp' hl' hb hi hn
  refine ⟨idleCycle t, (step_eq_cpu hp hl h hp' hl' hb).trans (cpu_idles hi hn), rfl, rfl, rfl, fun q _ => ?_⟩
  cases q <;> rfl

/-! ## Interlocked operations without their pins (R500, U13) -/

theorem xfConfigured_eq_false (h : s.iof.getLsbD 1 = false ∨ s.iof.getLsbD 5 = true) : xfConfigured s = false := by
  rcases h with h | h
  · rw [xfConfigured, h, Bool.false_and]
  · rw [xfConfigured, h, Bool.not_true, Bool.and_false]

section
variable {m : MemOp} {a : Addr} (hx : xfConfigured s = false) (ha : memAddr m s = .ok (a, t))
  (hi : interlocked s a = true)
include hx ha hi

/-- A load refuses also where it already waits. -/
theorem interlockedLoad_refused {fin : Word → State → Except Stop State} :
    interlockedLoad m fin s = .error (.refuse .interlockPins) := by
  have route : (lockRegion s a).interlocked = true := by
    unfold lockRegion
    split
    · rfl
    · exact hi
  refine bind_ok_error ha ?_
  dsimp only
  rw [if_pos route, hx]
  rfl

theorem interlockedStore_refused {word : State → Word} :
    interlockedStore m word s = .error (.refuse .interlockPins) := by
  obtain ⟨ar, rfl⟩ := memAddr_cases ha
  refine bind_ok_error ha ?_
  dsimp only
  rw [if_pos (show interlocked { s with ar := ar } a = true from hi), hx]
  rfl

end

/-- Settles O47: SWI by its arm, the low-power instructions by the device, the interlocked ones by IOF. -/
theorem refusedInstructions : Obligations.RefusedInstructions := by
  intro s
  refine ⟨rfl, fun hd => ⟨if_neg hd, if_neg hd, if_neg hd⟩, fun h => ?_⟩
  have pins := xfConfigured_eq_false h
  refine ⟨if_pos (by rw [pins]; rfl), fun m f r a s₁ ha hi => ⟨?ldfi, ?ldii, ?stfi, ?stii⟩⟩
  case ldfi | ldii => exact congrArg (outcome s) (interlockedLoad_refused pins ha hi)
  case stfi | stii => exact congrArg (outcome s) (interlockedStore_refused pins ha hi)

end Sys2Proof.Machine
end

section
/-! PROOFS. The family of 46_interlock.md: the interlocked instructions, with XF0 in its cycle (O42). -/
namespace Sys2Proof.Machine

variable {m : MemOp} {f : FReg} {r : Reg} {a : Addr} {w : Word} {s s₁ s₂ t u v : State} {p : PortName}

/-! ## Addresses, pins, and a register that refuses its word -/

/-- The address of a memory operand changes at most the auxiliary register its mode updates. -/
theorem memAddr_keepsRegs (hm : memAddr m s = .ok (a, s₁)) : KeepsRegs m.updated s s₁ := by
  have kept : Kept m.updated 0#32 s s₁ := memAddr_kept hm
  obtain ⟨ar, rfl⟩ := memAddr_cases hm
  intro q hq
  cases q with
  | st | ifr => rfl
  | _ => exact kept.regs _ (by simpa using hq)

/-- IOF configures XF0 as an output and XF1 as an input (R500). -/
theorem xfConfigured_eq_true (out : s.iof.getLsbD 1 = true) (inp : s.iof.getLsbD 5 = false) : xfConfigured s = true := by
  rw [xfConfigured, out, inp]
  rfl

/-- Outside reset, XF0 has the level that an interlocked instruction still keeps on it. -/
theorem xf0Pin_of_next {b : Bool} {l : List Bool} (hp : s.pins.reset = true) (hx : s.xf0Next = b :: l) :
    xf0Pin s = driven b := by simp [xf0Pin, inReset, hp, hx]

/-- A register that does not take a word refuses it (R50, U7). -/
theorem writeReg_error {q : Reg} {e : Stop} (h : writeReg q w s = .error e) : e = .refuse .serialPort1Enable := by
  cases q with
  | ie =>
    change writeIe w s = .error e at h
    unfold writeIe at h
    split at h
    · exact (Except.error.inj h).symm
    · cases h
  | _ => cases h

/-! ## The three ways of an interlocked load -/

section
variable {fin : Word → State → Except Stop State} (hm : memAddr m s = .ok (a, s₁))
include hm

/-- In on-chip memory it is a load as any other (R506). -/
theorem interlockedLoad_of_load (hr : (lockRegion s a).interlocked = false) (h : load a s₁ = .ok (w, s₂)) :
    interlockedLoad m fin s = (fin w s₂).map advance := by
  simp only [interlockedLoad, hm, hr, h, ok_bind]
  cases fin w s₂ <;> rfl

variable (hr : (lockRegion s a).interlocked = true) (hx : xfConfigured s = true)
include hr hx

/-- Elsewhere it completes with a word once its read is over. -/
theorem interlockedLoad_of_word (h : lockedLoad a s = .ok (some w, t)) :
    interlockedLoad m fin s = (fin w { t with ar := s₁.ar }).map advance := by
  simp only [interlockedLoad, hm, hr, hx, h, ok_bind, if_pos, Bool.not_true, Bool.false_eq_true, if_false]

/-- While its read is not over it waits. -/
theorem interlockedLoad_of_wait (h : lockedLoad a s = .ok (none, t)) : interlockedLoad m fin s = .ok t := by
  simp only [interlockedLoad, hm, hr, hx, h, ok_bind, if_pos, Bool.not_true, Bool.false_eq_true, if_false, pure_eq_ok]

end

/-- A region that a port serves is not on-chip memory. -/
theorem interlocked_of_portOf {g : Region} (h : portOf g = some p) : g.interlocked = true := by
  cases g with
  | primary | mstrb | iostrb => rfl
  | rom | peripheral | ram | reserved => cases h

theorem lockedLoad_of_port (h : portOf (lockRegion s a) = some p) : lockedLoad a s = lockedRead p a s := by
  unfold lockedLoad
  rw [h]

theorem lockedLoad_of_peripheral (h : lockRegion s a = .peripheral) : lockedLoad a s = lockedPeripheral a s := by
  unfold lockedLoad
  rw [h]
  rfl

/-- LDFI and LDII complete with a word from the state in which it has been read (R501, R502). -/
theorem interlockedLoad_gives (h : ∀ fin, interlockedLoad m fin s = (fin w u).map advance) (pc : u.pc = s.pc) :
    GivesFlt (.ldfi m f) s u f (loadIs (w ++ 0#8)) ∧ GivesInt (.ldii m r) s u r (logicIs w) :=
  ⟨givesFlt_of_deliver (e := ldfEffect (fload w)) (congrArg (outcome s) (h _)) pc rfl (flagsAre_load _),
    givesInt_of_deliver (e := logicEffect w) (congrArg (outcome s) (h _)) pc rfl (flagsAre_logic w)⟩

/-- LDII leaves on XF0 what its read left there, whatever its destination, IOF among them (R502). -/
theorem ldii_pins (h : ∀ fin, interlockedLoad m fin s = (fin w u).map advance) (ht : exec (.ldii m r) s = .next t) :
    t.xf0Next = u.xf0Next ∧ t.pins = u.pins := by
  change outcome s (interlockedLoad m _ s) = .next t at ht
  rw [h] at ht
  cases hw : writeReg r w u with
  | error e =>
    obtain rfl := writeReg_error hw
    simp only [deliver, logicEffect, hw, error_bind] at ht
    cases ht
  | ok v =>
    rw [deliver_eq (e := logicEffect w) hw] at ht
    cases ht
    obtain ⟨_, _, _, _, _, _, _, _, _, _, _, _, _, _, _, _, _, _, _, _, rfl⟩ := writeReg_changes hw
    split <;> exact ⟨rfl, rfl⟩

/-! ## What a step of an interlocked load marks -/

/-- XF0 and the account of the wait as a step of an interlocked load leaves them. -/
def lockMarked (iof : Word) (xf0 : List Bool) (n : Nat) (seen : Bool) (o : Option Wait) (s : State) : State :=
  { s with iof := iof, xf0Next := xf0, lockWait := n, lockReady := seen, stalled := o }

section
variable {iof : Word} {xf0 : List Bool} {n : Nat} {seen : Bool} {o : Option Wait}

/-- Of the registers the marks are in IOF alone. -/
theorem lockMarked_keepsRegs (h : loadPart t = loadPart (lockMarked iof xf0 n seen o s)) : KeepsRegs [.iof] s t := by
  intro q hq
  have marked : held q (lockMarked iof xf0 n seen o s) = held q s := by
    cases q with
    | iof => exact absurd (List.mem_singleton.mpr rfl) hq
    | _ => rfl
  exact (keepsRegs_of_load h q nofun).trans marked

/-- LDFI and LDII wait, with the marks given (R501). -/
def LoadWaits (m : MemOp) (f : FReg) (r : Reg) (s : State) (iof : Word) (n : Nat) (seen : Bool) (o : Option Wait)
    (xf0 : List Bool) : Prop :=
  ∃ t, exec (.ldfi m f) s = .next t ∧ exec (.ldii m r) s = .next t ∧ t.iof = iof ∧ t.lockWait = n ∧ t.lockReady = seen ∧
    t.stalled = o ∧ t.xf0Next = xf0 ∧ t.pc = s.pc ∧ t.mem = s.mem ∧ KeepsRegs [.iof] s t

theorem loadWaits_of_marked (h : ∀ fin, interlockedLoad m fin s = .ok t)
    (part : loadPart t = loadPart (lockMarked iof xf0 n seen o s)) : LoadWaits m f r s iof n seen o xf0 :=
  ⟨t, congrArg (outcome s) (h _), congrArg (outcome s) (h _), (congrArg State.iof part :), (congrArg State.lockWait part :),
    (congrArg State.lockReady part :), (congrArg State.stalled part :), (congrArg State.xf0Next part :),
    (congrArg State.pc part :), (congrArg State.mem part :), lockMarked_keepsRegs part⟩

end

/-! ## A cycle of an interlocked read (R501, R506, R668) -/

/-- The bus is ready in a cycle of an interlocked read, `age` cycles after it began, of a device that takes `late` (R668). -/
def busReady (s : State) (p : PortName) (age late : Nat) : Bool :=
  readyBy ((portCtl s p).extractLsb' 3 2).toNat (!p.pin (pinsIn s s.elapsed) && decide (late ≤ age))
    (decide (((portCtl s p).extractLsb' 5 3).toNat ≤ age))

/-- The read is over with this cycle: the bus ready and XF1 low, or an interrupt any time after the bus was ready. -/
def readEnds (s : State) (p : PortName) (age late : Nat) (seen : Bool) : Bool :=
  busReady s p age late && !(pinsIn s s.elapsed).xf1 || s.abandon && (busReady s p age late || seen)

/-- An interlocked read with its first cycle begun, after `lead` extra ones. -/
def lockOpened (p : PortName) (a : Addr) (lead : Nat) (s : State) : State :=
  { beginRead p (readCycle s a lead (s.elapsed + lead) none) s with lockReady := false }

theorem lockOpened_part (p : PortName) (a : Addr) (lead : Nat) (s : State) :
    loadPart (lockOpened p a lead s) = loadPart { s with lockReady := false } := by cases p <;> rfl

theorem lockOpened_elapsed (p : PortName) (a : Addr) (lead : Nat) (s : State) :
    (lockOpened p a lead s).elapsed = s.elapsed := by cases p <;> rfl

theorem openRead_lockOpened (p : PortName) (a : Addr) (s : State) :
    openRead p a (lockOpened p a 0 s) = readCycle s a 0 s.elapsed none := by cases p <;> rfl

theorem loadPart_closeRead (p : PortName) (n : Nat) (s : State) : loadPart (closeRead p n s) = loadPart s := by
  cases p <;> rfl

section
variable {age : Nat} {seen : Bool} {c : BusCycle}
  (part : loadPart v = loadPart { s with lockReady := seen }) (time : v.elapsed = s.elapsed) (opened : openRead p a v = c)
include part time opened

/-- The cycle as its outcome is decided, from a state in which the read is open. -/
theorem lockedCycle_eq : lockedCycle p a age v =
    if readEnds s p age c.waits seen = true then
      (some c.word, { closeRead p (s.elapsed + ioCycle (region s a) + 1) (latchXf0 false v) with
        elapsed := s.elapsed + ioCycle (region s a), lockWait := 0, lockReady := false
        xf0Next := xf0Ending (ioCycle (region s a) + 1) s })
    else
      (none, { setXf0 false v with
        lockWait := age + 2, lockReady := busReady s p age c.waits || seen
        stalled := if (busReady s p age c.waits || seen) = true then none else some p.wait }) := by
  have ctl : portCtl v p = portCtl s p := (congrArg (fun x => portCtl x p) part :)
  have pins : pinsAfter s.elapsed v.pins v.env.pinSchedule = pinsAfter s.elapsed s.pins s.env.pinSchedule :=
    (congrArg (fun x => pinsAfter s.elapsed x.pins x.env.pinSchedule) part :)
  have route : region v a = region s a := (congrArg (fun x => region x a) part :)
  have iof : v.iof = s.iof := (congrArg State.iof part :)
  have abandon : v.abandon = s.abandon := (congrArg State.abandon part :)
  have ready : v.lockReady = seen := (congrArg State.lockReady part :)
  simp only [lockedCycle, opened, xf1High, xf0Ending, xf0Before, time, ctl, pins, route, iof, abandon, ready, readEnds, busReady,
    readyAt_eq, pinsIn]
  rfl

/-- The read ends: the word, XF0 low until the read is over, and the extra cycle of IOSTRB (R682). -/
theorem lockedCycle_ends (ends : readEnds s p age c.waits seen = true) : ∃ t, lockedCycle p a age v = (some c.word, t) ∧
    t.elapsed = s.elapsed + ioCycle (region s a) ∧
    loadPart t = loadPart (lockMarked (setBit s.iof 2 false) (xf0Ending (ioCycle (region s a) + 1) s) 0 false s.stalled s) := by
  refine ⟨_, (lockedCycle_eq part time opened).trans (if_pos ends), rfl, ?_⟩
  have closed := (loadPart_closeRead p (s.elapsed + ioCycle (region s a) + 1) (latchXf0 false v)).trans
    (congrArg (fun x => { x with iof := setBit x.iof 2 false }) part :)
  exact (congrArg (fun x => { x with
    xf0Next := xf0Ending (ioCycle (region s a) + 1) s, lockWait := 0, lockReady := false }) closed :)

/-- The read goes on in the next step, with XF0 low. -/
theorem lockedCycle_waits (ends : readEnds s p age c.waits seen = false) : ∃ t, lockedCycle p a age v = (none, t) ∧
    loadPart t = loadPart (lockMarked (setBit s.iof 2 false) (xf0Before s.elapsed s) (age + 2)
      (busReady s p age c.waits || seen) (if (busReady s p age c.waits || seen) = true then none else some p.wait) s) := by
  refine ⟨_, (lockedCycle_eq part time opened).trans (if_neg (by rw [ends]; decide)), ?_⟩
  have levels : xf0Before v.elapsed v = xf0Before s.elapsed s := by
    rw [xf0Before, xf0Before, time, show v.iof = s.iof from (congrArg State.iof part :)]
  have marked := fun x ready o => (congrArg (fun t : State => { t with
    iof := setBit t.iof 2 false, xf0Next := x, lockWait := age + 2, lockReady := ready, stalled := o }) part :)
  rw [← levels]
  exact marked _ _ _

end

/-! ## A read over a port, from its beginning (R501, R676, R681) -/

/-- A read that has begun goes on. -/
theorem lockedRead_goesOn (hl : s.lockWait ≠ 0) : lockedRead p a s = .ok (lockedCycle p a (s.lockWait - 1) s) := if_pos hl

section
variable (hl : s.lockWait = 0) (start : portStart s p = .ok s.elapsed)
include hl start

/-- A read whose port is free begins at once where no extra cycle comes first. -/
theorem lockedRead_begins (lead : readLead s p a s.elapsed = 0) :
    lockedRead p a s = .ok (lockedCycle p a 0 (lockOpened p a 0 s)) := by
  rw [lockedRead, if_neg (not_not_intro hl), start, ok_bind, if_neg (not_not_intro rfl)]
  simp only [lead, if_true, pure_eq_ok, lockOpened]

/-- The extra cycle after another bank or a write passes first. -/
theorem lockedRead_leads (lead : readLead s p a s.elapsed ≠ 0) : lockedRead p a s =
    .ok (none, { lockOpened p a (readLead s p a s.elapsed) s with lockWait := 1, stalled := some p.wait }) := by
  rw [lockedRead, if_neg (not_not_intro hl), start, ok_bind, if_neg (not_not_intro rfl)]
  simp only [lead, if_false, pure_eq_ok, lockOpened]

end

/-- LDFI and LDII complete with a word from a state in which XF0 is low, and which keeps it low to the end of the read, on IOSTRB
a cycle longer (R501, R502, R682). -/
def LoadEnds (m : MemOp) (f : FReg) (r : Reg) (a : Addr) (s s₁ : State) (word : Word) : Prop :=
  ∃ u, u.ar = s₁.ar ∧ u.iof = setBit s.iof 2 false ∧ u.lockWait = 0 ∧ u.mem = s.mem ∧
    u.xf0Next = xf0Ending (ioCycle (region s a) + 1) s ∧ u.elapsed = s.elapsed + ioCycle (region s a) ∧
    KeepsRegs (.iof :: m.updated) s u ∧
    (GivesFlt (.ldfi m f) s u f (loadIs (word ++ 0#8)) ∧ GivesInt (.ldii m r) s u r (logicIs word)) ∧
    ∀ t, s.elapsed = 0 → s.pins.reset = true → exec (.ldii m r) s = .next t →
      xf0Pin t = .low ∧ (region s a = .iostrb → xf0Pin (endCycle t) = .low)

/-- XF0 in the cycles after an LDII that took no others: low, also where IOF is the destination. -/
theorem ldii_xf0Low {n : Nat} (h : ∀ fin, interlockedLoad m fin s = (fin w u).map advance)
    (next : u.xf0Next = xf0Ending (n + 1) s) (pins : u.pins = s.pins) (now : s.elapsed = 0) (high : s.pins.reset = true)
    (ht : exec (.ldii m r) s = .next t) : xf0Pin t = .low ∧ (n = 1 → xf0Pin (endCycle t) = .low) := by
  obtain ⟨levels, same⟩ := ldii_pins h ht
  have reset : t.pins.reset = true := by rw [same, pins, high]
  have low : t.xf0Next = List.replicate (n + 1) false := by rw [levels, next, xf0Ending, xf0Before, now]; rfl
  refine ⟨xf0Pin_of_next reset low, ?_⟩
  rintro rfl
  exact xf0Pin_of_next (s := endCycle t) (b := false) (l := []) reset (congrArg (List.drop 1) low)

theorem loadEnds_of_marked (hm : memAddr m s = .ok (a, s₁))
    (h : ∀ fin, interlockedLoad m fin s = (fin w { t with ar := s₁.ar }).map advance)
    (time : t.elapsed = s.elapsed + ioCycle (region s a)) {o : Option Wait} {seen : Bool}
    (part : loadPart t =
      loadPart (lockMarked (setBit s.iof 2 false) (xf0Ending (ioCycle (region s a) + 1) s) 0 seen o s)) :
    LoadEnds m f r a s s₁ w := by
  have updated := memAddr_keepsRegs hm
  obtain ⟨ar, rfl⟩ := memAddr_cases hm
  have addressed := (congrArg (fun x : State => { x with ar := ar }) part :)
  have marked : KeepsRegs [.iof] { s with ar := ar } { t with ar := ar } := lockMarked_keepsRegs addressed
  refine ⟨{ t with ar := ar }, rfl, (congrArg State.iof part :), (congrArg State.lockWait part :), (congrArg State.mem part :),
    (congrArg State.xf0Next part :), time, fun q hq => ?regs, interlockedLoad_gives h (congrArg State.pc part :),
    fun v now high hv => ?pin⟩
  case regs =>
    obtain ⟨notIof, notUpdated⟩ := not_or.mp (mt List.mem_cons.mpr hq)
    exact (marked q (by simpa using notIof)).trans (updated q notUpdated)
  case pin =>
    obtain ⟨first, second⟩ := ldii_xf0Low h (congrArg State.xf0Next part :) (congrArg State.pins part :) now high hv
    exact ⟨first, fun io => second (by rw [io]; rfl)⟩

/-- What a cycle of an interlocked read comes to, for LDFI and for LDII. -/
def LoadCycle (m : MemOp) (f : FReg) (r : Reg) (a : Addr) (s s₁ : State) (p : PortName) (age : Nat) (word : Word) (late : Nat)
    (seen : Bool) : Prop :=
  (readEnds s p age late seen = true → LoadEnds m f r a s s₁ word) ∧
  (readEnds s p age late seen = false → LoadWaits m f r s (setBit s.iof 2 false) (age + 2) (busReady s p age late || seen)
    (if (busReady s p age late || seen) = true then none else some p.wait) (xf0Before s.elapsed s))

section
variable (hm : memAddr m s = .ok (a, s₁)) (hx : xfConfigured s = true) (hp : portOf (lockRegion s a) = some p)
include hm hx hp

theorem loadCycle_of_lockedCycle {age : Nat} {seen : Bool} {c : BusCycle}
    (part : loadPart v = loadPart { s with lockReady := seen }) (time : v.elapsed = s.elapsed) (opened : openRead p a v = c)
    (h : lockedRead p a s = .ok (lockedCycle p a age v)) : LoadCycle m f r a s s₁ p age c.word c.waits seen := by
  have route := interlocked_of_portOf hp
  rw [← lockedLoad_of_port hp] at h
  constructor
  · intro ends
    obtain ⟨t, ht, last, marked⟩ := lockedCycle_ends part time opened ends
    exact loadEnds_of_marked hm (fun _ => interlockedLoad_of_word hm route hx (ht ▸ h)) last marked
  · intro ends
    obtain ⟨t, ht, marked⟩ := lockedCycle_waits part time opened ends
    exact loadWaits_of_marked (fun _ => interlockedLoad_of_wait hm route hx (ht ▸ h)) marked

/-- The first cycle of a read. -/
theorem loadCycle_begins (hl : s.lockWait = 0) (start : portStart s p = .ok s.elapsed) (lead : readLead s p a s.elapsed = 0) :
    LoadCycle m f r a s s₁ p 0 ((nextRead s).word.getD (memWord s.mem a)) (nextRead s).waits false :=
  loadCycle_of_lockedCycle hm hx hp (lockOpened_part p a 0 s) (lockOpened_elapsed p a 0 s) (openRead_lockOpened p a s)
    (lockedRead_begins hl start lead)

/-- A later cycle of the read that the port holds. -/
theorem loadCycle_goesOn {c : BusCycle} {l : List BusCycle} (hl : s.lockWait ≠ 0) (hc : portCycles s p = c :: l) :
    LoadCycle m f r a s s₁ p (s.lockWait - 1) c.word c.waits s.lockReady :=
  loadCycle_of_lockedCycle hm hx hp rfl rfl (by rw [openRead, hc]; rfl) (lockedRead_goesOn hl)

/-- The extra cycle before a read leaves XF0 as it is. -/
theorem loadWaits_leads (hl : s.lockWait = 0) (start : portStart s p = .ok s.elapsed) (lead : readLead s p a s.elapsed ≠ 0) :
    LoadWaits m f r s s.iof 1 false (some p.wait) s.xf0Next := by
  have h := (lockedLoad_of_port hp).trans (lockedRead_leads hl start lead)
  refine loadWaits_of_marked (fun _ => interlockedLoad_of_wait hm (interlocked_of_portOf hp) hx h) ?_
  exact (congrArg (fun x : State => { x with lockWait := 1, stalled := some p.wait })
    (lockOpened_part p a (readLead s p a s.elapsed) s) :)

end

/-! ## A read from the peripheral bus (R501, R506, R784) -/

theorem xf1Done_eq_true (h : xf1High s = false ∨ s.abandon = true) : xf1Done s = true := by
  rcases h with low | ended
  · rw [xf1Done, low, Bool.not_false, Bool.true_or]
  · rw [xf1Done, ended, Bool.or_true]

theorem xf1Done_eq_false (high : xf1High s = true) (goes : s.abandon = false) : xf1Done s = false := by
  rw [xf1Done, high, goes]
  rfl

section
variable (hm : memAddr m s = .ok (a, s₁)) (hx : xfConfigured s = true) (hr : lockRegion s a = .peripheral)
  (start : portStart s .expansion = .ok s.elapsed)
include hm hx hr start

theorem peripheral_gives (ended : xf1Done s = true) (h : loadFor .data a (latchXf0 false s) = .ok (w, s₂)) :
    let u := { s₂ with lockWait := 0, xf0Next := xf0Ending 1 s, ar := s₁.ar }
    GivesFlt (.ldfi m f) s u f (loadIs (w ++ 0#8)) ∧ GivesInt (.ldii m r) s u r (logicIs w) := by
  have read : lockedLoad a s = .ok (some w, { s₂ with lockWait := 0, xf0Next := xf0Ending 1 s }) := by
    simp only [lockedLoad_of_peripheral hr, lockedPeripheral, start, ended, h, ok_bind, pure_eq_ok, ne_eq, not_true_eq_false,
      if_false, if_true]
  refine interlockedLoad_gives (fun _ => interlockedLoad_of_word hm (by rw [hr]; rfl) hx read) ?_
  exact (congrArg State.pc (loadFor_keeps h) :)

theorem peripheral_waits (ended : xf1Done s = false) :
    LoadWaits m f r s (setBit s.iof 2 false) (s.lockWait + 1) s.lockReady s.stalled (xf0Before s.elapsed s) := by
  have read : lockedLoad a s = .ok (none, noteOnChip .data a (waitForXf1 s)) := by
    simp only [lockedLoad_of_peripheral hr, lockedPeripheral, start, ended, ok_bind, pure_eq_ok, ne_eq, not_true_eq_false,
      if_false, Bool.false_eq_true]
  exact loadWaits_of_marked (fun _ => interlockedLoad_of_wait hm (by rw [hr]; rfl) hx read) (loadPart_noteOnChip ..)

end

/-! ## Interlocked stores (R504, R505) -/

section
variable {word : State → Word} (hm : memAddr m s = .ok (a, s₁))
include hm

/-- In on-chip memory it is a store as any other (R506). -/
theorem interlockedStore_onChip (hi : interlocked s a = false) (h : store a (word s₁) s₁ = .ok s₂) :
    interlockedStore m word s = .ok { s₂ with pc := s.pc + 1 } := by
  have pc : s₂.pc = s₁.pc := (congrArg State.pc (store_work h).1 :)
  obtain ⟨ar, rfl⟩ := memAddr_cases hm
  rw [show s.pc = s₂.pc from pc.symm]
  simp only [interlockedStore, hm, ok_bind, show interlocked { s with ar := ar } a = false from hi, h, Bool.false_eq_true, if_false,
    pure_eq_ok, advance]

/-- Elsewhere XF0 goes high with the write, and stays so. -/
theorem interlockedStore_of_store (hi : interlocked s a = true) (hx : xfConfigured s = true)
    (h : store a (word (latchXf0 true s₁)) (latchXf0 true s₁) = .ok s₂) :
    interlockedStore m word s = .ok { s₂ with pc := s.pc + 1, xf0Next := xf0Before s₂.elapsed s } ∧
      s₂.iof.getLsbD 2 = true := by
  have kept := (store_work h).1
  have pc : s₂.pc = s₁.pc := (congrArg State.pc kept :)
  have iof : s₂.iof = setBit s₁.iof 2 true := (congrArg State.iof kept :)
  obtain ⟨ar, rfl⟩ := memAddr_cases hm
  refine ⟨?_, by rw [iof, getLsbD_setBit]; rfl⟩
  rw [show s.pc = s₂.pc from pc.symm]
  simp only [interlockedStore, hm, ok_bind, show interlocked { s with ar := ar } a = true from hi, hx, h, Bool.not_true,
    Bool.false_eq_true, if_false, if_true, pure_eq_ok, advance]

end

/-! ## SIGI (R503) -/

section
variable (hx : xfConfigured s = true)
include hx

/-- With XF1 low it completes with XF0 high, after a pulse where it did not wait. -/
theorem sigi_completes (low : xf1High s = false) : exec .sigi s = .next { s with
    pc := s.pc + 1, iof := setBit s.iof 2 true, lockWait := 0
    xf0Next := xf0Before s.elapsed s ++ if s.lockWait = 0 then [false] else [] } := by
  change execSigi s = _
  rw [execSigi, hx, if_neg (by decide), low, if_pos (by decide)]
  rfl

/-- An interrupt ends the wait with XF0 low. -/
theorem sigi_abandoned (high : xf1High s = true) (ended : s.abandon = true) : exec .sigi s = .next { s with
    pc := s.pc + 1, iof := setBit s.iof 2 false, lockWait := 0, xf0Next := xf0Before s.elapsed s } := by
  change execSigi s = _
  rw [execSigi, hx, if_neg (by decide), high, if_neg (by decide), if_pos ended]
  rfl

/-- With XF1 high it waits with XF0 low, and is done again in the next step. -/
theorem sigi_waits (high : xf1High s = true) (goes : s.abandon = false) : exec .sigi s = .next { s with
    iof := setBit s.iof 2 false, lockWait := s.lockWait + 1, xf0Next := xf0Before s.elapsed s } := by
  change execSigi s = _
  rw [execSigi, hx, if_neg (by decide), high, if_neg (by decide), if_neg (by rw [goes]; decide)]
  rfl

end

/-- On-chip memory by the route of a load, which is not interlocked (R506). -/
theorem lockRegion_not_interlocked (h : lockRegion s a = .ram ∨ lockRegion s a = .rom) :
    (lockRegion s a).interlocked = false := by
  rcases h with h | h <;> rw [h] <;> rfl

/-- Settles O42: loads by the cycles of their read, stores by the store they make, SIGI by its three cases. -/
theorem interlockedResults : Obligations.InterlockedResults := by
  intro m f r a w s s₁ s₂ now before low route done waits cycle
  refine ⟨fun hm => ⟨fun hr h => ?onChip, fun hr h => ?stii, fun hr h => ?stfi, fun out inp => ?loads,
    fun hi out inp => ?stores⟩, fun out inp => ?sigi⟩
  case onChip =>
    exact interlockedLoad_gives (fun _ => interlockedLoad_of_load hm (lockRegion_not_interlocked hr) h) (memOperand_pc hm h)
  case stii =>
    exact congrArg (outcome s) (interlockedStore_onChip hm (by rw [interlocked, hr]; rfl) h)
  case stfi =>
    exact congrArg (outcome s)
      (interlockedStore_onChip (word := fun t => fstore (readExt f t)) hm (by rw [interlocked, hr]; rfl) h)
  case loads =>
    have hx := xfConfigured_eq_true out inp
    exact ⟨fun p hp => ⟨fun hl start => ⟨loadWaits_leads hm hx hp hl start, loadCycle_begins hm hx hp hl start⟩,
        fun c l hl hc => loadCycle_goesOn hm hx hp hl hc⟩,
      fun hr start => ⟨fun ended => peripheral_gives hm hx hr start (xf1Done_eq_true ended),
        fun high goes => peripheral_waits hm hx hr start (xf1Done_eq_false high goes)⟩⟩
  case stores =>
    have hx := xfConfigured_eq_true out inp
    refine ⟨fun h => ?_, fun h => ?_⟩
    · obtain ⟨completes, latch⟩ := interlockedStore_of_store hm hi hx h
      exact ⟨congrArg (outcome s) completes, latch⟩
    · obtain ⟨completes, latch⟩ := interlockedStore_of_store (word := fun t => fstore (readExt f t)) hm hi hx h
      exact ⟨congrArg (outcome s) completes, latch⟩
  case sigi =>
    have hx := xfConfigured_eq_true out inp
    refine ⟨fun low => ⟨_, sigi_completes hx low, rfl, fun hl time high => ?_⟩, sigi_abandoned hx, sigi_waits hx⟩
    refine xf0Pin_of_next high (b := false) (l := []) ?_
    simp [hl, time, xf0Before]

end Sys2Proof.Machine
end

section
/-! PROOFS. The family of 47_parallel.md: what two addresses and the accesses after them leave, and how an operation with a
parallel store completes (O39, O40). -/
namespace Sys2Proof.Machine

/-! ## After two addresses (R520) -/

section
variable {hi lo : Ind Unit} {a1 a2 : Addr} {s s₁ t : State} (ha : indirectPair hi lo s = .ok (a1, a2, s₁))
include ha

/-- Two addresses and the accesses after them leave the PC, R0-R7 and ST. -/
theorem indirectPair_then_work (work : UnitsWork s₁ t) : t.pc = s.pc ∧ t.r = s.r ∧ t.st = s.st := by
  obtain ⟨ar, rfl⟩ := indirectPair_cases ha
  have kept := work.1
  exact ⟨(congrArg State.pc kept :), (congrArg State.r kept :), (congrArg State.st kept :)⟩

theorem indirectPair_fetched : Fetched s s₁ := by
  obtain ⟨ar, rfl⟩ := indirectPair_cases ha
  exact ⟨ar, .refl _, fun _ => rfl⟩

end

/-! ## An operation with a parallel store (R520, R850) -/

section
variable {i : Instr} {dst src3 : FReg} {hi lo : Ind Unit} {a1 a2 : Addr} {m : Word} {s s₁ s₂ s₃ : State}
  (ha : indirectPair hi lo s = .ok (a1, a2, s₁)) (hm : readOperand [] a2 s₁ = .ok (m, s₂))
include ha hm

/-- The read and the store leave the PC. -/
theorem pc_of_withStore {v : Word} (hs : storeLater a1 v s₂ = .ok s₃) : s₃.pc = s.pc :=
  (indirectPair_then_work ha ((readOperand_work hm).trans (storeLater_work hs))).1

/-- The operation's result is delivered after the read and the store. -/
theorem exec_of_withStore {op : Word → State → Word × (State → State)} (hexec : exec i s = outcome s (withStore op hi lo s))
    (hs : storeLater a1 (op m s₂).1 s₂ = .ok s₃) : exec i s = .next (advance ((op m s₂).2 s₃)) := by
  simp only [hexec, withStore, ha, hm, hs, ok_bind, pure_eq_ok, outcome_ok]

section
variable (hs : storeLater a1 (readInt src3 s) s₂ = .ok s₃)
include hs

/-- The word STI stores, as its instruction reads it: R0-R7 are as before the instruction (R521). -/
theorem storeLater_readInt : storeLater a1 (readInt src3 s₂) s₂ = .ok s₃ := by
  rw [readInt_of_r (indirectPair_then_work ha (readOperand_work hm)).2.1, hs]

/-- An integer operation with STI completes as its operation's rule says (R531). -/
theorem intSti_gives {op : Word → State → Effect Word} {e : Expected Word}
    (hexec : exec i s = outcome s (intSti op dst src3 hi lo s)) (hop : Meets (op m s₂) e) : GivesInt i s s₃ (.r dst) e :=
  givesInt_of_deliver (exec_of_withStore ha hm hexec (storeLater_readInt ha hm hs)) (pc_of_withStore ha hm hs) hop.out hop.flags

end

section
variable (hs : storeLater a1 ((readExt src3 s).extractLsb' 8 32) s₂ = .ok s₃)
include hs

/-- The word STF stores, as its instruction reads it. -/
theorem storeLater_readExt : storeLater a1 (fstore (readExt src3 s₂)) s₂ = .ok s₃ := by
  rw [readExt_of_r (indirectPair_then_work ha (readOperand_work hm)).2.1, fstore, hs]

/-- A floating-point operation with STF completes as its operation's rule says (R530). -/
theorem fltStf_gives {op : Ext → State → Effect Ext} {e : Expected Ext}
    (hexec : exec i s = outcome s (fltStf op dst src3 hi lo s)) (hop : Meets (op (fload m) s₂) e) : GivesFlt i s s₃ dst e :=
  givesFlt_of_deliver (exec_of_withStore ha hm hexec (storeLater_readExt ha hm hs)) (pc_of_withStore ha hm hs) hop.out hop.flags

end

end

/-- Settles O39: each operation by its rule, on R0-R7 as they were; FLOAT reads the word as an integer, and LDF writes its
register alone. -/
theorem floatWithStoreResults : Obligations.FloatWithStoreResults := by
  intro dst1 src1 src3 dst2 src2 a1 a2 m s s₁ s₂ s₃ ha hm hs
  have regs : s₂.r = s.r := (indirectPair_then_work ha (readOperand_work hm)).2.1
  have word := storeLater_readExt ha hm hs
  have pc := pc_of_withStore ha hm hs
  rw [← readExt_of_r regs src1]
  refine ⟨?absf, ?addf3, ?float, ?mpyf3, ?negf, ?subf3, ?ldf⟩
  case absf => exact fltStf_gives ha hm hs rfl (absf_meets _)
  case addf3 | mpyf3 | negf | subf3 => exact fltStf_gives ha hm hs rfl (float_meets _)
  case float =>
    have completes := exec_of_withStore (i := .float_stf dst1 src3 dst2 src2)
      (op := fun w t => (fstore (readExt src3 t), deliverFlt dst1 (floatEffect (ffloat w)))) ha hm rfl word
    exact givesFlt_of_deliver completes pc (float_meets _).out (float_meets _).flags
  case ldf =>
    rw [← pc]
    exact exec_of_withStore (op := fun w t => (fstore (readExt src3 t), writeExt dst1 (fload w))) ha hm rfl word

/-- Settles O40: each operation by its rule, on ST and R0-R7 as they were; LDI writes its register alone. -/
theorem integerWithStoreResults : Obligations.IntegerWithStoreResults := by
  intro dst1 src1 src3 dst2 src2 a1 a2 m s s₁ s₂ s₃ ha hm hs
  obtain ⟨-, regs, st⟩ := indirectPair_then_work ha (readOperand_work hm)
  rw [← readInt_of_r regs src1, ← st]
  refine ⟨?absi, ?addi3, ?and3, ?ash3, ?fix, ?lsh3, ?mpyi3, ?negi, ?not, ?or3, ?subi3, ?xor3, ?ldi⟩
  case absi => exact intSti_gives ha hm hs rfl abs_meets
  case addi3 => exact intSti_gives ha hm hs rfl add_meets
  case and3 | not | or3 | xor3 => exact intSti_gives ha hm hs rfl (logic_meets _)
  case ash3 => exact intSti_gives ha hm hs rfl ash_meets
  case fix => exact intSti_gives ha hm hs rfl (fix_meets _)
  case lsh3 => exact intSti_gives ha hm hs rfl lsh_meets
  case mpyi3 => exact intSti_gives ha hm hs rfl mpy_meets
  case negi => exact intSti_gives ha hm hs rfl neg_meets
  case subi3 => exact intSti_gives ha hm hs rfl sub_meets
  case ldi =>
    rw [← pc_of_withStore ha hm hs]
    exact exec_of_withStore (op := fun w t => (readInt src3 t, writeInt dst1 w)) ha hm rfl (storeLater_readInt ha hm hs)

end Sys2Proof.Machine
end

section
/-! PROOFS. The family of 47_parallel.md: the parallel multiplies (O38), two loads and two stores in one instruction (O41). -/
namespace Sys2Proof.Machine

/-! ## Two reads (R850) -/

section
variable {a b : Addr} {x y : Word} {s s₁ s₂ : State}

theorem loadPair_of_reads (hx : readFirst (offChip s a) b a s = .ok (x, s₁)) (hy : readOperand [] b s₁ = .ok (y, s₂)) :
    loadPair a b s = .ok (x, y, s₂) := by
  simp only [loadPair, hx, hy, ok_bind, pure_eq_ok]

/-- The words of src3 and src4, in the order that their places give. -/
theorem loadMul_of_reads
    (h : if offChip s a && !offChip s b then readFirst true a b s = .ok (y, s₁) ∧ readOperand [] a s₁ = .ok (x, s₂)
      else readFirst (offChip s a) b a s = .ok (x, s₁) ∧ readOperand [] b s₁ = .ok (y, s₂)) :
    loadMul a b s = .ok (x, y, s₂) := by
  rw [loadMul]
  split at h
  · next apart =>
    obtain ⟨hy, hx⟩ := h
    simp only [if_pos apart, hy, hx, ok_bind, pure_eq_ok]
  · next together =>
    obtain ⟨hx, hy⟩ := h
    rw [if_neg together, loadPair_of_reads hx hy]

end

/-! ## Multiplies with an addition or subtraction (R523) -/

/-- The model's choice of operands is the table's. -/
theorem pOperands_eq {α : Type} (p : BitVec 2) (x1 x2 x3 x4 : α) :
    pOperands p x1 x2 x3 x4 = ((byP p x1 x2 x3 x4).1.1, (byP p x1 x2 x3 x4).1.2, (byP p x1 x2 x3 x4).2) := by
  have code : p = 0#2 ∨ p = 1#2 ∨ p = 2#2 ∨ p = 3#2 := by revert p; decide
  rcases code with rfl | rfl | rfl | rfl <;> rfl

section
variable {i : Instr} {p : BitVec 2} {d1 d2 : BitVec 1} {src1 src2 : FReg} {src3 src4 : Ind Unit} {a3 a4 : Addr} {m3 m4 : Word}
  {s s₁ s₂ : State} (ha : indirectPair src3 src4 s = .ok (a3, a4, s₁)) (hm : loadMul a3 a4 s₁ = .ok (m3, m4, s₂))
include ha hm

/-- The floating-point forms: product and sum of the operands P names, then the flags of both (R543, R545). -/
theorem parallelFlt_gives {op : Ext → Ext → FResult}
    (hexec : exec i s = outcome s (parallelFlt op p d1 d2 src1 src2 src3 src4 s)) :
    let x := byP p (readExt src1 s₂) (readExt src2 s₂) (m3 ++ 0#8) (m4 ++ 0#8)
    let prod := fmul x.1.1 x.1.2
    let sum := op x.2.1 x.2.2
    ∃ st, exec i s = .next { writeExt (addDst d2) sum.val (writeExt (mulDst d1) prod.val s₂) with pc := s.pc + 1, st := st } ∧
      FlagsAre (parallelIs (prod.ovf || sum.ovf) (prod.unf || sum.unf)) s₂.st st := by
  intro x prod sum
  refine ⟨_, ?_, flagsAre_opFlags _ _ _ _ _ _⟩
  have pc : s₂.pc = s.pc := ((indirectPair_fetched ha).loadMul hm).pc
  rw [hexec, ← pc]
  simp only [parallelFlt, ha, hm, ok_bind, pOperands_eq, pure_eq_ok, outcome_ok]
  rfl

/-- The integer forms: exact product and sum of the operands P names, each narrowed by OVM, then the flags of both (R546,
R548). -/
theorem parallelInt_gives {op : Int → Int → Int}
    (hexec : exec i s = outcome s (parallelInt op p d1 d2 src1 src2 src3 src4 s)) :
    let x := byP p (readInt src1 s₂) (readInt src2 s₂) m3 m4
    let prod := product24 x.1.1 x.1.2
    let sum := op x.2.1.toInt x.2.2.toInt
    let ovm := s₂.st.getLsbD 7
    ∃ st, exec i s = .next { writeInt (addDst d2) (clamp ovm sum) (writeInt (mulDst d1) (clamp ovm prod) s₂) with
        pc := s.pc + 1, st := st } ∧
      FlagsAre (parallelIs (tooBig prod || tooBig sum) false) s₂.st st := by
  intro x prod sum ovm
  refine ⟨_, ?_, flagsAre_opFlags _ _ _ _ _ _⟩
  have pc : s₂.pc = s.pc := ((indirectPair_fetched ha).loadMul hm).pc
  rw [hexec, ← pc]
  simp only [parallelInt, ha, hm, ok_bind, pOperands_eq, mpyProduct_eq, not_fits, sat_eq_clamp, pure_eq_ok, outcome_ok]
  rfl

end

/-- Settles O38: both words in the order of their places, then each form by its shape. -/
theorem parallelMultiplyResults : Obligations.ParallelMultiplyResults := by
  intro p d1 d2 src1 src2 src3 src4 a3 a4 m3 m4 s s₁ s₂ s₃ ha reads
  have hm := loadMul_of_reads reads
  rw [← mulDst_eq, ← addDst_eq]
  refine ⟨?mpyf3_addf3, ?mpyf3_subf3, ?mpyi3_addi3, ?mpyi3_subi3⟩
  case mpyf3_addf3 | mpyf3_subf3 => exact parallelFlt_gives ha hm rfl
  case mpyi3_addi3 => exact parallelInt_gives (op := fun u v => u + v) ha hm rfl
  case mpyi3_subi3 => exact parallelInt_gives (op := fun u v => u - v) ha hm rfl

/-! ## Two loads, two stores (R538, R540, R553, R554, R560) -/

section
variable {i : Instr} {hi lo : Ind Unit} {a1 a2 : Addr} {s s₁ s₂ s₃ : State} (ha : indirectPair hi lo s = .ok (a1, a2, s₁))
include ha

/-- Two loads: both words are read before `put` writes the first, then the second. -/
theorem exec_of_twoLoads {f2 f1 : FReg} {m1 m2 : Word} {put : FReg → Word → State → State}
    (hexec : exec i s = outcome s do
      let (a, b, t) ← indirectPair hi lo s
      let (x, y, u) ← loadPair a b t
      pure (advance (put f2 y (put f1 x u))))
    (h1 : readFirst (offChip s₁ a1) a2 a1 s₁ = .ok (m1, s₂)) (h2 : readOperand [] a2 s₂ = .ok (m2, s₃)) :
    exec i s = .next (advance (put f2 m2 (put f1 m1 s₃))) := by
  simp only [hexec, ha, loadPair_of_reads h1 h2, ok_bind, pure_eq_ok, outcome_ok]

/-- Two loads leave the PC. -/
theorem pc_of_twoLoads {m1 m2 : Word} {apart : Bool} (h1 : readFirst apart a2 a1 s₁ = .ok (m1, s₂))
    (h2 : readOperand [] a2 s₂ = .ok (m2, s₃)) : s₃.pc = s.pc :=
  (((indirectPair_fetched ha).first h1).operand h2).pc

/-- Two stores: the words are those of R0-R7 before the instruction, and to one port the second takes no time (R850). -/
theorem twoStores_of_stores {v1 v2 : Word} (h1 : storeWith [a2] a1 v1 s₁ = .ok s₂) (h2 : storeSecond a1 a2 v2 s₂ = .ok s₃) :
    twoStores v1 v2 hi lo s = .ok { s₃ with
      pc := s.pc + 1, elapsed := if busPort s a1 = busPort s a2 then s₂.elapsed else s₃.elapsed } := by
  have pc : s₃.pc = s.pc := (indirectPair_then_work ha ((storeWith_work h1).trans (storeSecond_work h2))).1
  simp only [twoStores, ha, h1, h2, ok_bind, pure_eq_ok, advance, pc]

end

/-- Settles O41: the two loads by the order of their reads and writes, the two stores by their order. -/
theorem doubleLoadAndStoreResults : Obligations.DoubleLoadAndStoreResults := by
  intro f2 f1 hi lo a1 a2 m1 m2 s s₁ s₂ s₃ ha
  refine ⟨fun h1 h2 => ?loads, fun h1 h2 => ?stf_stf, fun h1 h2 => ?sti_sti⟩
  case loads =>
    rw [← pc_of_twoLoads ha h1 h2]
    exact ⟨exec_of_twoLoads (put := fun n w => writeExt n (fload w)) ha rfl h1 h2,
      exec_of_twoLoads (put := writeInt) ha rfl h1 h2⟩
  case stf_stf | sti_sti => exact congrArg (outcome s) (twoStores_of_stores ha h1 h2)

end Sys2Proof.Machine
end

section
/-! PROOFS. The family of 60_exceptions.md: an instruction within its step (O3, O4), RM (O17), and the repeat modes and delayed
branches around an instruction (O53). -/
namespace Sys2Proof.Machine

variable {i : Instr} {w : Word} {s t u : State}

/-! ## An instruction within its step (R602) -/

/-- What the fetch gives is decoded and run. -/
theorem instruction_of_fetch (hf : fetch (ready s) = .ok (w, u)) (hd : decode w = .ok i) (hz : hazard i u = none) :
    instruction s = retired (flowOf i) w u (exec i u) := by
  simp only [instruction, hf, hd]
  exact runInstr_of_none hz

/-- The CPU that runs and has recognised no interrupt (R602 steps 4 and 5). -/
theorem cpu_unrecognised (hi : t.idle = .running) (hw : t.intWindow = none) : cpu t = unrecognised t := by
  rw [cpu, if_neg (not_not_intro hi), hw]

/-- It runs an instruction where no interrupt is requested, or none that can be entered or is recognised here. -/
theorem unrecognised_runs (h : requested t = false ∨ boundary t = false ∧ t.env.intLatency = []) :
    unrecognised t = instruction { t with windowGie := false } := by
  unfold unrecognised
  rcases h with quiet | ⟨barred, prompt⟩
  · rw [quiet]; rfl
  · rw [barred, heldBack, prompt]; exact ite_self _

/-- Settles O3: the CPU's part of the step is the instruction, which is fetched, decoded and run. -/
theorem stepRunsDecoded : Obligations.StepRunsDecoded := by
  intro s t u w i ⟨hp, hl, passed, hp', hl', hb, hi, hw, hn⟩ hf hd hz
  calc step s = cpu t := step_eq_cpu hp hl passed hp' hl' hb
    _ = unrecognised t := cpu_unrecognised hi hw
    _ = instruction { t with windowGie := false } := unrecognised_runs hn
    _ = retired (flowOf i) w u (exec i u) := instruction_of_fetch hf hd hz

/-- An instruction that does not wait is complete, with what surrounds it. -/
theorem retire_complete {f : Flow} (hs : t.stalled = none) (hl : t.lockWait = 0) : retire f w s t = complete f w s t := by
  rw [retire, hs, hl]; rfl

/-- Outside repeat modes only the held word is forgotten. -/
theorem repeatUpdate_off {f : Flow} {a : Addr} (hr : s.st.getLsbD 8 = false) :
    repeatUpdate f a w s = { s with ir := none } := by
  rw [repeatUpdate, hr]; exact ite_self _

/-- Settles O4: such an instruction is retired, and `complete` names the order of what surrounds it. -/
theorem plainInstructionCompletes : Obligations.PlainInstructionCompletes := by
  intro i w s t hf hz he hs hl
  have run : runInstr i w s = .next (account 1 { delayUpdate s.delay (repeatUpdate .plain s.pc w t) with
      nopRun := 0, trapped := false }) := by
    rw [runInstr_of_none hz, he, hf, retired, retire_complete hs hl]
    rfl
  refine ⟨run, fun hd hr => ?_⟩
  rw [run, hd, repeatUpdate_off hr]
  rfl

/-! ## RM (R646, R460, R461) -/

/-- Settles O17: the load of ST bit by bit, and the two instructions by their equations. -/
theorem repeatModeBit : Obligations.RepeatModeBit := by
  intro s v
  have rm : ∀ x : Word, (x ||| 0x100#32).getLsbD 8 = true := fun x => by
    rw [BitVec.getLsbD_or]; exact Bool.or_true _
  exact ⟨⟨writeSt v s, rfl, stLoaded_bit s.rc v 8⟩, fun a => ⟨_, rfl, rm s.st⟩,
    fun src w s₁ h => ⟨_, exec_rpts h, rm s.st⟩⟩

/-! ## The end of a repeat (R642 to R644, R833) -/

/-- What the end of a repeat counts, and what RC holds afterwards: the decremented RC, inexact where it ends the repeat; or,
where the instruction has loaded RC, the decremented old value, with the load left (R56, R644, R833; log 15). -/
def Counted (s : State) (count rc : Word) : Prop :=
  count = s.rc - 1 ∧ (if 0 ≤ count.toInt then rc = count else rc = 0#32 ∨ rc = 0xFFFFFFFF#32) ∨
    ∃ old, s.rcBefore = some old ∧ count = old - 1 ∧ rc = s.rc

section
variable {count rc : Word} {a : Addr} {again : State}

theorem countPass_goesOn (h : 0 ≤ count.toInt) : countPass a count rc again s = { again with rc := rc } := by
  rw [countPass, BitVec.msb_eq_toInt, decide_eq_false (Int.not_lt.mpr h)]; rfl

theorem countPass_ends (h : count.toInt < 0) : countPass a count rc again s = leaveRepeat a rc s := by
  rw [countPass, BitVec.msb_eq_toInt, decide_eq_true h]; rfl

theorem counted_rcAfter (s t : State) : Counted s (s.rc - 1) (rcAfter (s.rc - 1) t) := by
  refine .inl ⟨rfl, ?_⟩
  rw [rcAfter, BitVec.msb_eq_toInt]
  by_cases h : 0 ≤ (s.rc - 1).toInt
  · rw [if_pos h, decide_eq_false (Int.not_lt.mpr h)]; rfl
  · rw [if_neg h, decide_eq_true (Int.not_le.mp h)]
    cases freeBit t 17
    · exact .inr rfl
    · exact .inl rfl

theorem decrementRc_cases (a : Addr) (again s : State) :
    ∃ count rc, Counted s count rc ∧ decrementRc a again s = countPass a count rc again s := by
  unfold decrementRc
  split
  · exact ⟨_, _, counted_rcAfter s s, rfl⟩
  · next old loaded =>
    split
    · exact ⟨_, _, .inr ⟨old, loaded, rfl, rfl⟩, rfl⟩
    · exact ⟨_, _, counted_rcAfter s s, rfl⟩

end

/-- Where the repeat goes on: at the same instruction, which is held, or at the start of the block (R642, R643). -/
def goesOn (a : Addr) (w : Word) (s : State) : State :=
  { s with pc := if s.repS then a else s.rs.setWidth 24, ir := if s.repS then some w else none }

section
variable {f : Flow} {a : Addr} (hf : f ≠ .repeats) (hr : s.st.getLsbD 8 = true)
include hf hr

/-- Within a block and before its end nothing is counted. -/
theorem repeatUpdate_within (hs : s.repS = false) (ha : a ≠ s.re.setWidth 24) :
    repeatUpdate f a w s = { s with ir := none } := by
  rw [← reAddr_eq] at ha
  rw [repeatUpdate, if_neg hf, if_pos hr, hs, if_neg Bool.false_ne_true, if_neg ha]

/-- A single instruction that is repeated, or one at the end of a block, counts RC. -/
theorem repeatUpdate_atEnd (he : s.repS = true ∨ a = s.re.setWidth 24) :
    repeatUpdate f a w s = decrementRc a (goesOn a w s) { s with ir := none } := by
  rw [← reAddr_eq] at he
  rw [repeatUpdate, if_neg hf, if_pos hr, goesOn, ← extractLsb'_24]
  cases hs : s.repS with
  | true => rfl
  | false => exact if_pos (he.resolve_left (by simp [hs]))

end

/-! ## A pending delayed branch (R447) -/

theorem delayUpdate_takesPlace {d : Delayed} (h : d.left ≤ 1) :
    delayUpdate (some d) s = { s with delay := none, pc := d.target.getD s.pc } := if_pos h

theorem delayUpdate_nearer {d : Delayed} (h : 1 < d.left) :
    delayUpdate (some d) s = { s with delay := some { d with left := d.left - 1 } } := if_neg (Nat.not_le.mpr h)

/-- Settles O53: outside the end of a repeat nothing is counted; at its end by whether the count goes on. -/
theorem repeatAndDelayUpdate : Obligations.RepeatAndDelayUpdate := by
  refine ⟨fun f a w s hf => ⟨repeatUpdate_off, repeatUpdate_within hf, fun hr he => ?_⟩,
    fun s d => ⟨delayUpdate_takesPlace, delayUpdate_nearer⟩⟩
  obtain ⟨count, rc, counted, pass⟩ := decrementRc_cases a (goesOn a w s) { s with ir := none }
  rw [repeatUpdate_atEnd hf hr he, pass]
  exact ⟨count, rc, counted, countPass_goesOn, countPass_ends⟩

end Sys2Proof.Machine
end

section
/-! PROOFS. The family of 60_exceptions.md: the entry of an interrupt (O55). -/
namespace Sys2Proof.Machine

variable {i : Nat} {w : Word} {t s₁ s₂ : State}

/-! ## The interrupt that is taken (R607, R617) -/

theorem lowestFlag_eq {flags : BitVec 11} (hi : i < 11) (set : flags.getLsbD i = true)
    (lower : ∀ j < i, flags.getLsbD j = false) : lowestFlag flags = i := by
  have found : (List.range 11).find? (fun k => flags.getLsbD k) = some i :=
    List.find?_range_eq_some.mpr ⟨set, List.mem_range.mpr hi, fun j hj => by simp [lower j hj]⟩
  rw [lowestFlag, found]
  rfl

/-- Where the DMA controller has acknowledged nothing in this cycle, an interrupt is pending by its bits in IF and IE. -/
theorem pendingInts_getLsbD (hs : t.shared = 0#11) {k : Nat} (hk : k < 11) :
    (pendingInts t).getLsbD k = (t.ifr.getLsbD k && t.ie.getLsbD k) := by
  simp [pendingInts, flagsSeen, hs, hk]

section
variable (hs : t.shared = 0#11) (hi : i < 11) (flagged : t.ifr.getLsbD i = true) (enabled : t.ie.getLsbD i = true)
include hs hi flagged enabled

theorem pendingInts_ne_zero : pendingInts t ≠ 0#11 := fun none => by
  have bit := pendingInts_getLsbD hs hi
  rw [none, flagged, enabled] at bit
  simp at bit

theorem lowestFlag_pendingInts (lower : ∀ j < i, (t.ifr.getLsbD j && t.ie.getLsbD j) = false) :
    lowestFlag (pendingInts t) = i :=
  lowestFlag_eq hi (by rw [pendingInts_getLsbD hs hi, flagged, enabled]; rfl)
    fun j hj => (pendingInts_getLsbD hs (hj.trans hi)).trans (lower j hj)

/-- An interrupt is entered out of IDLE, whatever GIE is (R602 step 3). -/
theorem cpu_enters_idle (hidle : t.idle = .idle) (hw : t.intWindow = none) :
    cpu t = enterStep (lowestFlag (pendingInts t)) t := by
  have idles : cpu t = idling t := if_pos (by rw [hidle]; decide)
  rw [idles, idling, if_neg (not_not_intro hidle), hw]
  exact if_pos (pendingInts_ne_zero hs hi flagged enabled)

/-- An interrupt is entered at a boundary where GIE is 1 (R602 step 4, R617). -/
theorem cpu_enters_boundary (hrun : t.idle = .running) (gie : t.st.getLsbD 13 = true) (hb : boundary t = true)
    (hl : t.lockWait = 0) (prompt : t.env.intLatency = []) (hw : t.intWindow = none) :
    cpu t = enterStep (lowestFlag (pendingInts t)) t := by
  have wanted : requested t = true := by
    rw [requested, gie]; simpa using pendingInts_ne_zero hs hi flagged enabled
  have recognised : unrecognised t = recognise t := by rw [unrecognised, wanted, hb]; rfl
  have entered : recognise t = enterHere (lowestFlag (pendingInts t)) t := by rw [recognise, prompt]
  rw [cpu_unrecognised hrun hw, recognised, entered]
  exact if_neg (not_not_intro hl)

end

/-! ## The entry (R620) -/

/-- The machine as the push of an interrupt's entry finds it: SP incremented, GIE and the flag 0, the idle state ended. -/
def interrupting (i : Nat) (t : State) : State :=
  noteAck i { t with sp := t.sp + 1, st := t.st &&& ~~~0x2000#32, ifr := setBit t.ifr i false, idle := .running }

/-- The push of an interrupt's entry, as a store. -/
theorem push_interrupting (i : Nat) (t : State) (v : Word) :
    push v (setGie false (noteAck i { t with ifr := setBit t.ifr i false, idle := .running })) =
      store ((t.sp + 1).extractLsb' 0 24) v (interrupting i t) := by
  rw [push_eq, interrupting]
  unfold noteAck
  split_ifs <;> rfl

theorem interruptVector_eq (i : Nat) : 1#24 + BitVec.ofNat 24 i = BitVec.ofNat 24 (1 + i) := (BitVec.ofNat_add 1 i).symm

/-- The machine after the entry: the PC from the vector, and the marks of what ran before forgotten. -/
def interrupted (w : Word) (s₂ : State) : State :=
  account 4 { flush { s₂ with pc := w.extractLsb' 0 24 } with
    intWindow := none, windowGie := false, nopRun := 0, trapped := false, stalled := none, ir := none }

theorem held_interrupted (q : Reg) (w : Word) (s : State) : held q (interrupted w s) = held q s := by cases q <;> rfl

/-- The acknowledgement of an interrupt is noted at its pin's synchroniser, if it has one (R612, R615). -/
theorem noteAck_cases (i : Nat) (s : State) :
    ∃ a b c d, noteAck i s = { s with sync0 := a, sync1 := b, sync2 := c, sync3 := d } := by
  unfold noteAck
  split_ifs <;> exact ⟨_, _, _, _, rfl⟩

theorem interrupting_cases (i : Nat) (t : State) : ∃ a b c d, interrupting i t = { t with
    sp := t.sp + 1, st := t.st &&& ~~~0x2000#32, ifr := setBit t.ifr i false, idle := .running
    sync0 := a, sync1 := b, sync2 := c, sync3 := d } := noteAck_cases ..

theorem interrupting_keepsRegs (i : Nat) (t : State) : KeepsRegs [.sp, .st, .ifr] t (interrupting i t) := by
  obtain ⟨_, _, _, _, noted⟩ := interrupting_cases i t
  rw [noted]
  intro q hq
  cases q with
  | sp | st | ifr => exact absurd hq (by simp)
  | _ => rfl

section
variable
  (hpush : store ((t.sp + 1).extractLsb' 0 24) (t.pc.setWidth 32) (interrupting i t) = .ok s₁)
  (hvector : loadFor .vector (BitVec.ofNat 24 (1 + i)) s₁ = .ok (w, s₂))
include hpush hvector

theorem takeInterrupt_of_store : takeInterrupt i t = .ok { s₂ with pc := w.extractLsb' 0 24 } := by
  have pushed : push (t.pc.setWidth 32)
      (setGie false (noteAck i { t with ifr := setBit t.ifr i false, idle := .running })) = .ok s₁ :=
    (push_interrupting i t _).trans hpush
  simp only [takeInterrupt, enterException, pushed, vector, interruptVector_eq, hvector, ok_bind, pure_eq_ok]

theorem enterStep_of_store (hg : t.windowGie = false) : enterStep i t = .next (interrupted w s₂) := by
  have taken := takeInterrupt_of_store hpush hvector
  simp only [enterStep, enterInterrupt, taken, hg, ok_bind, pure_eq_ok, conclude]
  rfl

/-- The push and the vector's read leave the CPU's registers but IF. -/
theorem interrupt_cpuPart : cpuPart s₂ = cpuPart (interrupting i t) :=
  (cpuPart_of_load (loadFor_keeps hvector)).trans (store_work hpush).1

/-- With the DMA controller doing nothing before it, the entry keeps what a store and a load keep. -/
theorem interrupt_keptOutside (hd : t.env.dmaWithin = []) :
    KeptOutside [] 0#32 [(t.sp + 1).extractLsb' 0 24] (interrupting i t) s₂ := by
  have quiet : (interrupting i t).env.dmaWithin = [] := by
    obtain ⟨_, _, _, _, noted⟩ := interrupting_cases i t
    rw [noted]
    exact hd
  exact (store_keptOutside quiet hpush).trans_kept (load_kept (loadFor_keeps hvector))

end

/-- Settles O55: the interrupt is the lowest one pending, and its entry a push and a vector's read. -/
theorem interruptEntry : Obligations.InterruptEntry := by
  intro s t s₁ s₂ i w hp hl passed hp' hl' hb how hw hg hs hd off hi flagged enabled lower hpush hvector
  have entry : cpu t = enterStep (lowestFlag (pendingInts t)) t := by
    rcases how with ⟨hrun, gie, bound, hlock, prompt⟩ | hidle
    · exact cpu_enters_boundary hs hi flagged enabled hrun gie bound hlock prompt hw
    · exact cpu_enters_idle hs hi flagged enabled hidle hw
  have next : step s = .next (interrupted w s₂) := by
    rw [step_eq_cpu hp hl passed hp' hl' hb, entry, lowestFlag_pendingInts hs hi flagged enabled lower]
    exact enterStep_of_store hpush hvector hg
  have part := interrupt_cpuPart hpush hvector
  have kept := interrupt_keptOutside hpush hvector hd
  have own := interrupting_keepsRegs i t
  obtain ⟨_, _, _, _, noted⟩ := interrupting_cases i t
  obtain ⟨idle, -⟩ := kept.mode
  have ifr : s₂.ifr = (interrupting i t).ifr :=
    (kept.units (List.forall_mem_singleton.mpr (by rw [noted]; exact off))).2 List.not_mem_nil
  rw [noted] at part idle ifr
  refine ⟨_, next, rfl, idle, (congrArg State.sp part :), (congrArg State.st part :), fun k => ?flags,
    (congrArg State.mem (loadFor_keeps hvector) :), fun q hq => ?regs⟩
  case flags =>
    change s₂.ifr.getLsbD k = _
    rw [ifr, getLsbD_setBit]
    by_cases hk : k = i
    · rw [hk, if_pos ⟨rfl, by omega⟩]; simp
    · simp [hk]
  case regs =>
    rw [held_interrupted, kept.regs q fun h => hq (List.mem_cons_of_mem _ h), own q hq]

end Sys2Proof.Machine
end

section
/-! PROOFS. The family of 61_bus_and_timers.md: a timer with the internal clock (O58). -/
namespace Sys2Proof.Machine

/-! ## A counter that runs (R694, R695, R697) -/

section
variable {n : Nat} {counter period : BitVec n} {mode tstat rising : Bool} (h : ¬(period = 0 ∧ counter = 0))
include h

theorem countCycle_steady :
    countCycle mode false tstat false counter period =
      { go := false, tstat := mode && tstat, counter := counter, rose := false } := by
  rw [countCycle, if_neg Bool.false_ne_true, if_neg h]
  rfl

theorem countCycle_counts (hp : counter + 1 ≠ period) :
    countCycle mode false tstat true counter period =
      { go := false, tstat := mode && tstat, counter := counter + 1, rose := false } := by
  rw [countCycle, if_neg Bool.false_ne_true, if_neg h, if_pos rfl, if_neg hp]

/-- At its period a counter starts anew, and TSTAT is toggled in clock mode, else set (R694, R695). -/
theorem countCycle_period (hp : counter + 1 = period) :
    countCycle mode false tstat true counter period =
      { go := false, tstat := if mode then !tstat else true, counter := 0, rose := !tstat } := by
  rw [countCycle, if_neg Bool.false_ne_true, if_neg h, if_pos rfl, if_pos hp]
  cases mode <;> rfl

end

/-! ## The timer (R691, R692) -/

variable {t : Timer} {pin : Bool}

theorem timerCycle_held (h : t.control.getLsbD 7 = false) :
    timerCycle t pin = ({ t with lastIn := timerInput t pin }, false) := by
  rw [timerCycle, if_neg (by rw [← BitVec.getLsbD_eq_getElem, h]; decide)]

/-- What a timer's internal clock, every second cycle, makes its counter do. -/
def internalCount (t : Timer) : CountResult 32 :=
  countCycle (t.control.getLsbD 8) false (t.control.getLsbD 11) t.half t.counter t.period

theorem timerCycle_internal (run : t.control.getLsbD 7 = true) (going : t.control.getLsbD 6 = false)
    (clock : t.control.getLsbD 9 = true) : timerCycle t pin =
      ({ t with
          control := setBit (setBit t.control 6 (internalCount t).go) 11 (internalCount t).tstat
          counter := (internalCount t).counter, half := !t.half, lastIn := timerInput t pin }, (internalCount t).rose) := by
  simp only [timerCycle, ← BitVec.getLsbD_eq_getElem, run, going, clock, if_true]
  rfl

/-- Settles O58: the timer's cycle is its counter's, which is steady, counts or is at its period. -/
theorem timerCounts : Obligations.TimerCounts := by
  intro t pin
  refine ⟨fun h => ?held, fun run going clock nonzero => ?_⟩
  case held => rw [timerCycle_held h]; exact ⟨rfl, rfl, rfl⟩
  have swapped : ¬(t.period = 0#32 ∧ t.counter = 0#32) := fun ⟨hp, hc⟩ => nonzero ⟨hc, hp⟩
  rw [timerCycle_internal run going clock]
  refine ⟨rfl, rfl, fun half => ?steady, fun half other => ?counts, fun half reached => ?period⟩
  all_goals rw [internalCount, half]
  case steady => rw [countCycle_steady swapped]; exact ⟨rfl, rfl⟩
  case counts => rw [countCycle_counts swapped other]; exact ⟨rfl, rfl⟩
  case period =>
    rw [countCycle_period swapped reached]
    exact ⟨rfl, rfl, (getLsbD_setBit ..).trans (if_pos ⟨rfl, by decide⟩)⟩

end Sys2Proof.Machine
end

section
/-! PROOFS. The family of 63_dma.md: a transfer of the DMA controller in on-chip RAM, not synchronised (O59). -/
namespace Sys2Proof.Machine

variable {a : Addr} {s : State}

/-! ## Addresses, STAT and the counter (R772, R773, R776, R782) -/

/-- The registers a transfer may not use lie on the peripheral bus (R782). -/
theorem region_of_dmaForbidden (h : dmaForbidden a = true) : region s a = .peripheral := by
  rw [region_peripheral_iff]
  simp only [dmaForbidden, Bool.or_eq_true, Bool.and_eq_true, decide_eq_true_eq, beq_iff_eq] at h
  omega

theorem dmaForbidden_ram (ha : region s a = .ram) : dmaForbidden a = false :=
  Bool.eq_false_iff.mpr fun h => by rw [region_of_dmaForbidden h] at ha; cases ha

/-- An address register after an access, by its bits for increment and decrement (R772). -/
def movedBy (c : Word) (inc dec : Nat) (a : Addr) : Addr :=
  if c.getLsbD inc && !c.getLsbD dec then a + 1 else if !c.getLsbD inc && c.getLsbD dec then a - 1 else a

theorem dmaNext_eq (c : Word) (inc dec : Nat) (a : Addr) :
    dmaNext (c.getLsbD inc) (c.getLsbD dec) a = movedBy c inc dec a := by
  rw [dmaNext, movedBy, Bool.and_comm (c.getLsbD dec)]

/-- STAT is bits 2 and 3 of the control register (R776). -/
theorem setStat_control (v : BitVec 2) (s : State) {k : Nat} (h2 : k ≠ 2) (h3 : k ≠ 3) :
    (setStat v s).dma.control.getLsbD k = s.dma.control.getLsbD k := by
  change (setBit (setBit _ 2 _) 3 _).getLsbD k = _
  rw [getLsbD_setBit, getLsbD_setBit, if_neg fun h => h3 h.1, if_neg fun h => h2 h.1]

theorem movedBy_setStat (v : BitVec 2) (s : State) {inc dec : Nat} {a : Addr} (hi : inc ≠ 2 ∧ inc ≠ 3)
    (hd : dec ≠ 2 ∧ dec ≠ 3) : movedBy (setStat v s).dma.control inc dec a = movedBy s.dma.control inc dec a := by
  simp only [movedBy, setStat_control v s hi.1 hi.2, setStat_control v s hd.1 hd.2]

/-- The controller's own registers are none of the CPU's. -/
theorem dma_keepsRegs (d : Dma) (s : State) : KeepsRegs [] s { s with dma := d } := fun q _ => by cases q <;> rfl

/-- Flags are raised where no write of IF is in the way (R618). -/
theorem raiseFlags_eq {f : BitVec 11} (h : s.ifWritten = false) :
    raiseFlags f s = { s with ifr := s.ifr ||| f.setWidth 32, ifSet := s.ifSet ||| f } := by
  have kept : flagsKept f s = f := by rw [flagsKept, h]; rfl
  rw [raiseFlags, kept]

/-- The counter counts down; DINT is raised where it reaches 0 with TCINT set, and no write of IF is in the way (R773). -/
theorem dmaCountDown_eq (h : s.ifWritten = false) : ∃ g, dmaCountDown s = { s with
    dma := { s.dma with count := s.dma.count - 1 }, ifSet := g
    ifr := if s.dma.count = 1#24 ∧ s.dma.control.getLsbD 11 = true then s.ifr ||| 0x400#32 else s.ifr } := by
  unfold dmaCountDown
  rw [← BitVec.getLsbD_eq_getElem]
  split
  · exact ⟨_, raiseFlags_eq h⟩
  · exact ⟨_, rfl⟩

/-! ## The CPU's accesses to a block of on-chip RAM (R784) -/

/-- The CPU makes both accesses that the block of an address takes in this H1 cycle. -/
def ramTaken (s : State) (a : Addr) : Bool :=
  2 ≤ (s.onChip.filter fun x => x.start = 0 && region s x.addr = .ram && x.addr.getLsbD 10 == a.getLsbD 10).length

theorem dmaMayBegin_ram (hn : s.dma.ahead = 0) (ha : region s a = .ram) : dmaMayBegin [] a s = !ramTaken s a := by
  have uses : cpuUses [] s (fun b => region s b = .ram && b.getLsbD 10 == a.getLsbD 10) = (s.onChip.filter fun x =>
      x.start = 0 && region s x.addr = .ram && x.addr.getLsbD 10 == a.getLsbD 10).length := by
    rw [cpuUses, List.nil_append, List.filter_map, List.length_map, List.filter_filter, hn]
    congr 2
    funext x
    simp only [Function.comp_apply]
    rw [Bool.and_comm, ← Bool.and_assoc]
    rfl
  rw [dmaMayBegin, ha]
  dsimp only
  rw [uses, ramTaken, ← decide_not]
  exact decide_eq_decide.mpr Nat.not_le.symm

/-! ## The two accesses of a transfer (R778, R782) -/

/-- An access to on-chip RAM takes one cycle. -/
theorem dmaLeft_ram (w : Bool) (t : State) (ha : region s a = .ram) : dmaLeft w a s t = some 0 := by
  rw [dmaLeft, ha]; rfl

/-- The machine after the read of a transfer. -/
def dmaHasRead (s : State) : State :=
  { s with dma := { s.dma with
      data := memWord s.mem s.dma.src, src := movedBy s.dma.control 4 5 s.dma.src, mid := true, acked := false
      access := none } }

theorem dmaBeginRead_ram (ha : region s s.dma.src = .ram) : dmaBeginRead s = .ok (dmaHasRead s) := by
  rw [dmaBeginRead, dmaForbidden_ram ha, loadFor_ram ha, ok_bind]
  dsimp only
  rw [dmaLeft_ram _ _ ha, dmaHasRead, ← dmaNext_eq]
  rfl

/-- The machine after the write of a transfer, which has counted it down; `g` are the flags raised in this step so far. -/
def dmaHasWritten (g : BitVec 11) (s : State) : State :=
  { s with
    mem := memWriteWord s.mem s.dma.dst s.dma.data
    ifr := if s.dma.count = 1#24 ∧ s.dma.control.getLsbD 11 = true then s.ifr ||| 0x400#32 else s.ifr
    ifSet := g
    dma := { s.dma with
      count := s.dma.count - 1, dst := movedBy s.dma.control 6 7 s.dma.dst, mid := false, acked := false, access := none } }

theorem dmaBeginWrite_ram (hi : s.ifWritten = false) (ha : region s s.dma.dst = .ram) :
    ∃ g, dmaBeginWrite s = .ok (dmaHasWritten g s) := by
  have stored : storeFor true s.dma.dst s.dma.data s = .ok (ramStore true s.dma.dst s.dma.data s) := by
    rw [storeFor, storeAfter, ha]; rfl
  obtain ⟨g, counted⟩ := dmaCountDown_eq (s := ramStore true s.dma.dst s.dma.data s) hi
  refine ⟨g, ?_⟩
  rw [dmaBeginWrite, dmaForbidden_ram ha, stored, ok_bind, dmaLeft_ram _ _ ha, counted, dmaHasWritten, ← dmaNext_eq]
  rfl

theorem dmaHasWritten_keepsRegs (g : BitVec 11) (s : State) : KeepsRegs [.ifr] s (dmaHasWritten g s) := by
  intro q hq
  cases q with
  | ifr => exact absurd (List.mem_singleton.mpr rfl) hq
  | _ => rfl

theorem dmaHasWritten_bytes (g : BitVec 11) (s : State) : KeepsBytes [s.dma.dst] s (dmaHasWritten g s) :=
  fun _ hk => memByte_memWriteWord_of_ne (hk _ (List.mem_singleton.mpr rfl))

/-! ## An H1 cycle of the controller (R775, R784) -/

/-- The address of the part that is due. -/
def dmaAddr (write : Bool) (s : State) : Addr := if write then s.dma.dst else s.dma.src

theorem dmaPart_ram {write : Bool} (hn : s.dma.ahead = 0) (he : s.env.dmaStalls = []) (ha : region s (dmaAddr write s) = .ram) :
    dmaPart [] write s =
      if ramTaken s (dmaAddr write s) then .ok s else if write then dmaBeginWrite s else dmaBeginRead s := by
  have mayBegin : dmaMayBegin [] (if write then s.dma.dst else s.dma.src) s = !ramTaken s (dmaAddr write s) :=
    dmaMayBegin_ram hn ha
  rw [dmaPart, mayBegin, he, Bool.not_not]

section
variable {last : Bool} (idle : s.dma.access = none) (hn : s.dma.ahead = 0)
include idle hn

theorem dmaCycle_stopped (start : s.dma.control.extractLsb' 0 2 = 0#2) :
    dmaCycle last s = .ok (setStat 0#2 { s with dma := { s.dma with mid := false, acked := false } }) := by
  rw [dmaCycle, if_neg (not_not_intro hn), dmaStep, idle]
  exact if_pos start

section
variable (start : s.dma.control.extractLsb' 0 2 = 3#2) (sync : s.dma.control.extractLsb' 8 2 = 0#2)
include start sync

/-- Without synchronisation the read of a transfer is due at once, unless the counter says that all are done (R773). -/
theorem dmaCycle_between (hm : s.dma.mid = false) (left : s.dma.control.getLsbD 10 = true → s.dma.count ≠ 0#24) :
    dmaCycle last s = dmaPart [] false (setStat 3#2 s) := by
  have busy : dmaStart s.dma = 3#2 := start
  have more : ¬(s.dma.control[10] = true ∧ s.dma.count = 0#24) := fun ⟨hc, h0⟩ => left hc h0
  rw [dmaCycle, if_neg (not_not_intro hn), dmaStep, idle]
  dsimp only
  rw [busy, hm, dmaBetween, busy, if_neg (not_not_intro rfl), if_neg more, dmaSync, sync]
  rfl

theorem dmaCycle_mid (hm : s.dma.mid = true) : dmaCycle last s = dmaPart [] true (setStat 3#2 s) := by
  have busy : dmaStart s.dma = 3#2 := start
  rw [dmaCycle, if_neg (not_not_intro hn), dmaStep, idle]
  dsimp only
  rw [busy, hm, dmaMid, busy, dmaSync, sync]
  rfl

end

end

/-- Settles O59: a stopped controller, then the read and the write of a transfer, each where the CPU leaves it the block. -/
theorem dmaTransfer : Obligations.DmaTransfer := by
  intro last s idle hn hi
  refine ⟨fun start => ⟨_, dmaCycle_stopped idle hn start, rfl, rfl, rfl, dma_keepsRegs _ s⟩,
    fun start sync he => ⟨fun hm left ha => ?read, fun hm ha => ?write⟩⟩
  case read =>
    have cycle := (dmaCycle_between (last := last) idle hn start sync hm left).trans
      (dmaPart_ram (write := false) (s := setStat 3#2 s) hn he ha)
    refine ⟨fun taken => ⟨setStat 3#2 s, cycle.trans (if_pos taken), hm, rfl, rfl⟩, fun free => ?_⟩
    have begins := cycle.trans ((if_neg (Bool.eq_false_iff.mp free)).trans (dmaBeginRead_ram (s := setStat 3#2 s) ha))
    exact ⟨_, begins, rfl, rfl, movedBy_setStat 3#2 s (by decide) (by decide), rfl, rfl, dma_keepsRegs _ s⟩
  case write =>
    have cycle := (dmaCycle_mid (last := last) idle hn start sync hm).trans
      (dmaPart_ram (write := true) (s := setStat 3#2 s) hn he ha)
    refine ⟨fun taken => ⟨setStat 3#2 s, cycle.trans (if_pos taken), hm, rfl, rfl⟩, fun free => ?_⟩
    obtain ⟨g, written⟩ := dmaBeginWrite_ram (s := setStat 3#2 s) hi ha
    have begins := cycle.trans ((if_neg (Bool.eq_false_iff.mp free)).trans written)
    refine ⟨_, begins, rfl, memWord_memWriteWord_same .., dmaHasWritten_bytes g (setStat 3#2 s),
      movedBy_setStat 3#2 s (by decide) (by decide), rfl, ?dint, fun q hq => ?regs⟩
    case dint => rw [← setStat_control 3#2 s (k := 11) (by decide) (by decide)]; rfl
    case regs => exact (dmaHasWritten_keepsRegs g (setStat 3#2 s) q hq).trans (dma_keepsRegs _ s q List.not_mem_nil)

end Sys2Proof.Machine
end

section
/-! PROOFS. The family of 70_reset_and_hazards.md: what reset leaves (O5, O6), and RESET from its falling to the reset vector
(O9). -/
namespace Sys2Proof.Machine

variable {s u s₁ : State} {w : Word}

/-! ## The state after reset (R802 to R807) -/

/-- Nothing delays the read of the reset vector, and external memory lists nothing (log 3). -/
theorem vector_reset : ∃ t, vector 0#24 State.reset = .ok (0#24, t) := ⟨_, rfl⟩

/-- Settles O5: each value as it stands in the state after reset, and the vector that memory then holds. -/
theorem resetValues : Obligations.ResetValues := by
  refine ⟨rfl, rfl, rfl, rfl, rfl, rfl, rfl, rfl, rfl, rfl, rfl, rfl, rfl, rfl, rfl, rfl, rfl, rfl, fun v t h => ?_⟩
  obtain ⟨_, read⟩ := vector_reset
  rw [read] at h
  cases h
  rfl

/-- Settles O6: memory lists nothing, and no register has a reserved bit set. -/
theorem invReset : Obligations.InvReset where
  mem := memWf_reset
  st := by decide
  ie := by decide
  ifr := by decide
  iof := by decide
  primary := by decide
  expansion := by decide
  delay := nofun
  loop := Nat.zero_le 4

/-! ## RESET (R800, R808) -/

theorem step_resetLow (h : s.pins.reset = false) : step s = .next (resetCycle s) := by
  rw [step, machineStep, h]; rfl

/-- The first cycle with RESET low. -/
theorem resetCycle_first (h : s.resetLow = 0) : ∃ p e n a b c d, resetCycle s =
    { resetState (masterCycle { s with elapsed := 0 }) with
      pins := p, env := e, resetLow := 1, freeCount := n, sync0 := a, sync1 := b, sync2 := c, sync3 := d } := by
  simp only [resetCycle, h, if_true, nextPins]
  generalize resetState (masterCycle _) = t
  exact ⟨_, _, _, _, _, _, _, rfl⟩

/-- A step that finds RESET high again reads the reset vector. -/
theorem step_boots (hp : s.pins.reset = true) (hl : s.resetLow = 0 ∨ 10 ≤ s.resetLow) (h : passTime s = .ok u)
    (hp' : u.pins.reset = true) (due : u.resetLow ≠ 0 ∨ u.booting = true) :
    step s = conclude (boot u) (loadReset (boot u)) := by
  have long : ¬(s.resetLow ≠ 0 ∧ s.resetLow < 10) := by omega
  rw [step, machineStep, hp, if_neg (by decide), if_neg long, h]
  dsimp only
  rw [hp', if_neg (by decide), if_pos due]

/-- The machine once the reset vector has been read. -/
def booted (w : Word) (s₁ : State) : State :=
  { s₁ with pc := w.extractLsb' 0 24, booting := false, elapsed := s₁.elapsed + 1, stalled := none }

theorem loadReset_of_load (h : loadFor .vector 0#24 u = .ok (w, s₁)) : loadReset u = .ok (booted w s₁) := by
  simp only [loadReset, vector, h, ok_bind, pure_eq_ok, booted]

theorem loadReset_of_error {e : Stop} (h : loadFor .vector 0#24 u = .error e) : loadReset u = .error e := by
  simp only [loadReset, vector, h, error_bind]

/-- A machine that waits for an access, also for one that never ends, is as it was but for the account of the buses. -/
theorem stop_waits {e : Stop} {v : Wait} (h : e = .stall v ∨ ∃ p c, e = .lockup p c ∧ v = p.wait) (s : State) :
    ∃ t, stop s e = .next t ∧ loadPart t = loadPart { s with stalled := some v } := by
  rcases h with rfl | ⟨p, c, rfl, rfl⟩
  · exact ⟨_, rfl, rfl⟩
  · exact ⟨_, rfl, loadPart_addCycle ..⟩

theorem boot_keepsRegs (s : State) : KeepsRegs [] s (boot s) := fun q _ => by cases q <;> rfl

theorem stalled_keepsRegs (v : Wait) (s : State) : KeepsRegs [] s { ready s with stalled := some v } :=
  fun q _ => by cases q <;> rfl

theorem waiting_keepsRegs (s : State) : KeepsRegs [] s (waiting s) := fun q _ => by cases q <;> rfl

/-- Settles O9: the first cycle loads what `resetState` holds; afterwards the vector is read, or its read waits. -/
theorem resetSequence : Obligations.ResetSequence := by
  refine ⟨fun s hp hl => ?falls, fun s u hp hl h hp' due => ?ends⟩
  case falls =>
    have rom : (masterCycle { s with elapsed := 0 }).rom = s.rom := (congrArg State.rom (masterCycle_work _).1 :)
    obtain ⟨_, _, _, _, _, _, _, first⟩ := resetCycle_first hl
    rw [step_resetLow hp, first]
    exact ⟨_, rfl, rfl, rfl, rfl, rfl, rfl, rfl, rfl, rfl, rfl, rfl, rfl, rfl, rfl, rfl, rfl, rfl, rom, rfl⟩
  case ends =>
    rw [step_boots hp hl h hp' due]
    refine ⟨fun w s₁ read => ?_, fun w e waits why => ?_⟩
    · have part : loadPart s₁ = loadPart (boot u) := loadFor_keeps read
      rw [loadReset_of_load (u := boot u) read]
      exact ⟨_, rfl, rfl, (congrArg State.resetLow part :), rfl, (congrArg State.st part :), (congrArg State.ie part :),
        (congrArg State.sp part :), (congrArg State.mem part :), Nat.lt_succ_self _⟩
    · obtain ⟨t, stopped, part⟩ := stop_waits why (ready (boot u))
      have next : conclude (boot u) (.error e) = .next (waiting t) := by rw [conclude, stopped]; rfl
      have regs : KeepsRegs [] u (waiting t) := keepsRegs_trans (boot_keepsRegs u) <|
        keepsRegs_trans (stalled_keepsRegs w (boot u)) <| keepsRegs_trans (keepsRegs_of_load part) (waiting_keepsRegs t)
      rw [loadReset_of_error (u := boot u) waits]
      refine ⟨_, next, (congrArg State.booting part :), (congrArg State.stalled part :), (congrArg State.pc part :),
        (congrArg State.mem part :), regs⟩

end Sys2Proof.Machine
end
